-- ==== Sys2Proof/Word.lean ====
section
/-! DEFINITION. The word types of the module: bytes, lines, addresses, agent identifiers, and the sparse table in
which the state holds a great many like things (R6, R21, Table 02.3). -/
namespace Sys2Proof

/-- One byte. -/
abbrev Byte := BitVec 8
/-- One 64 B line; data byte `i` is bits `8 i + 7 .. 8 i` (R6). -/
abbrev Line := BitVec 512
/-- One byte-enable mask of a line; bit `i` names data byte `i` (R56). -/
abbrev Mask := BitVec 64
/-- A system physical address (R21). -/
abbrev Spa := BitVec 53
/-- An instance-relative address (R56). -/
abbrev Ira := BitVec 48
/-- A global agent ID: node [21:8], port [7:3], sub-agent [2:0] (Table 02.3). -/
abbrev Agent := BitVec 22
/-- One raw flit of 256 bytes, byte `i` in bits `8 i + 7 .. 8 i` (R49). -/
abbrev Flit := BitVec 2048
/-- One 16 B slot of a flit (R49). -/
abbrev Slot := BitVec 128
/-- A 32-bit register word (R312). -/
abbrev Reg := BitVec 32
/-- A sparse table: key and value pairs, keys strictly rising, no pair holding its key's default value. -/
abbrev Table (α : Type) := List (Nat × α)

end Sys2Proof
end

