-- ==== Sys2Proof/Fields.lean ====
section
/-! DEFINITION. The records that commands carry and the state keeps: messages, route slots, regions, windows,
shares and replay descriptors, each with the fields the spec's tables give it. -/
namespace Sys2Proof

/-- The two ordering codes (R1, R2). -/
inductive Variant where
  | ma
  | ms
deriving DecidableEq, Repr

/-- The request opcodes of Table 03.6. -/
inductive ReqOp where
  | rdShared
  | rdUnique
  | rdOnce
  | cleanUnique
  | wrFull
  | wrPartial
  | ldRsv
  | stCond
  | atAdd
  | atSwap
  | atCas
  | ioRd
  | ioWr
  | fence
deriving DecidableEq, Repr

/-- The fields of a message's header slot, with its mask and data parts where the message has them (R56,
Table 03.5). -/
structure Body where
  tag  : BitVec 16
  inst : BitVec 7
  gen  : BitVec 8
  priv : Bool
  sub  : BitVec 3
  info : BitVec 18
  addr : Spa
  mask : Mask
  data : Line
deriving DecidableEq, Repr

/-- A route slot (Table 10.1). -/
structure Route where
  dst    : BitVec 14
  src    : BitVec 14
  xtag   : BitVec 16
  epoch  : BitVec 16
  mcast  : Bool
  vcb    : Bool
  alt    : Bool
  panic  : Bool
  hops   : BitVec 8
  port   : BitVec 5
  inst   : BitVec 7
  gen    : BitVec 8
  priv   : Bool
  attach : BitVec 8
  cls    : BitVec 2
  ack    : BitVec 2
  rt     : Bool
  rsn    : BitVec 16
deriving DecidableEq, Repr

/-- Where a message comes from: an agent port, a join link (with its route slot), or this module's own tile network,
which names a hopper entry by port and release sequence number (R165, R246). -/
inductive From where
  | port (p : Fin 32)
  | link (j : Fin 16) (r : Route)
  | net (p : Fin 32) (rsn : BitVec 16)
deriving DecidableEq, Repr

/-- One of the module's links: an agent port or a join link. -/
inductive LinkEnd where
  | port (p : Fin 32)
  | join (j : Fin 16)
deriving DecidableEq, Repr

/-- The header of a command packet with the queue it comes from: Q0 to Q3, or 4 for the SPI port (Table 12.3); and whether host memory
takes its reply (R295). -/
structure Hdr where
  queue : Fin 5
  seq   : BitVec 32
  key   : BitVec 16
  replyOk : Bool := true
deriving DecidableEq, Repr

/-- A buffer in host memory: its address, and the bytes that the module reads there (R417). -/
structure HostBuffer where
  src   : BitVec 64
  bytes : List Byte
deriving DecidableEq, Repr

/-- What host memory does for a queue's next command: whether it gives the packet, and takes the reply (R295). -/
structure HostAccess where
  packet : Bool
  reply  : Bool
deriving DecidableEq, Repr

/-- What training step 3 finds: the lanes that passed at both ends, and the peer's maximum width (R47). -/
structure Trained where
  lanes   : BitVec 8
  peerMax : BitVec 4
deriving DecidableEq, Repr

/-- What a start of the module finds: BOOT_SEL, and the channels whose training fails (R200, R407). -/
structure Boot where
  sel    : BitVec 2
  failed : BitVec 64
deriving DecidableEq, Repr

/-- A region table entry (Table 02.3). -/
structure Region where
  base   : BitVec 32
  limit  : BitVec 32
  owner  : BitVec 7
  rt     : Bool
  meter  : Bool
  ack    : BitVec 2
  cls    : BitVec 2
  valid  : Bool
  target : Agent
deriving DecidableEq, Repr

/-- A window entry (Table 02.4). -/
structure Window where
  base     : BitVec 36
  limit    : BitVec 36
  offset   : BitVec 41
  privOnly : Bool
  atomic   : Bool
  write    : Bool
  read     : Bool
  valid    : Bool
deriving DecidableEq, Repr

/-- A share record (Table 11.2). -/
structure Share where
  rt    : Bool
  quota : BitVec 8
  bwW   : BitVec 8
  poolW : BitVec 8
deriving DecidableEq, Repr

/-- A replay descriptor (Table 06.3). -/
structure Replay where
  start  : Spa
  count  : BitVec 32
  lead   : BitVec 16
  stride : BitVec 16
  iter   : BitVec 32
  inst   : BitVec 7
  stream : Bool
  valid  : Bool
deriving DecidableEq, Repr

/-- The filters of a counter or a histogram (R344, Tables 12.12 and 12.13). -/
structure Filter where
  privEn     : Bool
  priv       : Bool
  agent      : Agent
  agentMask  : Agent
  addrLo     : Spa
  addrHi     : Spa
  mclassMask : BitVec 6
  classMask  : BitVec 4
  opcodeMask : BitVec 32
deriving DecidableEq, Repr

end Sys2Proof
end

