-- ==== Sys2Proof/Syntax.lean ====
section
/-! DEFINITION. The commands of the module: one constructor for each row of the opcode table, in its order. -/
namespace Sys2Proof

/-- What can happen to the module: a command packet, a frame, a register access, a pin, a message, or an event of the
module's own hardware. -/
inductive Instr where
  /-- DEV_INFO (R309). -/
  | devInfo (h : Hdr)
  /-- DEV_STATUS (R423). -/
  | devStatus (h : Hdr)
  /-- DEV_RESET_WARM (R419). -/
  | devResetWarm (h : Hdr)
  /-- DEV_POWER_STATE (R421). -/
  | devPowerState (h : Hdr) (state : Byte)
  /-- FUNC_MODE_SET (R310). -/
  | funcModeSet (h : Hdr) (func : Byte) (mode : Bool)
  /-- FUNC_MODE_GET (R310). -/
  | funcModeGet (h : Hdr)
  /-- REGION_SET (R31). -/
  | regionSet (h : Hdr) (index : Byte) (entry : BitVec 128)
  /-- REGION_GET (R30). -/
  | regionGet (h : Hdr) (index : Byte)
  /-- CACHE_ENABLE (R145). -/
  | cacheEnable (h : Hdr)
  /-- CACHE_DISABLE (R146). -/
  | cacheDisable (h : Hdr)
  /-- CACHE_INVALIDATE_ALL (R143). -/
  | cacheInvalidateAll (h : Hdr)
  /-- CACHE_CLEAN_ALL (R141). -/
  | cacheCleanAll (h : Hdr)
  /-- CACHE_CLEAN_RANGE (R141). -/
  | cacheCleanRange (h : Hdr) (base : Spa) (lines : BitVec 34)
  /-- CACHE_INVAL_RANGE (R141). -/
  | cacheInvalRange (h : Hdr) (lockedOk : Bool) (base : Spa) (lines : BitVec 34)
  /-- CACHE_CLINV_RANGE (R141). -/
  | cacheClinvRange (h : Hdr) (base : Spa) (lines : BitVec 34)
  /-- CACHE_SETWAY_OP (R142). -/
  | cacheSetwayOp (h : Hdr) (tile slice : Byte) (set : BitVec 16) (way op : Byte) (lockedOk : Bool)
  /-- WAY_LOCK (R131). -/
  | wayLock (h : Hdr) (inst : Byte) (ways : BitVec 24) (slices : BitVec 64)
  /-- WAY_UNLOCK (R132). -/
  | wayUnlock (h : Hdr) (inst : Byte) (ways : BitVec 24) (slices : BitVec 64)
  /-- LINE_PIN (R133). -/
  | linePin (h : Hdr) (inst : Byte) (unpin : Bool) (lines : BitVec 32) (base : Spa)
  /-- WAY_RETIRE (R149). -/
  | wayRetire (h : Hdr) (tile slice way : Byte) (restore : Bool)
  /-- REPLAY_DESC_SET (R135). -/
  | replayDescSet (h : Hdr) (desc : Byte) (d : BitVec 256)
  /-- INST_CREATE (R273). -/
  | instCreate (h : Hdr) (inst op : Byte) (share : BitVec 32) (members : BitVec 256)
  /-- INST_DESTROY (R287). -/
  | instDestroy (h : Hdr) (inst : Byte)
  /-- INST_RESET (R284). -/
  | instReset (h : Hdr) (inst step : Byte) (drainUs : BitVec 16)
  /-- INST_SHARE_SET (R280). -/
  | instShareSet (h : Hdr) (inst : Byte) (share : BitVec 32)
  /-- INST_WINDOW_SET (R38). -/
  | instWindowSet (h : Hdr) (inst window : Byte) (entry : BitVec 256)
  /-- INST_STATUS (R288). -/
  | instStatus (h : Hdr) (inst part : Byte)
  /-- JOIN_NODE_ID_SET (R263). -/
  | joinNodeIdSet (h : Hdr) (node : BitVec 16)
  /-- JOIN_LINK_UP (R241). -/
  | joinLinkUp (h : Hdr) (link : Byte) (expect : Bool) (peer : BitVec 14)
  /-- JOIN_ROUTE_SET (R253). -/
  | joinRouteSet (h : Hdr) (multi : Bool) (link : Byte) (first count : BitVec 16) (entry : BitVec 64) (dl : Bool)
  /-- MAP_EPOCH_PREPARE (R264). -/
  | mapEpochPrepare (h : Hdr) (epoch : BitVec 16) (chunk : Byte) (vector : BitVec 256)
  /-- MAP_EPOCH_COMMIT (R265). -/
  | mapEpochCommit (h : Hdr) (epoch : BitVec 16) (at_ : BitVec 64)
  /-- NODE_LEAVE (R268). -/
  | nodeLeave (h : Hdr) (step : Byte)
  /-- MEM_TRAIN (R204). -/
  | memTrain (h : Hdr) (mode : Byte) (channels : BitVec 64)
  /-- MEM_CHANNEL_EVACUATE (R207). -/
  | memChannelEvacuate (h : Hdr) (channel : Byte) (clearRecord : Bool)
  /-- MEM_PAGE_RETIRE (R237). -/
  | memPageRetire (h : Hdr) (mode channel bank : Byte) (row : BitVec 32) (spa : Spa)
  /-- ECC_SCRUB_CFG (R231). -/
  | eccScrubCfg (h : Hdr) (op dramHours sramHours : Byte) (base : Spa) (lines : BitVec 34)
  /-- ECC_COUNT_READ (R228). -/
  | eccCountRead (h : Hdr) (tile kind index : Byte) (clear : Bool)
  /-- MARGIN_REPLAN (R401). -/
  | marginReplan (h : Hdr) (op : Byte) (planId : BitVec 32) (islands : BitVec 128)
  /-- MARGIN_LEDGER_READ (R403). -/
  | marginLedgerRead (h : Hdr) (index : BitVec 16)
  /-- THERMAL_CFG (R395). -/
  | thermalCfg (h : Hdr) (island : Byte) (freqCap powerCap : BitVec 16)
  /-- DOMAIN_POWER (R390). -/
  | domainPower (h : Hdr) (domain : Byte) (on : Bool)
  /-- ODO_CONFIG (R342). -/
  | odoConfig (h : Hdr) (counter event : BitVec 16) (flags : BitVec 6) (user : Byte) (filters : BitVec 256)
  /-- ODO_SNAPSHOT (R348). -/
  | odoSnapshot (h : Hdr) (first count : BitVec 16) (clear : Bool) (dest : BitVec 64)
  /-- HIST_CONFIG (R347). -/
  | histConfig (h : Hdr) (hist : Byte) (event : BitVec 16) (flags : BitVec 6) (filters : BitVec 256)
  /-- PERTURB_SET (R352). -/
  | perturbSet (h : Hdr) (engine target mode : Byte) (value valueMax : BitVec 16) (pattern seed : BitVec 64)
  /-- PERTURB_CLEAR (R354). -/
  | perturbClear (h : Hdr)
  /-- ERR_INJECT (R355). -/
  | errInject (h : Hdr) (kind target : Byte) (count : BitVec 16) (spa : Spa) (symbols : BitVec 72) (word bit0 bit1 : Byte)
  /-- FW_STAGE (R417). -/
  | fwStage (h : Hdr) (offset length : BitVec 32) (final : Bool) (buffer : HostBuffer)
  /-- FW_ACTIVATE (R418). -/
  | fwActivate (h : Hdr) (slot when_ : Byte)
  /-- FW_INFO (R415). -/
  | fwInfo (h : Hdr)
  /-- SAGGER_STATUS (R383). -/
  | saggerStatus (h : Hdr)
  /-- LINK_TRAIN (R444). -/
  | linkTrain (h : Hdr) (port mode : Byte)
  /-- LINK_STATUS (R309). -/
  | linkStatus (h : Hdr) (kind index : Byte)
  /-- SQ_TAIL (R293). -/
  | sqTail (q : Fin 4) (tail : BitVec 8) (packets : List (BitVec 512))
  /-- RQ_HEAD (R294). -/
  | rqHead (q : Fin 4) (head : BitVec 8)
  /-- COMMAND_START (R300). -/
  | commandStart (bytes : List Byte) (host : HostAccess)
  /-- CMD (R305). -/
  | spiCmd (packet : BitVec 512)
  /-- REPLY (R305). -/
  | spiReply
  /-- STAT (R305). -/
  | spiStat
  /-- COMPL (R305). -/
  | spiCompl
  /-- STATUS (R378). -/
  | mtrStatus
  /-- TIME (R378). -/
  | mtrTime
  /-- WINDOW_READ (R373). -/
  | windowRead (seq : BitVec 32)
  /-- AUDIT_READ (R376). -/
  | auditRead (index : BitVec 16)
  /-- PARAM_GET (R374). -/
  | paramGet (param inst : Byte)
  /-- PARAM_SET (R376). -/
  | paramSet (param inst : Byte) (value : BitVec 64)
  /-- SET_TIME (R377). -/
  | setTime (seconds : BitVec 48)
  /-- CFG_FIRE (R317). -/
  | cfgFire (value : Reg)
  /-- FIRE_APPLY (R317). -/
  | fireApply (group : Fin 8) (unit : Fin 5)
  /-- KEY_GATE (R322). -/
  | keyGate (value : Reg)
  /-- DEV_CTRL (R328). -/
  | devCtrl (value : Reg)
  /-- CMDQ_CTRL (R291). -/
  | cmdqCtrl (q : Fin 4) (value : Reg)
  /-- CMDQ_BASE_WRITE (R331). -/
  | cmdqBaseWrite (q word : Fin 4) (value : Reg)
  /-- EVT_CTRL (R336). -/
  | evtCtrl (value : Reg)
  /-- EVT_HEAD (R336). -/
  | evtHead (value : Reg)
  /-- LOW_WORD_READ (R321). -/
  | lowWordRead (offset : BitVec 25)
  /-- REGISTER_WRITE (R313). -/
  | registerWrite (offset : BitVec 25) (enables : BitVec 4) (value : Reg)
  /-- SMBUS_READ (R434). -/
  | smbusRead (code : Byte)
  /-- SMBUS_WRITE (R434). -/
  | smbusWrite (code : Byte) (value : BitVec 16) (pecOk : Bool)
  /-- ALERT_RESPONSE_ADDRESS (R435). -/
  | alertResponse
  /-- TAP_INSTRUCTION_LOAD (R437). -/
  | tapInstructionLoad (code : Byte) (rstLow : Bool)
  /-- POWER_ON (R406). -/
  | powerOn (boot : Boot)
  /-- COLD_RESET (R407). -/
  | coldReset (boot : Boot)
  /-- VIN_LOSS (R410). -/
  | vinLoss
  /-- OVER_VOLTAGE_STOP (R441). -/
  | overVoltageStop
  /-- REGULATOR_FAULT (R391). -/
  | regulatorFault (domain : Fin 64)
  /-- ENDPOINT_DISABLE (R432). -/
  | endpointDisable
  /-- VSAG_POWER_UP (R360). -/
  | vsagPowerUp
  /-- VSAG_REMOVAL (R358). -/
  | vsagRemoval
  /-- FLIT_RECEIVE (R53). -/
  | flitReceive (e : LinkEnd) (f : Flit) (cw : BitVec 4)
  /-- RETRY_REQ (R54). -/
  | retryReq (e : LinkEnd) (seq : BitVec 10)
  /-- RETRY_REQ_REPEAT (R53). -/
  | retryReqRepeat (e : LinkEnd)
  /-- PARAM (R64). -/
  | param (p : Fin 32) (w : Slot)
  /-- JPARAM (R250). -/
  | jparam (j : Fin 16) (w : Slot)
  /-- SIGNAL_LOSS (R445). -/
  | signalLoss (e : LinkEnd)
  /-- TRAINING_STEP_TIMEOUT (R445). -/
  | trainingStepTimeout (e : LinkEnd)
  /-- TRAINING_RESTART (R47). -/
  | trainingRestart (e : LinkEnd)
  /-- TRAINING_END (R48). -/
  | trainingEnd (e : LinkEnd) (t : Trained)
  /-- CONTAIN_TIMEOUT (R77). -/
  | containTimeout (p : Fin 32)
  /-- REQ_RD_SHARED (R110). -/
  | reqRdShared (f : From) (b : Body)
  /-- REQ_RD_UNIQUE (R110). -/
  | reqRdUnique (f : From) (b : Body)
  /-- REQ_RD_ONCE (R159). -/
  | reqRdOnce (f : From) (b : Body)
  /-- REQ_CLEAN_UNIQUE (R110). -/
  | reqCleanUnique (f : From) (b : Body)
  /-- REQ_WR_FULL (R157). -/
  | reqWrFull (f : From) (b : Body)
  /-- REQ_WR_PARTIAL (R157). -/
  | reqWrPartial (f : From) (b : Body)
  /-- REQ_LD_RSV (R173). -/
  | reqLdRsv (f : From) (b : Body)
  /-- REQ_ST_COND (R175). -/
  | reqStCond (f : From) (b : Body)
  /-- REQ_AT_ADD (R104). -/
  | reqAtAdd (f : From) (b : Body)
  /-- REQ_AT_SWAP (R104). -/
  | reqAtSwap (f : From) (b : Body)
  /-- REQ_AT_CAS (R104). -/
  | reqAtCas (f : From) (b : Body)
  /-- REQ_IO_RD (R72). -/
  | reqIoRd (f : From) (b : Body)
  /-- REQ_IO_WR (R172). -/
  | reqIoWr (f : From) (b : Body)
  /-- REQ_FENCE (R166). -/
  | reqFence (f : From) (b : Body)
  /-- EVN_WB_DATA (R111). -/
  | evnWbData (f : From) (b : Body)
  /-- DAT_DATA (R113). -/
  | datData (f : From) (b : Body)
  /-- DAT_DATA_POISON (R114). -/
  | datDataPoison (f : From) (b : Body)
  /-- RSP_I (R116). -/
  | rspI (f : From) (b : Body)
  /-- RSP_S (R115). -/
  | rspS (f : From) (b : Body)
  /-- RSP_I_WBPEND (R100). -/
  | rspIWbpend (f : From) (b : Body)
  /-- RSP_COMP (R72). -/
  | rspComp (f : From) (b : Body)
  /-- RSP_COMP_ERR (R72). -/
  | rspCompErr (f : From) (b : Body)
  /-- RSP_COMP_ACK (R86). -/
  | rspCompAck (f : From) (b : Body)
  /-- RSP_LEVEL (R71). -/
  | rspLevel (f : From) (b : Body)
  /-- REL_RELEASE (R163). -/
  | relRelease (f : From) (b : Body)
  /-- ACCEPTANCE_NOTICE (R161). -/
  | acceptanceNotice (f : From) (b : Body)
  /-- VISIBILITY_NOTICE (R163). -/
  | visibilityNotice (f : From) (b : Body)
  /-- RSP_SC_FAIL_RPT (R175). -/
  | rspScFailRpt (f : From) (b : Body)
  /-- RSP_LINK_FAILOVER (R259). -/
  | rspLinkFailover (j : Fin 16) (r : Route) (b : Body)
  /-- FAILOVER_NOTICE_TIMEOUT (R258). -/
  | failoverNoticeTimeout (j : Fin 16)
  /-- MULTICAST_COPY (R261). -/
  | multicastCopy (j : Fin 16) (r : Route) (groups : BitVec 64) (shared : Bool) (b : Body)
  /-- JOIN_SNOOP_DELIVERY (R251). -/
  | joinSnoopDelivery (j : Fin 16) (r : Route) (shared : Bool) (b : Body)
  /-- ORIGIN_ANSWER_DELIVERY (R245). -/
  | originAnswerDelivery (j : Fin 16) (r : Route) (cls : BitVec 3) (op : BitVec 5) (b : Body)
  /-- MESSAGE_FORWARD (R254). -/
  | messageForward (src : Option (Fin 16)) (k : BitVec 16)
  /-- TRANSACTION_START (R95). -/
  | transactionStart (line : BitVec 33)
  /-- FETCHED_DATA (R113). -/
  | fetchedData (ch : Fin 64)
  /-- BROADCAST_TOKEN (R102). -/
  | broadcastToken (t : Fin 4)
  /-- RSV_HOLD (R176). -/
  | rsvHold (agent : Agent) (line : BitVec 33)
  /-- ADMISSION (R276). -/
  | admission (t : Fin 4)
  /-- DMC_QUEUE_GRANT (R279). -/
  | dmcQueueGrant (ch : Fin 64) (wr : Bool)
  /-- DRAM_COMMAND_ISSUE (R192). -/
  | dramCommandIssue (ch : Fin 64)
  /-- REFRESH_DUE (R198). -/
  | refreshDue (ch : Fin 64) (bank : Fin 16)
  /-- PAGE_IDLE_TIMER (R190). -/
  | pageIdleTimer (ch : Fin 64) (bank : Fin 16)
  /-- DEVICE_POWER_DOWN (R212). -/
  | devicePowerDown (ch : Fin 64)
  /-- STARVE (R193). -/
  | starve (ch : Fin 64) (k : BitVec 9)
  /-- RETRAIN_DUE (R201). -/
  | retrainDue (ch : Fin 64)
  /-- RETRAIN_DEFERRAL_EXPIRY (R202). -/
  | retrainDeferralExpiry (ch : Fin 64)
  /-- RETRAIN_PAUSE_END (R203). -/
  | retrainPauseEnd (ch : Fin 64) (failed : Bool)
  /-- EVACUATION_COPY (R208). -/
  | evacuationCopy (ch : Fin 64)
  /-- GLAZE_PASS_READ (R229). -/
  | glazePassRead (ch : Fin 64)
  /-- SRAM_PASS_READ (R229). -/
  | sramPassRead (array : Fin 68)
  /-- RANGE_SCRUB_READ (R231). -/
  | rangeScrubRead (op : Nat)
  /-- ROW_RETIREMENT (R235). -/
  | rowRetirement (ch : Fin 64) (bank : Fin 16) (row : BitVec 18)
  /-- ROW_COPY (R234). -/
  | rowCopy (ch : Fin 64)
  /-- TRACKER_EXPIRY (R235). -/
  | trackerExpiry (ch : Fin 64) (bank : Fin 16) (row : BitVec 18)
  /-- REPLAY_PREFETCH (R137). -/
  | replayPrefetch (desc : Byte)
  /-- MAINTENANCE_LINE_OP (R139). -/
  | maintenanceLineOp (op : Nat)
  /-- HOPPER_ACCEPTANCE (R157). -/
  | hopperAcceptance (p : Fin 32)
  /-- HOPPER_READ_RESUME (R159). -/
  | hopperReadResume (p : Fin 32)
  /-- FENCE_COMPLETE (R166). -/
  | fenceComplete (p : Fin 32)
  /-- IO_WR_SEND (R172). -/
  | ioWrSend (p : Fin 32)
  /-- IO_TIMEOUT (R72). -/
  | ioTimeout (p : Fin 32) (tag : BitVec 16)
  /-- HOP_DRAIN_STALL (R180). -/
  | hopDrainStall (t : Fin 4)
  /-- SQUASH (R285). -/
  | squash (i : Fin 128)
  /-- ISM_RESET_STALL (R285). -/
  | ismResetStall (i : Fin 128)
  /-- RESET_COMPLETE (R285). -/
  | resetComplete (i : Fin 128)
  /-- EPOCH_BOUNDARY (R15). -/
  | epochBoundary (rates : BitVec 128) (rfm watts : BitVec 16)
  /-- TEMPERATURE_SAMPLE (R393). -/
  | temperatureSample (temps : List (BitVec 16)) (bad : BitVec 96) (dram : List Byte) (vin pin : BitVec 16)
  /-- CANARY_READING (R399). -/
  | canaryReading (c : Byte) (slack : BitVec 16)
  /-- PERIODIC_PLAN (R400). -/
  | periodicPlan
  /-- RETUNE_END (R398). -/
  | retuneEnd (i : Fin 128)
  /-- ISLAND_CLOCK_GATE (R392). -/
  | islandClockGate (i : Fin 128)
  /-- EVENT_WRITE (R337). -/
  | eventWrite (hostOk : Bool)
  /-- HOLD_OFF_END (R339). -/
  | holdOffEnd (source : Fin 288)
  /-- COALESCING_TIMEOUT (R340). -/
  | coalescingTimeout (vector : Fin 64)
  /-- LONG_OPERATION_COMPLETE (R302). -/
  | longOperationComplete (op : Nat)
  /-- PERTURBATION_RELEASE (R351). -/
  | perturbationRelease (engine : Fin 6) (target : Fin 64) (k : BitVec 10)
  /-- CREDIT_PATTERN_PERIOD (R351). -/
  | creditPatternPeriod (p : Fin 32)
  /-- TAP_BUCKET_END (R369). -/
  | tapBucketEnd (t : Fin 4)
  /-- FRAME_ORPHAN_TIMEOUT (R367). -/
  | frameOrphanTimeout (p : Fin 32) (sub : Fin 8)
  /-- TIME_LINK_DOWN (R365). -/
  | timeLinkDown (t : Fin 4)
  /-- TIME_STREAM_RETURN (R365). -/
  | timeStreamReturn (t : Fin 4)
  /-- WINDOW_BOUNDARY (R370). -/
  | windowBoundary
  /-- TAP_RECORD (R372). -/
  | tapRecord (t : Fin 4)
  /-- WINDOW_RECORD_CLOSE (R372). -/
  | windowRecordClose
  /-- SEAL_N (R375). -/
  | sealN (low : Bool)
  /-- REFERENCE_LOSS (R361). -/
  | referenceLoss
  /-- REFERENCE_LOCK (R360). -/
  | referenceLock
  /-- MIRROR_LOSS (R382). -/
  | mirrorLoss
  /-- SIGNAL_DETECT (R445). -/
  | signalDetect (e : LinkEnd)
  /-- SLOW_CLOCK_EDGE (R320). -/
  | slowClockEdge
  /-- ENDPOINT_ENABLE (R432). -/
  | endpointEnable
  /-- REFERENCE_RETURN (R361). -/
  | referenceReturn
  /-- SAGGER_MIRROR_UPDATE (R382). -/
  | saggerMirrorUpdate
  /-- SAGGER_SECOND_EDGE (R377). -/
  | saggerSecondEdge
  /-- TRAINING_COMMAND_TIMEOUT (R444). -/
  | trainingCommandTimeout (op : Nat)
  /-- BUSY_LINE_TIMEOUT (R142). -/
  | busyLineTimeout
  /-- FLUSH_SILENCE_TIMEOUT (R421). -/
  | flushSilenceTimeout (p : Fin 32)
  /-- OVER_VOLTAGE_END (R441). -/
  | overVoltageEnd (boot : Boot)
  /-- VIO_CHANGE (R427). -/
  | vioChange (present : Bool)
  /-- MARGIN_PLAN_MADE (R401). -/
  | marginPlanMade
  /-- SMBUS_CLOCK_LOW_TIMEOUT (R433). -/
  | smbusClockLowTimeout
deriving DecidableEq, Repr

end Sys2Proof
end

