-- ==== Sys2Proof/Decode.lean ====
section
/-! DEFINITION. The table of commands gives none of its rows any bits: command packets are decoded in Machine/Packets.lean from
Tables 12.3 and 12.8 to 12.13. -/
namespace Sys2Proof

/-- The command that a word of the table's bits spells: no row has bits. -/
def decodeTableWord (_nbits _w : Nat) : Option Instr := none

end Sys2Proof
end

