-- ==== Sys2Proof/Machine/Fec.lean ====
section
/-! DEFINITION. The forward error correction of a link: the RS(544,514) code over GF(2¹⁰), what a decoder can correct, how the symbols
are dealt over the lanes, and which codewords a flit lies in (R46). The field's polynomial, the generator's roots and the order of the symbols
are those of IEEE 802.3, which R46 names (PRESUMED, log 105). -/
namespace Sys2Proof.Machine
open Sys2Proof

/-! ### GF(2¹⁰) -/

/-- A symbol. -/
abbrev Sym := BitVec 10

/-- A symbol times α, where α¹⁰ = α³ + 1. -/
def gfDouble (a : Sym) : Sym := (a <<< 1) ^^^ (if a.getLsbD 9 then 0x009 else 0)

/-- The product of two symbols, by the bits of the second, high bit first. -/
def gfMul (a b : Sym) : Sym :=
  [9, 8, 7, 6, 5, 4, 3, 2, 1, 0].foldl (fun r k => gfDouble r ^^^ (if b.getLsbD k then a else 0)) 0

/-- α to a power. -/
def gfAlpha : Nat → Sym
  | 0 => 1
  | n + 1 => gfDouble (gfAlpha n)

/-! ### The code -/

/-- A polynomial, low coefficient first, times x + r. -/
def timesRoot (r : Sym) (g : List Sym) : List Sym :=
  List.zipWith (· ^^^ ·) (0 :: g) (g.map (gfMul r) ++ [0])

/-- The generator polynomial: the product of x + αʲ for j from 0 to 29, low coefficient first. -/
def fecGen : List Sym := (List.range 30).foldl (fun g j => timesRoot (gfAlpha j) g) [1]

/-- The remainder of the division by the generator with one more message symbol, high coefficient first. -/
def fecShift (parity : List Sym) (m : Sym) : List Sym :=
  let f := m ^^^ parity.headD 0
  List.zipWith (fun a g => a ^^^ gfMul f g) (parity.drop 1 ++ [0]) (fecGen.take 30).reverse

/-- The codeword of 514 message symbols, the symbol sent first at the head: the message, then its 30 parity symbols. -/
def fecEncode (m : List Sym) : List Sym := m ++ m.foldl fecShift (List.replicate 30 0)

/-- The value of a word at a point, the symbol sent first being the coefficient of the highest power. -/
def fecAt (w : List Sym) (x : Sym) : Sym := w.foldl (fun r c => gfMul r x ^^^ c) 0

/-- A word of 544 symbols is a codeword: it vanishes at every root of the generator. -/
def isCodeword (w : List Sym) : Bool := w.length == 544 && (List.range 30).all fun j => fecAt w (gfAlpha j) == 0

/-- Symbols in which two words differ. -/
def fecErrors (v w : List Sym) : Nat := ((List.zip v w).filter fun x => x.1 != x.2).length

/-- A received word is correctable: a codeword differs from it in at most 15 symbols. -/
def Correctable (w : List Sym) : Prop := ∃ c, isCodeword c = true ∧ fecErrors c w ≤ 15

/-! ### Symbols, lanes and flits -/

/-- The lane that carries symbol `k` of a codeword at a width: dealt round-robin from lane 0 on. -/
def symbolLane (width k : Nat) : Nat := k % width

/-- The codeword that bit `b` of the flit stream lies in: 5,140 message bits each, with no gap. -/
def codewordOf (b : Nat) : Nat := b / 5140
/-- The codewords that flit `n` of the stream begins and ends in: 2,048 bits, so at most two. -/
def flitFirst (n : Nat) : Nat := codewordOf (2048 * n)
def flitLast (n : Nat) : Nat := codewordOf (2048 * n + 2047)

/-- What FLIT_RECEIVE carries of the codewords of flit `n`, where `bad` tells the uncorrectable ones: 0, it begins in the codeword that
the flit before it ended in; 1, otherwise, that one is uncorrectable; 2, it ends in a further one; 3, that one is uncorrectable. -/
def codewordFlags (bad : Nat → Bool) (n : Nat) : BitVec 4 :=
  let old := n != 0 && flitLast (n - 1) == flitFirst n
  let more := flitLast n != flitFirst n
  BitVec.ofBool (more && bad (flitLast n)) ++ BitVec.ofBool more ++ BitVec.ofBool (!old && bad (flitFirst n)) ++ BitVec.ofBool old

end Sys2Proof.Machine
end

