-- ==== Sys2Proof/Config.lean ====
section
/-! DEFINITION. What the spec leaves open: free values, as constants without a body. Nothing in Lean can evaluate
them, so a statement that mentions one holds whatever its value is. -/
namespace Sys2Proof

/-- DESIGN CHOICE (log 3): the line an undefined data part holds (R61, R62, R73, R144), by draw number. -/
opaque Config.freeLine : Nat → Line
/-- DESIGN CHOICE (log 3): the tag entry READ_TAG returns before any CACHE_INVALIDATE_ALL (R142), by draw number. -/
opaque Config.freeTag : Nat → BitVec 40
/-- DESIGN CHOICE (log 3): the 72 symbols a word of three or more flipped bits, or an unstated store, leaves
(R225), by draw number. -/
opaque Config.freeWord : Nat → BitVec 64
/-- DESIGN CHOICE (log 3): the temperature a DRAM device reads before any reading has been given (R213), by channel. -/
opaque Config.freeTemp : Nat → BitVec 8
/-- DESIGN CHOICE (log 3): whether a firmware image's signature holds (R417): the spec names the check, not the
key. -/
opaque Config.signatureHolds : List Byte → Bool
/-- DESIGN CHOICE (log 3): the slack the characterisation in the flash predicts at 105 °C (R400): by canary, its slack
now, FCODE and VCODE now, temperature now, FCODE and VCODE asked about. The spec names the characterisation, not its
entries. -/
opaque Config.predictSlack : Nat → Int → Nat → Nat → Int → Nat → Nat → Int
/-- DESIGN CHOICE (log 3): the CRC-32 that the Sagger's n-th computation over its ROM gives, and the value in the ROM's
header (R380). -/
opaque Config.romCrc : Nat → BitVec 32
opaque Config.romHeader : BitVec 32
/-- DESIGN CHOICE (log 3): an unstated number, by draw number. -/
opaque Config.freeNat : Nat → Nat
/-- DESIGN CHOICE (log 41): the channels whose stored training settings fail their verification at the exit from RETAIN (R200, R422), by
draw number: an outcome of the devices that the command does not carry. -/
opaque Config.storedFails : Nat → BitVec 64
/-- DESIGN CHOICE (log 3): the voltage in mV of a fixed power domain whose voltage the spec does not give (R388). -/
opaque Config.fixedVolt : Nat → Nat
/-- DESIGN CHOICE (log 3): the PHASE bit of a reply on the SPI port, which has no ring (R293, R305), by draw number. -/
opaque Config.spiPhase : Nat → Bool
/-- DESIGN CHOICE (log 3): the 32 bytes a host reads from an SPI frame that the spec gives no content, by draw number. -/
opaque Config.spiBits : Nat → BitVec 256

end Sys2Proof
end

