-- ==== Sys2Proof/Machine/Plane.lean ====
section
/-! DEFINITION. The state of the data plane as plain data: ports, join links, hoppers, homes, directory, cache,
DRAM channels, instances, the Drayway, long operations, the event queue and the Odometer. A field's default is its
value after reset (Table 18.2). A table lists only what differs from the default of its kind. -/
namespace Sys2Proof.Machine
open Sys2Proof

/-! ### Links -/

/-- Port states (R48). -/
inductive PortState where
  | down
  | training
  | active
  | retraining
  | contained
  | detached
deriving DecidableEq, Repr

/-- Join link states (R241). -/
inductive LinkState where
  | down
  | training
  | active
  | retraining
  | failed
deriving DecidableEq, Repr

/-- What a port or join link has to send: a message of the agent link, a message of a join link with its route slot
and group slot, or a control message (Tables 03.5, 03.10, 10.1). -/
inductive Out where
  | msg (cls : BitVec 3) (op : BitVec 5) (b : Body)
  | join (r : Route) (groups : BitVec 64) (cls : BitVec 3) (op : BitVec 5) (b : Body)
  | ctrl (w : Slot)
deriving DecidableEq, Repr

/-- Credits by class: REQ, SNP, EVN, DAT, RSP, REL (R63, R249). -/
structure Credits where
  req : Nat := 0
  snp : Nat := 0
  evn : Nat := 0
  dat : Nat := 0
  rsp : Nat := 0
  rel : Nat := 0
deriving DecidableEq, Repr

/-- One flit that the module has put on a link: its type (0 MSG, 1 IDLE, 2 RETRY_REQ, 3 CTRL), SEQ, ACK_SEQ where valid, the message
or control message it carries, and its credit-return field (Tables 03.3, 03.4, 03.8, 10.3). -/
structure TxFlit where
  ftype : Nat
  seq   : Nat := 0
  ack   : Option Nat := none
  out   : Option Out := none
  cred  : BitVec 32 := 0
  /-- It lies in a codeword that ERR_INJECT corrupted (R355). -/
  bad   : Bool := false
deriving DecidableEq, Repr

/-- The link-level retry state of one end of a link (R52 to R55). -/
structure Retry where
  /-- Number of the next new flit. -/
  txSeq    : Nat := 0
  /-- Number of the next flit expected. -/
  rxSeq    : Nat := 0
  /-- A flit has been accepted, so that ACK_SEQ is valid (Table 03.4). -/
  rxAny    : Bool := false
  /-- The codeword that the last flit received ended in is uncorrectable (R46). -/
  cwBad    : Bool := false
  /-- Unacknowledged flits, oldest first. -/
  replay   : List (Nat × Out) := []
  /-- The flits put on the link since its training began, oldest first (log 85). -/
  wire     : List TxFlit := []
  /-- A RETRY_REQ has been sent and its flit awaited. -/
  waiting  : Bool := false
  /-- RETRY_REQs sent for the flit expected, without it being accepted. -/
  rxReqs   : Nat := 0
  /-- The number the last received RETRY_REQs named, and how many named it. -/
  txReqSeq : Nat := 0
  txReqs   : Nat := 0
  /-- Uncorrectable codewords in this management epoch. -/
  badCw    : Nat := 0
  /-- Uncorrectable codewords since reset. -/
  cwTotal  : Nat := 0
  /-- Consecutive failed retrains. -/
  failed   : Nat := 0
  /-- RETRY_REQs sent since reset, and flits replayed. -/
  sentReqs : Nat := 0
  /-- Codewords still to be corrupted by ERR_INJECT KIND 3 (R355). -/
  inject   : Nat := 0
  /-- The codeword that the last flit sent ended in is one of them. -/
  txBad    : Bool := false
deriving DecidableEq, Repr

/-! ### Hoppers -/

/-- Hopper entry states (Table 07.2). -/
inductive HopState where
  | sent
  | accepted
  | released
deriving DecidableEq, Repr

/-- The upper piece of a split write, with the attributes of its own region (R41, R170). -/
structure Piece where
  spa   : Spa
  mask  : Mask
  data  : Line
  cls   : BitVec 2
  ack   : BitVec 2
  rt    : Bool
  meter : Bool
  owner : Nat
deriving DecidableEq, Repr

/-- A request of an agent with all that its checks attach to it (R32, R33, R40). -/
structure Req where
  op     : ReqOp := .rdOnce
  port   : Nat := 0
  sub    : Nat := 0
  tag    : BitVec 16 := 0
  inst   : Nat := 0
  gen    : BitVec 8 := 0
  priv   : Bool := false
  info   : BitVec 18 := 0
  spa    : Spa := 0
  mask   : Mask := 0
  data   : Line := 0
  cls    : BitVec 2 := 2
  ack    : BitVec 2 := 1
  rt     : Bool := false
  meter  : Bool := false
  owner  : Nat := 0
  target : Agent := 0
  upper  : Option Piece := none
  /-- Half-nanoseconds at which the request was received. -/
  t0     : Nat := 0
  /-- The tile it is admitted on, and when its wait for a pool entry began (R276). -/
  tile   : Nat := 0
  tPool  : Option Nat := none
deriving DecidableEq, Repr

/-- One hopper entry (R158). -/
structure HopEntry where
  rsn      : Nat
  st       : HopState := .sent
  req      : Req := {}
  /-- The SPA, mask and data of this entry's piece. -/
  spa      : Spa := 0
  mask     : Mask := 0
  data     : Line := 0
  /-- 0 whole, 1 lower piece, 2 upper piece (R170). -/
  piece    : Nat := 0
  /-- A REQ.ST_COND in its sub-agent's reserve entry (R156). -/
  reserve  : Bool := false
  /-- Its acknowledge point has been reached (R167). -/
  acked    : Bool := false
  /-- Withdrawn (R179). -/
  withdrawn : Bool := false
  /-- Ended in error at its home, with the reason (R163). -/
  reason   : Option (BitVec 8) := none
  /-- A REQ.IO_WR sent towards its target (R172). -/
  ioSent   : Bool := false
  /-- The transaction entry it holds. -/
  ent      : Option Nat := none
  /-- A meter-flagged write that its tile stamped at acceptance (R18, R365). -/
  stamped  : Bool := false
  /-- The old operand an atomic returned, with poison (R104). -/
  old      : Option (Line × Bool) := none
  t0       : Nat := 0
deriving DecidableEq, Repr

/-- The parts of a split write not yet ended: how many are left, and the reasons its pieces ended with (R170). -/
structure Split where
  tag  : BitVec 16
  /-- The RSN of its lower piece. -/
  rsn  : Nat
  left : Nat := 2
  lo   : Option (BitVec 8) := none
  hi   : Option (BitVec 8) := none
deriving DecidableEq, Repr

/-- One hopper (R156). -/
structure Hopper where
  entries : List HopEntry := []
  nextRsn : Nat := 0
  /-- Reads and I/O reads held in the hopper, in order: the transaction entry of each, and the RSNs of the older entries it
  waits for that are not yet freed (R159, R160, R172). -/
  held    : List (Nat × List Nat) := []
  splits  : List Split := []
  draining : Bool := false
  drainStall : Bool := false
  /-- REQ credits held back until the drain's reset is over (R180, R419). -/
  kept    : Nat := 0
deriving DecidableEq, Repr

/-! ### Tags -/

/-- What an outstanding agent tag stands for (R67). -/
structure TagUse where
  sub  : Nat
  /-- An EVN.WB_DATA. -/
  evn  : Bool := false
  /-- A grant of S or E has been sent and RSP.COMP_ACK is awaited. -/
  ackDue : Bool := false
  /-- The home of the grant: this module's job, or a node and XTAG. -/
  job  : Option Nat := none
  home : Option (Nat × BitVec 16) := none
deriving DecidableEq, Repr

/-- What a module tag of a port stands for (R66, R68, R72). -/
inductive TagFor where
  /-- A precise snoop of a job of this module. -/
  | snoop (job : Nat)
  /-- A copy of a coarse snoop, gathered (R101, R261). -/
  | gather (id : Nat)
  /-- A precise snoop of a home on another module (R251). -/
  | remote (r : Route)
  /-- SNP.FLUSH_ALL (R268, R421). -/
  | flush
  /-- A forwarded I/O request of this module's transaction entry, or of another node (R72). -/
  | io (ent : Nat)
  | ioRemote (r : Route)
deriving DecidableEq, Repr

/-- One outstanding module tag of a port. -/
structure ModTag where
  use  : TagFor
  cls  : BitVec 3
  op   : BitVec 5
  body : Body
  /-- Its message has left the port, at this half-nanosecond (R72, R251). -/
  sent : Bool := false
  t0   : Nat := 0
deriving DecidableEq, Repr

/-! ### Perturbation -/

/-- One perturbation engine (R350 to R353). -/
structure Engine where
  mode    : Nat := 0
  value   : Nat := 0
  valMax  : Nat := 0
  pattern : BitVec 64 := 0
  gen     : BitVec 64 := 0
  /-- Pattern bit of the running period (engine 1). -/
  bit     : Nat := 0
  period  : Nat := 0
  /-- Messages held, with the added delay each was given. -/
  held    : List (Nat × Out) := []
  /-- Credits withheld: REQ and DAT. -/
  keptReq : Nat := 0
  keptDat : Nat := 0
deriving DecidableEq, Repr

/-! ### Ports and join links -/

/-- One agent port (chapter 03). -/
structure Port where
  state    : PortState := .down
  /-- Where its training stands: 0 it trains nothing, 1 it waits for signal (step 1 of Table 03.2), 2 steps 2 to 5 or the
  PARAM exchange run, 6 the module has sent its PARAM and the agent's was not sufficient, 7 the PARAM exchange has been made, 8 it
  waits 100 ms after a lane 0 failure. -/
  step     : Nat := 1
  width    : Nat := 0
  present  : BitVec 8 := 0
  caching  : BitVec 8 := 0
  /-- The last RSP.LEVEL of each sub-agent, 255 by default (R71). -/
  levels   : Table (BitVec 8) := []
  attach   : BitVec 8 := 0
  reason   : BitVec 8 := 0
  retrains : Nat := 0
  contains : Nat := 0
  /-- Credits the agent may still use, credits freed but not yet returned in a flit, and credits the module holds. -/
  given    : Credits := {}
  owed     : Credits := {}
  have_    : Credits := {}
  retry    : Retry := {}
  /-- Messages received and not yet taken on: class, opcode and body. -/
  rx       : List (BitVec 3 × BitVec 5 × Body) := []
  /-- Messages waiting to be sent. -/
  txq      : List Out := []
  /-- Responses held for the resume sequence (R75). -/
  heldRsp  : List Out := []
  tags     : Table TagUse := []
  mtags    : Table ModTag := []
  nextMtag : Nat := 0
  /-- Messages that wait for a free module tag (R66). -/
  tagWait  : List ModTag := []
  /-- Freed tags of requests whose late answer, if it comes, is discarded and counted (R72, R75). -/
  lateTags : List Nat := []
  hop      : Hopper := {}
  /-- Panic raised by fill, and by level (R195). -/
  panicFill  : Bool := false
  panicLevel : Bool := false
  engines  : Table Engine := []
  /-- CONTAIN_TIMEOUT runs from this half-nanosecond. -/
  tContain : Nat := 0
deriving DecidableEq, Repr

/-- One join link (chapter 10). -/
structure JLink where
  state    : LinkState := .down
  /-- As for a port. -/
  step     : Nat := 0
  width    : Nat := 0
  peerNode : Nat := 0
  peerLink : Nat := 0
  /-- The peer JOIN_LINK_UP expects (R242). -/
  expect   : Option Nat := none
  failPend : Bool := false
  retrains : Nat := 0
  hopDrops : Nat := 0
  /-- Credits per VC: A, B; given to the peer and held. -/
  givenA   : Credits := {}
  givenB   : Credits := {}
  /-- Credits freed but not yet returned in a flit. -/
  owedA    : Credits := {}
  owedB    : Credits := {}
  haveA    : Credits := {}
  haveB    : Credits := {}
  retry    : Retry := {}
  rx       : List Out := []
  engine   : Engine := {}
  /-- The last SEQ accepted when the link failed. -/
  lastSeq  : Nat := 1023
  /-- The replay buffer of the link as it failed, kept until the peer's notice (R258). -/
  stale    : List (Nat × Out) := []
  /-- The SEQ of a peer's notice that came before this end found the link FAILED (R258). -/
  early    : Option Nat := none
deriving DecidableEq, Repr

/-! ### Homes -/

/-- A directory entry (Table 04.3). `owned` false is SHARED. -/
structure DirEntry where
  owned  : Bool := false
  coarse : Bool := false
  cls    : BitVec 2 := 0
  tag    : BitVec 14 := 0
  dage   : Nat := 0
  /-- Precise pointers, in order (global agent IDs). -/
  ptrs   : List Nat := []
  groups : BitVec 64 := 0
deriving DecidableEq, Repr

/-- Who a home transaction serves. -/
structure Who where
  node   : Nat := 0
  port   : Nat := 0
  sub    : Nat := 0
  /-- The request came over a join link. -/
  remote : Bool := false
  /-- The agent tag of a local request, the XTAG of a remote one. -/
  tag    : BitVec 16 := 0
  rsn    : Nat := 0
  attach : BitVec 8 := 0
  hops   : Nat := 0
  inst   : Nat := 0
  gen    : BitVec 8 := 0
  priv   : Bool := false
deriving DecidableEq, Repr

/-- Internal operations on a line (R93, Table 04.5): a line of a walk or pin operation, a prefetch of a descriptor, a glaze-pass read
of a channel, a line of a RANGE scrub, a line of a channel's evacuation or of its first row copy, and the line of a command that
waits for it (R142, R355). -/
inductive Intern where
  | walk (op : Nat)
  | prefetch (desc : Nat)
  | glaze (ch : Nat)
  | range (op : Nat)
  | evac (ch : Nat)
  | rowCopy (ch : Nat)
  | command
deriving DecidableEq, Repr

/-- What a home job is (R91): a request, an eviction at its home, a back-invalidation (for the job that claims the entry,
or for a lost directory word, R225), one line of NODE_LEAVE's recall walk (R268), or another internal operation (R93). -/
inductive JobKind where
  | req (op : ReqOp)
  | evict (poison : Bool)
  | binv (forJob : Option Nat)
  | recall (op : Nat)
  | intern (w : Intern)
deriving DecidableEq, Repr

/-- Where a home job stands: waiting in the line's conflict queue, waiting for a directory entry of its set, held for a
newer map epoch, running, in a siding chain behind the running store, or waiting in H_ACK. -/
inductive Phase where
  | queued
  | setq
  | epoch
  | running
  | chained
deriving DecidableEq, Repr

/-- A claim on a directory entry (R107). -/
inductive Claim where
  | no
  | waiting
  | way (w : Nat)
deriving DecidableEq, Repr

/-- One transaction, eviction or internal operation at a home of this module (R90 to R96). -/
structure Job where
  id     : Nat
  kind   : JobKind
  /-- Home-local line number, offset bits [38:6]. -/
  line   : Nat
  phase  : Phase := .queued
  /-- The source it came from as a new request (R94). -/
  src    : Option Nat := none
  /-- Its place in the set queue (R95). -/
  setSeq : Nat := 0
  who    : Who := {}
  cls    : BitVec 2 := 2
  ack    : BitVec 2 := 1
  rt     : Bool := false
  panic  : Bool := false
  owner  : Nat := 0
  mask   : Mask := 0
  data   : Line := 0
  /-- Byte offset of the operand and SIZE16 (R61). -/
  off    : Nat := 0
  size16 : Bool := false
  ent    : Option Nat := none
  epoch  : Nat := 0
  /-- H_TOKEN. -/
  token  : Bool := false
  /-- H_SNP: agents whose answers are awaited, or nodes under a coarse broadcast. -/
  snoops : List Nat := []
  nodes  : List Nat := []
  /-- The snoop is SNP.SHARED. -/
  shared : Bool := false
  /-- H_WB: agents whose announced evictions are awaited. -/
  wb     : List Nat := []
  /-- H_MEM. -/
  mem    : Bool := false
  /-- Siding: accepted, and the release or withdrawal that has come. -/
  accepted : Bool := false
  release  : Option Bool := none
  /-- H_ACK, with the grant sent. -/
  granted : Option (BitVec 2) := none
  claim   : Claim := .no
  /-- The directory entry as it stood at the start. -/
  was     : Option DirEntry := none
  /-- Data gathered: dirty snoop or eviction data, clean snoop data, fetched data. -/
  dirty   : Option Line := none
  clean   : Option Line := none
  fetched : Option Line := none
  /-- An agent's answer or eviction was poisoned; the fetched data was poisoned. -/
  poison  : Bool := false
  fpoison : Bool := false
  /-- What the DIU found in the fetched word: 0 nothing, 1 corrected, 2 uncorrectable (R218). -/
  found   : Nat := 0
  /-- Agents that kept the line S. -/
  kept    : List Nat := []
  /-- Evictions sunk: evictor and its tag, RSP.WB_ACK owed. -/
  sunk    : List (Who × BitVec 16) := []
  /-- No copy is to be taken: aborted, squashed, or NODE_ABSENT (R75, Table 11.4). -/
  noCopy  : Bool := false
  /-- A REQ.ST_COND decided to succeed. -/
  scOk    : Bool := false
  /-- The slice was hit. -/
  hit     : Bool := false
  /-- Writes it makes that have not yet entered the write queue (R189). -/
  wpend   : Nat := 0
  /-- Everything is done but those writes. -/
  done    : Bool := false
  t0      : Nat := 0
  tSnoop  : Nat := 0
deriving DecidableEq, Repr

/-- A transaction-table entry (R90), by number: tile in [15:14], index in [13:0]. Index below 4,096 is reserved for port
index div 128. -/
structure Entry where
  req     : Req := {}
  /-- The party of a pool entry: instance, or 128 for the join party (R277). -/
  party   : Option Nat := none
  /-- The request came over a join link. -/
  join    : Bool := false
  /-- The home is on another module. -/
  remote  : Bool := false
  /-- Marked aborted at containment, or freed at the squash (R75). -/
  aborted : Bool := false
  /-- Its data has been sent to the agent (Table 11.4). -/
  sent    : Bool := false
  /-- It holds a hopper entry with this RSN. -/
  rsn     : Option Nat := none
deriving DecidableEq, Repr

/-- A reservation (R173); `hold` while RSV_HOLD lasts (R176). -/
structure Rsv where
  agent  : Nat
  line   : Nat
  gen    : BitVec 8
  attach : BitVec 8
  hold   : Bool := true
  /-- The reservation stands; a hold outlasts the reservation that the agent's next REQ.LD_RSV replaces (R176). -/
  live   : Bool := true
deriving DecidableEq, Repr

/-- A notice or release in flight on the tile network (R165). -/
structure Notice where
  /-- 0 REL.RELEASE, 1 acceptance, 2 visibility, 3 failure of a REQ.ST_COND. -/
  kind   : Nat
  port   : Nat
  rsn    : Nat
  withdraw : Bool := false
  reason : BitVec 8 := 0
  /-- The old operand of an atomic, with poison. -/
  old    : Option (Line × Bool) := none
deriving DecidableEq, Repr

/-- A release held in a tile's early-release buffer (R165). -/
structure HeldRel where
  tile   : Nat
  node   : Nat
  port   : Nat
  rsn    : Nat
  withdraw : Bool
  /-- The PANIC bit it carried (R196). -/
  panic  : Bool := false
deriving DecidableEq, Repr

/-- The gathering of one node's answers to a coarse snoop (R101, R261). -/
structure Gather where
  id    : Nat
  /-- A job of this module, or the route slot of the copy. -/
  job   : Option Nat := none
  route : Option Route := none
  spa   : Spa
  shared : Bool
  wait  : List (Nat × Nat) := []
  /-- The best answer so far: rank 0 RSP.I, 1 RSP.S, 2 RSP.I_WBPEND, 3 DAT, 4 DAT poison; its port, sub, info, data. -/
  rank  : Nat := 0
  /-- No answer has come yet. -/
  fresh : Bool := true
  port  : Nat := 0
  sub   : Nat := 0
  info  : BitVec 18 := 0
  data  : Line := 0
deriving DecidableEq, Repr

/-- One tile's home engine state (R94, R102). -/
structure HomeTile where
  rotP   : Nat := 0
  /-- The cycle of the last new request, the first job of it, P as it stood before that cycle, the sources that have delivered in it,
  and the winner of each line (R94). -/
  cyc    : Option Nat := none
  first  : Nat := 0
  base   : Nat := 0
  srcs   : List Nat := []
  wins   : List (Nat × Nat) := []
  /-- The cycle of the last admission to the pool, and the parties that have taken an entry in it (R278). -/
  tookAt : Option Nat := none
  took   : List Nat := []
  tokens : Nat := 16
  /-- Jobs waiting for a token, in the order in which they began to wait (R102). -/
  tokq   : List Nat := []
  /-- Late messages discarded at this tile's ports (R283). -/
  late   : Nat := 0
deriving DecidableEq, Repr

/-! ### Cache -/

/-- One valid way of one set, with its line (Table 06.1). -/
structure WayLine where
  tag    : BitVec 15
  dirty  : Bool := false
  age    : Nat := 0
  pin    : Bool := false
  poison : Bool := false
  unch   : Bool := false
  inst   : BitVec 7 := 0
  cls    : BitVec 2 := 0
  rpf    : Bool := false
  data   : Line := 0
deriving DecidableEq, Repr

/-- One slice's way controls: lock owner of each locked way, ways locked for a walk, retired ways (R131, R149). -/
structure Slice where
  locks    : Table Nat := []
  retired  : BitVec 24 := 0
  retiring : BitVec 24 := 0
  /-- Corrected words of each way since the start of the SRAM pass (R238). -/
  wayCe    : Table Nat := []
  /-- Ways in which an uncorrectable data or tag word has been found (R238). -/
  bad      : BitVec 24 := 0
  /-- Ways whose count has met WAY_THR in this pass, and ways whose retirement waits for a CACHE_DISABLE to end (R238, R303). -/
  told     : BitVec 24 := 0
  waits    : BitVec 24 := 0
  ce       : Nat := 0
  ue       : Nat := 0
deriving DecidableEq, Repr

/-- A replay descriptor with its prefetch state (R136). -/
structure Desc where
  d    : Replay
  k    : Option Nat := none
  n    : Nat := 0
  /-- Prefetches still to make, as positions iteration × COUNT + index: the next one, and the one after the last. -/
  next : Nat := 0
  stop : Nat := 0
deriving DecidableEq, Repr

/-- The cache control state (R144 to R148). -/
structure CacheCtl where
  enabled : Bool := false
  invDone : Bool := false
  wtAll   : Bool := false
  /-- A CACHE_INVALIDATE_ALL has completed since reset (R142). -/
  known   : Bool := false
deriving DecidableEq, Repr

/-! ### DRAM -/

/-- Channel states (Table 08.14). -/
inductive ChanState where
  | normal
  | training
  | pause0
  | pause1
  | selfRefresh
  | down
deriving DecidableEq, Repr

/-- One access waiting for, or in, a channel's queue (R189). `raw` is the line's place in the physical channel. -/
structure Access where
  wr     : Bool
  line   : Nat
  raw    : Nat
  job    : Option Nat := none
  data   : Line := 0
  poison : Bool := false
  rt     : Bool := false
  port   : Option Nat := none
  panic  : Bool := false
  internal : Bool := false
  party  : Option Nat := none
  starved : Bool := false
  /-- It opened its row itself. -/
  act    : Bool := false
  /-- A merge-base read, whose merged write is its repair (R224). -/
  rmw    : Bool := false
  /-- A read of a line that is written to another place, not back (R208, R227, R234). -/
  keep   : Bool := false
  cls    : Nat := 2
  agent  : Option Nat := none
  /-- Order of entry on the channel. -/
  seq    : Nat := 0
  t0     : Nat := 0
deriving DecidableEq, Repr

/-- One bank (R190, R198). -/
structure Bank where
  openRow : Option Nat := none
  hits    : Nat := 0
  /-- Refreshes owed (positive) or pulled in (negative). -/
  owed    : Int := 0
  /-- Activations since the last refresh-management command (R199). -/
  acts    : Nat := 0
  /-- The IDLE timer has run out with no access queued. -/
  idle    : Bool := false
deriving DecidableEq, Repr

/-- A row with recent corrections (R235). -/
structure Track where
  bank    : Nat
  row     : Nat
  count   : Nat := 0
  pending : Bool := false
deriving DecidableEq, Repr

/-- The running round of a queue's grants (R279): the party whose turn it is, what it has used of it, and each instance's weight as the
round began (R281). -/
structure Turn where
  party : Nat
  used  : Nat
  wts   : List (Nat × Nat)
deriving DecidableEq, Repr

/-- One DRAM channel (chapters 08 and 09). -/
structure Chan where
  state  : ChanState := .normal
  rq     : List Access := []
  wq     : List Access := []
  /-- Accesses waiting for a queue entry. -/
  wait   : List Access := []
  /-- Reads issued, their words on the way to the DIU: symbols s0 to s71. -/
  ret    : List (Access × List Nat) := []
  banks  : Table Bank := []
  drain  : Bool := false
  pd     : Bool := false
  /-- The running rounds, for reads and for writes (R279). -/
  turnR  : Option Turn := none
  turnW  : Option Turn := none
  nextSeq : Nat := 0
  temp     : BitVec 8 := 0
  lastTemp : BitVec 8 := 0
  refMul   : Nat := 1
  /-- The activation threshold the device reports for refresh management (R199); 0 while it has reported none. -/
  rfmThr   : Nat := 0
  retrains : Nat := 0
  due      : Bool := false
  deferred : Bool := false
  sc1Due   : Bool := false
  /-- MEM_TRAIN named it: never deferred (R202). -/
  forced   : Bool := false
  tTrain   : Nat := 0
  ce       : Nat := 0
  ue       : Nat := 0
  /-- Times of recent corrections, newest first (R207). -/
  recent   : List Nat := []
  pinFault : Bool := false
  pin      : Nat := 0
  /-- The pin the last corrected lines lie on, and the distinct rows in succession (R236). -/
  pinRun   : Option (Nat × List (Nat × Nat)) := none
  tracker  : List Track := []
  /-- Spare rows used, by bank (R233). -/
  spares   : Table Nat := []
  /-- The glaze pass's next channel-local line of the running pass (R229). -/
  glaze    : Nat := 0
  engine   : Engine := {}
  /-- Reads held by the DRAM latency engine, with their added delays (R351). -/
  heldRet  : List (Nat × Access × List Nat) := []
deriving DecidableEq, Repr

/-- A tile's evacuation (R206). State 0 none, 1 EVACUATING, 2 EVACUATED. -/
structure Evac where
  state  : Nat := 0
  chan   : Nat := 0
  cursor : Nat := 0
deriving DecidableEq, Repr

/-- A row being copied to a spare (R234): channel, bank, row, spare, cursor. -/
structure RowCopy where
  ch     : Nat
  bank   : Nat
  row    : Nat
  spare  : Nat
  cursor : Nat := 0
deriving DecidableEq, Repr

/-! ### Instances -/

/-- Instance states (R271). -/
inductive InstState where
  | free
  | active
  | resetting
  | destroying
deriving DecidableEq, Repr

/-- One instance (R271 to R287). -/
structure Inst where
  state  : InstState := .free
  share  : Share := ⟨false, 0, 0, 0⟩
  staged : Option (Share × Nat) := none
  gen    : BitVec 8 := 0
  /-- The reset's stop has been made, its squash has been made, and its counts. -/
  stopped  : Bool := false
  squashed : Bool := false
  drained  : Nat := 0
  nSquash  : Nat := 0
  proceeded : Nat := 0
  /-- Old-generation work that the squash let proceed. -/
  remain   : Nat := 0
deriving DecidableEq, Repr

/-! ### Long operations, events, Odometer -/

/-- What a long operation has to do (R302). -/
inductive Work where
  | clean (base lines : Nat)
  | cleanAll
  | inval (base lines : Nat) (lockedOk : Bool)
  | clinv (base lines : Nat)
  | wayLock (inst : Nat) (fresh : Table (BitVec 24))
  | pin (inst base lines : Nat) (unpin : Bool)
  | retire (tile slice way : Nat)
  | disable
  | instReset (inst : Nat)
  | destroy (inst : Nat)
  | share (inst : Nat)
  | linkUp (link : Nat)
  | linkTrain (port : Nat)
  | commit
  | leave (step : Nat) (all : Bool)
  | train (chans : BitVec 64) (full : Bool)
  | evac (ch : Nat)
  | pageRetire (ch bank row : Nat)
  | range (base lines : Nat)
  | plan
  | snapshot (first count : Nat) (dest : BitVec 64) (clear : Bool)
  | fwStage
  | power (state : Nat)
  | domain (d : Nat) (on : Bool)
  | approve (id : BitVec 32)
  | warmReset (train : Bool)
deriving DecidableEq, Repr

/-- One operation slot (R302): its command, its work, how far it has come, and its result. `queue` 5 is the module's own
operation, which writes no completion event. -/
structure LongOp where
  id     : Nat
  queue  : Nat
  seq    : BitVec 32
  opcode : BitVec 16
  work   : Work
  cursor : Nat := 0
  /-- Lines still in hand as home jobs. -/
  inHand : Nat := 0
  /-- Ways, with their lines, that a walk of ways has still to examine behind its cursor, and that it has examined already ahead of it:
  LINE_PIN moved those lines there (R139). -/
  extra  : List (Nat × Nat) := []
  seen   : List (Nat × Nat) := []
  a      : Nat := 0
  b      : Nat := 0
  c      : Nat := 0
  mask   : BitVec 64 := 0
  /-- The final status, once the operation has ended. -/
  ended  : Option (BitVec 8) := none
  /-- Its completion event has been queued. -/
  queued : Bool := false
  t0     : Nat := 0
deriving DecidableEq, Repr

/-- One entry of the event queue (Table 14.2). `op` is the operation slot of a completion. -/
structure Ev where
  source  : Nat
  status  : BitVec 8 := 0
  queue   : Nat := 0
  time    : Nat := 0
  code    : BitVec 16 := 0
  merged  : Nat := 0
  data    : BitVec 32 := 0
  payload : BitVec 128 := 0
  op      : Option Nat := none
deriving DecidableEq, Repr

/-- One event source's hold-off: running, and the first of the occurrences counted with their number (R339). -/
structure SrcHold where
  on      : Bool := false
  counted : Option (Ev × Nat) := none
deriving DecidableEq, Repr

/-- One Odometer counter (R342). -/
structure Counter where
  value   : BitVec 64 := 0
  event   : BitVec 16 := 0
  enable  : Bool := false
  chain   : Bool := false
  sample  : Bool := false
  userEn  : Bool := false
  user    : Nat := 0
  ovf     : Bool := false
  filter  : Filter := ⟨false, false, 0, 0, 0, 0, 0, 0, 0⟩
deriving DecidableEq, Repr

/-- One histogram (R347). -/
structure Hist where
  event  : BitVec 16 := 0
  enable : Bool := false
  sat    : Bool := false
  filter : Filter := ⟨false, false, 0, 0, 0, 0, 0, 0, 0⟩
  bins   : Table Nat := []
deriving DecidableEq, Repr

/-- The attributes of one occurrence (R344). -/
structure Occ where
  agent : Option Nat := none
  priv  : Option Bool := none
  spa   : Option Nat := none
  cls   : Option Nat := none
  msg   : Option (Nat × Nat) := none
  inst  : Nat := 0
deriving DecidableEq, Repr

/-! ### Sagger taps on the tiles -/

/-- An open frame of a sub-agent (R367): times are Sagger half-nanoseconds. -/
structure Frame where
  inst  : Nat
  start : Nat
  last  : Nat
  bytes : Nat := 0
deriving DecidableEq, Repr

/-- What a tile has gathered for one instance and window in the running bucket (R369). -/
structure Bucket where
  inst      : Nat
  win       : Nat
  bytes     : Nat := 0
  events    : Nat := 0
  adjBytes  : Nat := 0
  adjEvents : Nat := 0
  withdrawn : Nat := 0
  orphans   : Nat := 0
deriving DecidableEq, Repr

/-- A tap bucket record (Table 16.2). -/
structure TapRec where
  seq       : Nat
  unmet     : Bool := false
  isEnd     : Bool := false
  start     : Bool := false
  tile      : Nat
  inst      : Nat := 0
  win       : Nat := 0
  bytes     : Nat := 0
  events    : Nat := 0
  adjBytes  : Nat := 0
  adjEvents : Nat := 0
  withdrawn : Nat := 0
  orphans   : Nat := 0
deriving DecidableEq, Repr

/-- One tile's tap (R364 to R369). -/
structure Tap where
  down    : Bool := false
  seq     : Nat := 0
  started : Bool := false
  unmet   : Nat := 0
  buckets : List Bucket := []
  recs    : List TapRec := []
deriving DecidableEq, Repr

/-! ### The Drayway -/

/-- A message waiting to leave for another node (R254). -/
structure Fwd where
  route  : Route
  groups : BitVec 64 := 0
  cls    : BitVec 3
  op     : BitVec 5
  body   : Body
  /-- The hopper entry (port and RSN) whose sending out this is (R172). -/
  io     : Option (Nat × Nat) := none
  /-- A multicast copy bound to this link. -/
  link   : Option Nat := none
deriving DecidableEq, Repr

/-- A map being prepared (R264). -/
structure Prep where
  valid  : Bool := false
  epoch  : Nat := 0
  chunks : Table (BitVec 256) := []
  seen   : BitVec 64 := 0
deriving DecidableEq, Repr

/-- The Drayway's tables and maps (R253, R260, R264). -/
structure Drayway where
  node    : Nat := 0
  routes  : Table Reg := []
  mcast   : Table (BitVec 65) := []
  cur     : BitVec 16384 := 1
  curEp   : Nat := 0
  prev    : BitVec 16384 := 1
  prevEp  : Nat := 0
  pend    : Option (Nat × Nat × BitVec 16384) := none
  prep    : Prep := {}
  leaveDone : Nat := 0
  leaving : Bool := false
  /-- STOP_OUTBOUND is in force. -/
  stopOut : Bool := false
  out     : List Fwd := []
  /-- Destinations reported unreachable, and a held request reported, in this management epoch. -/
  unreach : List Nat := []
  heldRep : Bool := false
deriving DecidableEq, Repr

/-- The data plane: everything that serves agents' requests, with the Odometer and the event queue it feeds. -/
structure Plane where
  variant  : Variant := .ms
  /-- Half-nanoseconds since the start instant of R406 (R14); the tiles' tick. -/
  clock    : Nat := 0
  /-- Draws of free values made so far (log 3): the model's own field. -/
  draw     : Nat := 0
  /-- EPOCH_COUNT (R14). -/
  epoch    : Nat := 0
  /-- RWF registers in force that differ from their reset value, by BAR0 offset (R316). -/
  inforce  : Table Reg := []
  /-- Function modes: bit f set is host-assisted (Table 12.15). -/
  modes    : BitVec 12 := 0
  ports    : Table Port := []
  links    : Table JLink := []
  tiles    : Table HomeTile := []
  /-- Directory entries by (tile × 131,072 + set) × 16 + way (R83). -/
  dir      : Table DirEntry := []
  /-- Flipped bits of directory words, by 2 × entry (bits [63:0]) or 2 × entry + 1 (bits [127:64]) (R225). -/
  dirFlips : Table (BitVec 72) := []
  jobs     : List Job := []
  nextJob  : Nat := 1
  entries  : List (Nat × Entry) := []
  /-- Requests in the ports' receive buffers that wait for admission or for a hopper entry, oldest first. -/
  waits    : List Req := []
  /-- Requests of join links that wait for a pool entry of their home tile: link, route, opcode, body, and when the wait began. -/
  joinWait : List (Nat × Route × ReqOp × Body × Option Nat) := []
  /-- READ_LAT and WRITE_ACK_LAT still running: port, tag, source of Table 14.6, start, and the request's attributes. -/
  lats     : List (Nat × Nat × Nat × Nat × Occ) := []
  notices  : List Notice := []
  /-- Evictions of join links in a conflict queue, whose credit is not yet returned: job, link and VC B (R251). -/
  evHeld   : List (Nat × Nat × Bool) := []
  /-- Snoops and forwarded I/O of join links whose credit returns once every delivery has left its port: link, class, VC B, and what
  their module tags stand for (R251). -/
  joinHeld : List (Nat × Nat × Bool × List TagFor) := []
  relBuf   : List HeldRel := []
  /-- Stores of other modules (node, port, RSN) that ended here in a failure or a refusal: a withdrawal that crosses the report finds its
  store gone (log 96). -/
  ended    : List (Nat × Nat × Nat) := []
  gathers  : List Gather := []
  nextGather : Nat := 0
  rsvs     : List Rsv := []
  /-- Slice ways by ((tile × 16 + slice) × 4,096 + set) × 24 + way (R120). -/
  ways     : List (Nat × WayLine) := []
  /-- Flipped bits of slice data words (way × 9 + word) and tags (way × 9 + 8). -/
  sramFlips : Table (BitVec 72) := []
  slices   : Table Slice := []
  /-- Tag entries of ways invalidated since the last CACHE_INVALIDATE_ALL, as they still stand: VALID, PIN and RPF zero (R121, R142). -/
  staleTags : Table (BitVec 40) := []
  cache    : CacheCtl := {}
  descs    : List (Nat × Desc) := []
  /-- DRAM symbols by (channel × (2²⁷ + 65,536) + raw line) × 72 + symbol; an unlisted symbol is 0 (R413). -/
  dram     : Table Byte := []
  chans    : Table Chan := []
  evac     : Table Evac := []
  /-- Row remaps by (channel × 16 + bank) × 131,072 + row: spare row + 1 (R233). -/
  remaps   : Table Nat := []
  rowCopies : List RowCopy := []
  insts    : Table Inst := [(0, { state := .active, share := ⟨false, 0, 16, 16⟩ })]
  /-- The instance each sub-agent position is bound to, by 8 × port + sub-agent (R272). -/
  binds    : Table Nat := []
  /-- Valid windows by 64 × instance + index (R37). -/
  windows  : List (Nat × Window) := []
  /-- Region entries written, by number (R29). -/
  regions  : List (Nat × Region) := []
  dw       : Drayway := {}
  ops      : List LongOp := []
  nextOp   : Nat := 1
  evq      : List Ev := []
  holds    : Table SrcHold := []
  evLost   : Nat := 0
  lostFlag : Bool := false
  counters : Table Counter := []
  hists    : Table Hist := []
  /-- A sample a counter of the tile waits to take (R345). -/
  samples  : Table Nat := []
  dirCe    : Table Nat := []
  dirUe    : Table Nat := []
  rvFix    : Table Nat := []
  /-- DRAM_HOURS and SRAM_HOURS (R230). -/
  dramHours : Nat := 24
  sramHours : Nat := 1
  /-- SRAM pass positions and pass counts: slices by 16 × tile + slice, directories by 64 + tile. -/
  sramPos  : Table Nat := []
  /-- Full passes made by each tile: SRAM and DRAM (R230). -/
  sramPasses : Table Nat := []
  dramPasses : Table Nat := []
  /-- What the flash keeps of the memory: retired ways by slice, row remaps, evacuated channels (R150, R211, R233). -/
  flashWays  : Table (BitVec 24) := []
  flashRows  : Table Nat := []
  flashEvac  : BitVec 64 := 0
  /-- The tiles' replica of Sagger time, and the running window's number, start and end as the boundary marks gave them
  (R364, R370). -/
  tapTime  : Nat := 0
  winSeq   : Nat := 0
  winStart : Nat := 0
  winEnd   : Nat := 0
  taps     : Table Tap := []
  /-- Open frames by 8 × port + sub-agent (R367). -/
  frames   : List (Nat × Frame) := []
  /-- Islands whose clock is gated in IDLE (R392). -/
  gated    : BitVec 128 := 0
deriving DecidableEq, Repr

end Sys2Proof.Machine
end

