-- ==== Sys2Proof/Machine/Ops.lean ====
section
/-! DEFINITION. The named operations over tables, bytes, addresses, registers, events and counters that every family
of commands is written over. -/
namespace Sys2Proof.Machine
open Sys2Proof

/-! ### Tables -/

/-- The value a table gives a key, `d` where it lists none. -/
def tget {α : Type} (d : α) : Table α → Nat → α
  | [], _ => d
  | (k', v) :: t, k => if k' = k then v else tget d t k

/-- The value a table lists for a key. -/
def tfind {α : Type} : Table α → Nat → Option α
  | [], _ => none
  | (k', v) :: t, k => if k' = k then some v else tfind t k

/-- A table without a key. -/
def tdel {α : Type} : Table α → Nat → Table α
  | [], _ => []
  | (k', v) :: t, k => if k' = k then tdel t k else (k', v) :: tdel t k

/-- Insertion of a pair in key order. -/
def tins {α : Type} (k : Nat) (v : α) : Table α → Table α
  | [] => [(k, v)]
  | (k', v') :: t => if k < k' then (k, v) :: (k', v') :: t else (k', v') :: tins k v t

/-- A table with the key's value set, listing nothing that equals the default `d`. -/
def tput {α : Type} [DecidableEq α] (d : α) (t : Table α) (k : Nat) (v : α) : Table α :=
  if v = d then tdel t k else tins k v (tdel t k)

/-- A table with a key listed whatever its value. -/
def tset {α : Type} (t : Table α) (k : Nat) (v : α) : Table α := tins k v (tdel t k)

/-- Keys strictly rising. -/
def tsorted {α : Type} : Table α → Bool
  | [] => true
  | [_] => true
  | (a, _) :: (b, w) :: t => decide (a < b) && tsorted ((b, w) :: t)

/-- The canonical form: keys strictly rising and nothing that equals the default. -/
def twf {α : Type} [DecidableEq α] (d : α) (t : Table α) : Bool :=
  tsorted t && t.all fun x => decide (x.2 ≠ d)

/-! ### Bytes and lines -/

/-- Data byte `i` of a line (R6). -/
def byteAt (l : Line) (i : Nat) : Byte := l.extractLsb' (8 * i) 8

/-- A line with data byte `i` replaced. -/
def setByte (l : Line) (i : Nat) (b : Byte) : Line :=
  (l &&& ~~~((0xFF : Line) <<< (8 * i))) ||| (b.setWidth 512 <<< (8 * i))

/-- The bytes of `d` where the mask is set, of `base` elsewhere, over the first `n` bytes. -/
def mergeN (base d : Line) (m : Mask) : Nat → Line
  | 0 => base
  | n + 1 => let r := mergeN base d m n; if m.getLsbD n then setByte r n (byteAt d n) else r

/-- A store's bytes merged over a line (R163). -/
def merge (base d : Line) (m : Mask) : Line := mergeN base d m 64

/-- Every byte valid. -/
def fullMask : Mask := BitVec.allOnes 64

/-- Number of set bits among the first `n`. -/
def countBits {w : Nat} (m : BitVec w) : Nat → Nat
  | 0 => 0
  | n + 1 => countBits m n + (if m.getLsbD n then 1 else 0)

/-! ### Addresses -/

/-- The home tile of a local offset (R24). -/
def tileHash (o : BitVec 39) : BitVec 2 :=
  o.extractLsb' 6 2 ^^^ o.extractLsb' 12 2 ^^^ o.extractLsb' 18 2 ^^^ o.extractLsb' 24 2 ^^^ o.extractLsb' 30 2 ^^^
    o.extractLsb' 36 2

/-- The channel index within the tile of a local offset (R24). -/
def chanHash (o : BitVec 39) : BitVec 4 :=
  o.extractLsb' 8 4 ^^^ o.extractLsb' 14 4 ^^^ o.extractLsb' 20 4 ^^^ o.extractLsb' 26 4 ^^^ o.extractLsb' 32 4

/-- The channel-local line address, o[38:12] (R25). -/
def localLine (o : BitVec 39) : BitVec 27 := o.extractLsb' 12 27

/-- The offset of a home tile, channel index and channel-local line address: the inverse of R24 and R25. -/
def offsetOf (t : BitVec 2) (c : BitVec 4) (cl : BitVec 27) : BitVec 39 :=
  let hi : BitVec 39 := cl.setWidth 39 <<< 12
  hi ||| ((c ^^^ chanHash hi).setWidth 39 <<< 8) ||| ((t ^^^ tileHash hi).setWidth 39 <<< 6)

/-- The node of an SPA (R21). -/
def spaNode (a : Spa) : Nat := (a.extractLsb' 39 14).toNat
/-- The home-local line number of an SPA, o[38:6]. -/
def spaLine (a : Spa) : Nat := (a.extractLsb' 6 33).toNat
/-- The SPA of a line of a node. -/
def lineSpa (node line : Nat) : Spa := (BitVec.ofNat 14 node ++ BitVec.ofNat 33 line ++ (0 : BitVec 6) : BitVec 53)
/-- The local offset of a home-local line number. -/
def lineOff (line : Nat) : BitVec 39 := (BitVec.ofNat 33 line ++ (0 : BitVec 6) : BitVec 39)
/-- Home tile of a home-local line. -/
def lineTile (line : Nat) : Nat := (tileHash (lineOff line)).toNat
/-- Channel index within its tile of a home-local line. -/
def lineChan (line : Nat) : Nat := (chanHash (lineOff line)).toNat
/-- Channel-local line address of a home-local line. -/
def lineCl (line : Nat) : Nat := (localLine (lineOff line)).toNat
/-- The home-local line of a tile, channel index and channel-local line address. -/
def lineAt (t c cl : Nat) : Nat :=
  ((offsetOf (BitVec.ofNat 2 t) (BitVec.ofNat 4 c) (BitVec.ofNat 27 cl)).extractLsb' 6 33).toNat
/-- Global agent ID (Table 02.3). -/
def agentId (node port sub : Nat) : Nat := node * 256 + port * 8 + sub
/-- The tile of an agent port (Table 01.2). -/
def portTile (p : Nat) : Nat := p / 8
/-- The tile of a join link (Table 01.2). -/
def linkTile (j : Nat) : Nat := j / 4
/-- A line lies in the evacuation reserve (R27). -/
def inReserve (line : Nat) : Bool := line / 2 ^ 29 == 15

/-! ### Registers in force -/

/-- BAR0 base of a tile block (Table 13.3). -/
def tileBase (t : Nat) : Nat := 0x800000 + 0x200000 * t
/-- APC_PORT_CFG_p of a port (Table 13.12). -/
def aPortCfg (p : Nat) : Nat := tileBase (p / 8) + 0x40 * (p % 8)
/-- HCE_BCAST of a tile. -/
def aBcast (t : Nat) : Nat := tileBase t + 0x40000
/-- ISM_JOIN of a tile (Table 11.7). -/
def aJoin (t : Nat) : Nat := tileBase t + 0x42000
/-- DMC_CTRL, DMC_DRAIN and DMC_EVAC of a tile (Table 08.7). -/
def aDmcCtrl (t : Nat) : Nat := tileBase t + 0x100000
def aDmcDrain (t : Nat) : Nat := tileBase t + 0x100004
def aDmcEvac (t : Nat) : Nat := tileBase t + 0x100008
/-- DMC_PANIC_p of a port. -/
def aPanic (p : Nat) : Nat := tileBase (p / 8) + 0x100100 + 0x10 * (p % 8)
/-- DMC_CH_CFG_c of a channel. -/
def aChCfg (ch : Nat) : Nat := tileBase (ch / 16) + 0x100400 + 0x10 * (ch % 16)
/-- DIU_CFG of a tile (Table 09.5). -/
def aDiuCfg (t : Nat) : Nat := tileBase t + 0x140000
/-- EVT_VEC_v and EVT_SRC_n (Table 14.4). -/
def aEvtVec (v : Nat) : Nat := 0x300100 + 4 * v
def aEvtSrc (n : Nat) : Nat := 0x301000 + 4 * n

/-- KLN_CFG and KLN_ISL_i (Table 17.7). -/
def aKlnCfg : Nat := 0x100
def aKlnIsl (i : Nat) : Nat := 0x200 + 4 * i

/-- The reset value of the RWF register at a BAR0 offset: the Reset columns of Tables 08.8 to 08.13, 09.5, 11.7, 13.12,
14.4, 17.8 and 17.10; 0 where the register has no RWF field. -/
def rwfReset (a : Nat) : Reg :=
  if a = 0x100 then 0x280000A8
  else if 0x200 ≤ a ∧ a < 0x400 then 0x01000000
  else if 0x300100 ≤ a ∧ a < 0x300200 then 1
  else if 0x301000 ≤ a ∧ a < 0x301480 then
    let n := (a - 0x301000) / 4
    let k := (n - 64) % 56
    if 64 ≤ n ∧ (k = 13 ∨ k = 14) then 0x00640080 else 0x80
  else if 0x800000 ≤ a ∧ a < 0x1000000 then
    let o := (a - 0x800000) % 0x200000
    if o < 0x200 ∧ o % 0x40 = 0 then 0x02800064
    else if o = 0x40000 then 0x00100040
    else if o = 0x42000 then 0x4040
    else if o = 0x100000 then (if a = 0x900000 then 0x10040004 else 0x10040000)
    else if o = 0x100004 then 0x00786020
    else if o = 0x100008 then 1024
    else if 0x100100 ≤ o ∧ o < 0x100180 ∧ o % 0x10 = 0 then 0x030040FF
    else if 0x100400 ≤ o ∧ o < 0x100500 ∧ o % 0x10 = 0 then 0x00400030
    else if o = 0x140000 then 0x08040000
    else 0
  else 0

/-- The value in force of an RWF register (R316). -/
def regOf (t : Table Reg) (a : Nat) : Reg := tget (rwfReset a) t a
/-- The value in force of an RWF register of the plane. -/
def rg (p : Plane) (a : Nat) : Reg := regOf p.inforce a
/-- Bits [hi:lo] of a register. -/
def fld (r : Reg) (lo w : Nat) : Nat := (r.extractLsb' lo w).toNat
/-- A field in which 0 counts as 1 and a value above the maximum as the maximum (R332). -/
def clampF (v mx : Nat) : Nat := if v = 0 then 1 else min v mx
/-- Function `f` is in host-assisted mode (Table 12.15). -/
def hostMode (p : Plane) (f : Nat) : Bool := p.modes.getLsbD f

/-- Function numbers of Table 12.15. -/
def fmScrub : Nat := 0
def fmPage : Nat := 1
def fmWay : Nat := 2
def fmDram : Nat := 3
def fmLink : Nat := 4
def fmMargin : Nat := 5
def fmThermal : Nat := 6
def fmCache : Nat := 7
def fmInst : Nat := 8
def fmLeave : Nat := 9
def fmEvac : Nat := 10
def fmReplay : Nat := 11

/-! ### Component access -/

def port (p : Plane) (i : Nat) : Port := tget {} p.ports i
def setPort (p : Plane) (i : Nat) (x : Port) : Plane := { p with ports := tput {} p.ports i x }
def link (p : Plane) (i : Nat) : JLink := tget {} p.links i
def setLink (p : Plane) (i : Nat) (x : JLink) : Plane := { p with links := tput {} p.links i x }
def htile (p : Plane) (t : Nat) : HomeTile := tget {} p.tiles t
def setTile (p : Plane) (t : Nat) (x : HomeTile) : Plane := { p with tiles := tput {} p.tiles t x }
def chan (p : Plane) (c : Nat) : Chan := tget {} p.chans c
def setChan (p : Plane) (c : Nat) (x : Chan) : Plane := { p with chans := tput {} p.chans c x }
def slice (p : Plane) (n : Nat) : Slice := tget {} p.slices n
def setSlice (p : Plane) (n : Nat) (x : Slice) : Plane := { p with slices := tput {} p.slices n x }
def inst (p : Plane) (i : Nat) : Inst := tget {} p.insts i
def setInst (p : Plane) (i : Nat) (x : Inst) : Plane := { p with insts := tput {} p.insts i x }
def evacOf (p : Plane) (t : Nat) : Evac := tget {} p.evac t
def setEvac (p : Plane) (t : Nat) (x : Evac) : Plane := { p with evac := tput {} p.evac t x }
def entry? (p : Plane) (n : Nat) : Option Entry := tfind p.entries n
def setEntry (p : Plane) (n : Nat) (e : Entry) : Plane := { p with entries := tset p.entries n e }
def dropEntry (p : Plane) (n : Nat) : Plane := { p with entries := tdel p.entries n }
def job? (p : Plane) (i : Nat) : Option Job := p.jobs.find? (·.id == i)
def setJob (p : Plane) (j : Job) : Plane := { p with jobs := p.jobs.map fun x => if x.id == j.id then j else x }
def dropJob (p : Plane) (i : Nat) : Plane := { p with jobs := p.jobs.filter fun x => !(x.id == i) }
def op? (p : Plane) (i : Nat) : Option LongOp := p.ops.find? (·.id == i)
def setOp (p : Plane) (o : LongOp) : Plane := { p with ops := p.ops.map fun x => if x.id == o.id then o else x }
/-- The module's own agent of a port's sub-agent. -/
def ownAgent (p : Plane) (pt sub : Nat) : Nat := agentId p.dw.node pt sub
/-- One draw of a free value. -/
def draw1 (p : Plane) : Plane := { p with draw := p.draw + 1 }

/-! ### Events (R333 to R339) -/

/-- Slow-clock edges since the start instant, modulo 2³² (Table 14.2). -/
def slowEdges (p : Plane) : Nat := p.clock / 2000 % 2 ^ 32

/-- A payload with SPA, agent, and instance in the places of R335. -/
def payOf (spa : Nat) (agent : Nat) (instN : Nat) : BitVec 128 :=
  BitVec.ofNat 128 (spa % 2 ^ 53 + agent % 2 ^ 22 * 2 ^ 64 + instN % 128 * 2 ^ 96)
/-- A payload with tile, slice, set and way in the places of R335. -/
def payWay (t s set w : Nat) : BitVec 128 :=
  BitVec.ofNat 128 (t % 256 * 2 ^ 64 + s % 256 * 2 ^ 72 + set % 65536 * 2 ^ 80 + w % 256 * 2 ^ 96)

/-- One further occurrence folded into the last queued entry of its source (R338). -/
def foldEv (src : Nat) : List Ev → List Ev
  | [] => []
  | e :: t =>
    if e.source = src ∧ e.op = none ∧ ¬ t.any (fun x => x.source = src ∧ x.op = none) then
      { e with merged := min 65535 (e.merged + 1) } :: t
    else e :: foldEv src t

/-- An entry of this source is in the event queue. -/
def inQueue (p : Plane) (src : Nat) : Bool := p.evq.any fun e => e.source == src && e.op == none

/-- One of the 960 places not reserved for completions is free (R337). -/
def evRoom (p : Plane) : Bool := decide ((p.evq.filter fun x => x.op == none).length < 960)

/-- An entry offered to the event queue: taken while one of the 960 unreserved places is free, else folded, else lost
(R337). -/
def offerEv (p : Plane) (e : Ev) : Plane :=
  if evRoom p then { p with evq := p.evq ++ [e] }
  else if inQueue p e.source then { p with evq := foldEv e.source p.evq }
  else { p with evLost := min (2 ^ 32 - 1) (p.evLost + 1), lostFlag := true }

/-- An entry offered by a source; its hold-off runs from an entry that the queue took (R339). -/
def offerHeld (src : Nat) (e : Ev) (p : Plane) : Plane :=
  let q := offerEv p e
  if evRoom p = false ∨ fld (rg p (aEvtSrc src)) 16 16 = 0 then q else { q with holds := tput {} q.holds src { on := true } }

/-- An occurrence of a source (R337 to R339). -/
def raise (src : Nat) (code : BitVec 16) (data : BitVec 32) (pay : BitVec 128) (p : Plane) : Plane :=
  let cfg := rg p (aEvtSrc src)
  if 4 < src ∧ fld cfg 7 1 = 0 then p
  else
    let e : Ev := { source := src, time := slowEdges p, code := code, data := data, payload := pay }
    let h := tget {} p.holds src
    if h.on then
      if inQueue p src then { p with evq := foldEv src p.evq }
      else
        let c := match h.counted with
          | none => some (e, 1)
          | some (f, n) => some (f, n + 1)
        { p with holds := tput {} p.holds src { h with counted := c } }
    else offerHeld src e p

/-- The source of tile-local number `k` (R333). -/
def tileSrc (t k : Nat) : Nat := 64 + 56 * t + k

/-- A completion entry, which is never lost and never folded (R337); it ends the operation of a slot, or, for slot 0, one step of an
operation that goes on (R268). -/
def raiseCompl (o : LongOp) (slot : Nat) (status : BitVec 8) (result : BitVec 128) (p : Plane) : Plane :=
  { p with evq := p.evq ++ [{ source := o.queue, status := status, queue := o.queue, time := slowEdges p,
                              code := o.opcode, data := o.seq, payload := result, op := some slot }] }

/-! ### The Odometer (R342 to R347) -/

/-- The filters of R344. -/
def passes (f : Filter) (o : Occ) : Bool :=
  (!f.privEn || o.priv == some f.priv) &&
  (f.agentMask == 0 || (match o.agent with
    | none => false
    | some a => (BitVec.ofNat 22 a ^^^ f.agent) &&& f.agentMask == 0)) &&
  ((f.addrLo == 0 && f.addrHi == 0) || (match o.spa with
    | none => false
    | some a => decide (f.addrLo.toNat ≤ a ∧ a ≤ f.addrHi.toNat))) &&
  (f.mclassMask == 0 || (match o.msg with
    | none => false
    | some m => f.mclassMask.getLsbD m.1)) &&
  (f.classMask == 0 || (match o.cls with
    | none => false
    | some c => f.classMask.getLsbD c)) &&
  (f.opcodeMask == 0 || (match o.msg with
    | none => false
    | some m => f.opcodeMask.getLsbD m.2))

/-- The ODO_SAMPLE entry of a transaction (R345). -/
def raiseSample (n skid : Nat) (o : Occ) (p : Plane) : Plane :=
  let m := o.msg.getD (0, 0)
  raise 45 0 (BitVec.ofNat 32 n)
    (payOf (o.spa.getD 0) (o.agent.getD 0) o.inst |||
      BitVec.ofNat 128 ((m.1 % 8 * 32 + m.2 % 32) * 2 ^ 104 + (o.cls.getD 0 % 4 +
        (if o.priv = some true then 4 else 0)) * 2 ^ 112 + skid * 2 ^ 120)) p

/-- Counter `n` counts one; an overflow chains, samples or sets OVF (R345). `fuel` bounds a chain. -/
def bump : Nat → Nat → Occ → Plane → Plane
  | 0, _, _, p => p
  | fuel + 1, n, o, p =>
    let c := tget {} p.counters n
    if c.enable = false then p
    else
      let v := c.value + 1
      let q := { p with counters := tput {} p.counters n { c with value := v } }
      if v ≠ 0 then q
      else if c.chain then bump fuel (n + 1) o q
      else if c.sample then
        if (tfind q.samples (n / 256)).isSome then
          { q with counters := tput {} q.counters n { c with value := v, ovf := true } }
        else if o.spa.isSome && o.agent.isSome then raiseSample n 0 o q
        else { q with samples := tset q.samples (n / 256) n }
      else
        raise 44 0 (BitVec.ofNat 32 n) 0
          { q with counters := tput {} q.counters n { c with value := v, ovf := true } }

/-- Counter `n` takes occurrences of `code` (R345: not while the counter below it chains into it). -/
def counts (p : Plane) (t code : Nat) (o : Occ) (x : Nat × Counter) : Bool :=
  x.1 / 256 == t && x.2.enable && x.2.event == BitVec.ofNat 16 code && passes x.2.filter o &&
    !(x.1 % 256 != 0 && (tget {} p.counters (x.1 - 1)).chain)

/-- One occurrence of an event code on a tile, `n` times over (R343). -/
def occurN (t code : Nat) (o : Occ) (n : Nat) (p : Plane) : Plane :=
  (p.counters.filter (counts p t code o)).foldl
    (fun q x => (List.range n).foldl (fun r _ => bump 256 x.1 o r) q) p

/-- One occurrence of an event code on a tile. -/
def occur (t code : Nat) (o : Occ) (p : Plane) : Plane := occurN t code o 1 p

/-- A transaction starting or being admitted on a tile takes the sample the tile waits for (R345). -/
def takeSample (t : Nat) (o : Occ) (p : Plane) : Plane :=
  match tfind p.samples t with
  | none => p
  | some n => raiseSample n 1 o { p with samples := tdel p.samples t }

/-- The bin of a latency in nanoseconds (R347). -/
def binOf (ns : Nat) : Nat := if ns < 4 then 0 else min 31 (Nat.log2 ns - 1)

/-- A latency of `half` half-nanoseconds measured on a tile for a source of Table 14.6. -/
def measure (t code half : Nat) (o : Occ) (p : Plane) : Plane :=
  (p.hists.filter fun x => x.1 / 16 == t && x.2.enable && x.2.event == BitVec.ofNat 16 code && passes x.2.filter o).foldl
    (fun q x =>
      let b := binOf (half / 2)
      let v := tget 0 x.2.bins b
      let h : Hist := if v = 2 ^ 32 - 1 then { x.2 with sat := true } else
        { x.2 with bins := tput 0 x.2.bins b (v + 1), sat := x.2.sat || decide (v + 1 = 2 ^ 32 - 1) }
      { q with hists := tput {} q.hists x.1 h }) p

/-- MCLASS and OPCODE of a request (Table 03.6). -/
def reqCode : ReqOp → Nat
  | .rdShared => 0x00
  | .rdUnique => 0x01
  | .rdOnce => 0x02
  | .cleanUnique => 0x03
  | .wrFull => 0x08
  | .wrPartial => 0x09
  | .ldRsv => 0x0C
  | .stCond => 0x0D
  | .atAdd => 0x10
  | .atSwap => 0x11
  | .atCas => 0x12
  | .ioRd => 0x18
  | .ioWr => 0x19
  | .fence => 0x1F

/-- The valid entry with the lowest number that covers an SPA (R29). -/
def regionAt (p : Plane) (a : Spa) : Option Region :=
  (p.regions.find? fun x => x.2.valid && decide (x.2.base ≤ a.extractLsb' 21 32) &&
    decide (a.extractLsb' 21 32 ≤ x.2.limit)).map (·.2)

/-- The attributes of an SPA that no valid entry covers (R29). -/
def defaultRegion : Region :=
  { base := 0, limit := 0, owner := 0, rt := false, meter := false, ack := 1, cls := 2, valid := false, target := 0 }

/-- The attributes of an SPA. -/
def attrsOf (p : Plane) (a : Spa) : Region := (regionAt p a).getD defaultRegion

/-- ADDR names an SPA in messages with these codes: all but REQ.FENCE, SNP.FLUSH_ALL, RSP.COMP, RSP.COMP_ERR, RSP.COMP_ACK, RSP.WB_ACK
and RSP.LEVEL (R57). -/
def hasAddr (cls op : Nat) : Bool :=
  !(cls == 0 && op == 0x1F) && !(cls == 1 && op == 2) && !(cls == 4 && decide (8 ≤ op))

/-- The attributes of a message of a sub-agent that names an SPA or none: the class is that of the SPA (log 106). -/
def msgOcc (p : Plane) (i cls op : Nat) (b : Body) (a : Option Spa) : Occ :=
  { agent := some (ownAgent p i b.sub.toNat), spa := a.map (·.toNat), cls := a.map fun s => (attrsOf p s).cls.toNat,
    msg := some (cls, op), inst := b.inst.toNat }

/-- The attributes of a request's occurrences. -/
def reqOcc (p : Plane) (r : Req) : Occ :=
  { agent := some (ownAgent p r.port r.sub), priv := some r.priv, spa := some r.spa.toNat, cls := some r.cls.toNat,
    msg := some (0, reqCode r.op), inst := r.inst }

/-- The attributes of a home job's occurrences. -/
def jobOcc (p : Plane) (j : Job) : Occ :=
  { agent := some (agentId j.who.node j.who.port j.who.sub), priv := some j.who.priv,
    spa := some (lineSpa p.dw.node j.line).toNat, cls := some j.cls.toNat,
    msg := some (match j.kind with
      | .req op => (0, reqCode op)
      | .evict _ => (2, 0)
      | _ => (0, 0)),
    inst := j.who.inst }

/-! ### Predicates on requests -/

/-- The line requests: RD_SHARED, RD_UNIQUE, RD_ONCE, LD_RSV, and the upgrade CLEAN_UNIQUE (R57). -/
def isLineReq : ReqOp → Bool
  | .rdShared | .rdUnique | .rdOnce | .cleanUnique | .ldRsv => true
  | _ => false

/-- The read-class requests: the line requests but CLEAN_UNIQUE, which R283 names beside them (log 106). -/
def isReadClass : ReqOp → Bool
  | .rdShared | .rdUnique | .rdOnce | .ldRsv => true
  | _ => false

/-- Home atomics. -/
def isAtomic : ReqOp → Bool
  | .atAdd | .atSwap | .atCas => true
  | _ => false

/-- Stores (R153). -/
def isStore : ReqOp → Bool
  | .wrFull | .wrPartial | .stCond | .atAdd | .atSwap | .atCas | .ioWr => true
  | _ => false

end Sys2Proof.Machine
end

