-- ==== Sys2Proof/Machine/LineCode.lean ====
section
/-! DEFINITION. The DRAM line code: RS(72,64) over GF(2⁸), poison, and the DIU's classification of a word read
(R214 to R218). Symbols are naturals below 256; a word is the list s0 to s71. -/
namespace Sys2Proof.Machine
open Sys2Proof

/-- Multiplication by α = 2 modulo x⁸ + x⁴ + x³ + x² + 1 (R214). -/
def gdouble (a : Nat) : Nat := if a < 128 then 2 * a else (2 * a) ^^^ 0x11D

/-- Product in GF(2⁸) over the lowest `n` bits of `b`. -/
def gmulN : Nat → Nat → Nat → Nat
  | 0, _, _ => 0
  | n + 1, a, b => (if b % 2 = 1 then a else 0) ^^^ gmulN n (gdouble a) (b / 2)

/-- Product in GF(2⁸). -/
def gmul (a b : Nat) : Nat := gmulN 8 a b

/-- α to the power `n`. -/
def gexp : Nat → Nat
  | 0 => 1
  | n + 1 => gdouble (gexp n)

/-- Power in GF(2⁸). -/
def gpow (a : Nat) : Nat → Nat
  | 0 => 1
  | n + 1 => gmul a (gpow a n)

/-- Inverse in GF(2⁸): a²⁵⁴. -/
def ginv (a : Nat) : Nat := gpow a 254

/-- A polynomial's value by Horner's rule, highest coefficient first. -/
def horner (x : Nat) (cs : List Nat) : Nat := cs.foldl (fun acc c => gmul acc x ^^^ c) 0

/-- The syndromes S_i = c(αⁱ), i = 0 to 7 (R214). -/
def syndromes (w : List Nat) : List Nat := (List.range 8).map fun i => horner (gexp i) w

/-- The product of a polynomial (highest coefficient first) with x − a. -/
def mulRoot (cs : List Nat) (a : Nat) : List Nat :=
  ((cs ++ [0]).zip (0 :: cs)).map fun (x : Nat × Nat) => x.1 ^^^ gmul a x.2

/-- The generator g(x), highest coefficient first (R214). -/
def genPoly : List Nat := (List.range 8).foldl (fun g i => mulRoot g (gexp i)) [1]

/-- The check symbols: the coefficients of d(x)·x⁸ mod g(x), s64 first (R214). -/
def checkSyms (d : List Nat) : List Nat :=
  d.foldl (fun r s =>
    let f := s ^^^ r.headD 0
    ((r.drop 1 ++ [0]).zip (genPoly.drop 1)).map fun (x : Nat × Nat) => x.1 ^^^ gmul f x.2) (List.replicate 8 0)

/-- The data symbols of a line. -/
def dataSyms (l : Line) : List Nat := (List.range 64).map fun i => (byteAt l i).toNat

/-- A line as its codeword. -/
def encodeLine (l : Line) : List Nat := let d := dataSyms l; d ++ checkSyms d

/-- The line of a word's data symbols. -/
def lineOf : List Nat → Nat → Line
  | [], _ => 0
  | s :: t, n => if n < 64 then setByte (lineOf t (n + 1)) n (BitVec.ofNat 8 s) else 0

/-- The poison pattern P (R217). -/
def poisonPat : List Nat := [0x5A, 0xC3, 0x96, 0x3C, 0x69, 0xA5, 0x0F, 0xF0]

/-- A line stored as poison: zero data symbols, whose check symbols are zero, with P over the check symbols (R217). -/
def poisonWord : List Nat := List.replicate 64 0 ++ poisonPat

/-- The poison syndrome S_P (R217). -/
def poisonSyn : List Nat := syndromes poisonWord

/-- The locator of position k: α^(71−k). -/
def locator (k : Nat) : Nat := gexp (71 - k)

/-- Determinant of a 3 × 3 matrix over GF(2⁸). -/
def det3 (a b c d e f g h i : Nat) : Nat :=
  gmul a (gmul e i ^^^ gmul f h) ^^^ gmul b (gmul d i ^^^ gmul f g) ^^^ gmul c (gmul d h ^^^ gmul e g)

/-- Coefficients σ1 … σν of the error locator for ν errors, or none where the system is singular. -/
def locPoly (s : List Nat) (v : Nat) : Option (List Nat) :=
  let t := fun i => s.getD i 0
  match v with
  | 1 => if t 0 = 0 then none else some [gmul (t 1) (ginv (t 0))]
  | 2 =>
    let d := gmul (t 0) (t 2) ^^^ gmul (t 1) (t 1)
    if d = 0 then none
    else
      let k := ginv d
      some [gmul k (gmul (t 0) (t 3) ^^^ gmul (t 1) (t 2)), gmul k (gmul (t 1) (t 3) ^^^ gmul (t 2) (t 2))]
  | 3 =>
    let d := det3 (t 0) (t 1) (t 2) (t 1) (t 2) (t 3) (t 2) (t 3) (t 4)
    if d = 0 then none
    else
      let k := ginv d
      let x3 := det3 (t 3) (t 1) (t 2) (t 4) (t 2) (t 3) (t 5) (t 3) (t 4)
      let x2 := det3 (t 0) (t 3) (t 2) (t 1) (t 4) (t 3) (t 2) (t 5) (t 4)
      let x1 := det3 (t 0) (t 1) (t 3) (t 1) (t 2) (t 4) (t 2) (t 3) (t 5)
      some [gmul k x1, gmul k x2, gmul k x3]
  | _ => none

/-- Positions k whose locator X satisfies X^ν + σ1 X^(ν−1) + … + σν = 0. -/
def roots (sig : List Nat) : List Nat := (List.range 72).filter fun k => horner (locator k) (1 :: sig) == 0

/-- Error values at the positions, from the first syndromes. -/
def errVals (s : List Nat) (ks : List Nat) : List Nat :=
  let t := fun i => s.getD i 0
  match ks.map locator with
  | [_] => [t 0]
  | [x, y] =>
    let k := ginv (x ^^^ y)
    [gmul k (gmul (t 0) y ^^^ t 1), gmul k (gmul (t 0) x ^^^ t 1)]
  | [x, y, z] =>
    let x2 := gmul x x
    let y2 := gmul y y
    let z2 := gmul z z
    let k := ginv (det3 1 1 1 x y z x2 y2 z2)
    [gmul k (det3 (t 0) 1 1 (t 1) y z (t 2) y2 z2), gmul k (det3 1 (t 0) 1 x (t 1) z x2 (t 2) z2),
     gmul k (det3 1 1 (t 0) x y (t 1) x2 y2 (t 2))]
  | _ => []

/-- Errors found for exactly ν errors: positions with values, checked against all eight syndromes. -/
def tryErrors (s : List Nat) (v : Nat) : Option (List (Nat × Nat)) :=
  match locPoly s v with
  | none => none
  | some sig =>
    let ks := roots sig
    if ks.length ≠ v then none
    else
      let es := ks.zip (errVals s ks)
      if (List.range 8).all (fun i =>
          es.foldl (fun acc e => acc ^^^ gmul e.2 (gpow (locator e.1) i)) 0 == s.getD i 0)
        && es.all (fun e => e.2 != 0) then some es
      else none

/-- The errors of a syndrome that at most 3 symbol errors explain (R216); the empty list for a zero syndrome. -/
def decodeErrors (s : List Nat) : Option (List (Nat × Nat)) :=
  if s.all (· == 0) then some []
  else match tryErrors s 3 with
    | some e => some e
    | none =>
      match tryErrors s 2 with
      | some e => some e
      | none => tryErrors s 1

/-- What the DIU makes of a word read (R218). -/
inductive Verdict where
  | good
  | poisoned (fixed : List Nat)
  | corrected (fixed : List Nat) (word : List Nat)
  | uncorrectable
deriving DecidableEq, Repr

/-- A word with errors removed. -/
def applyErrors (w : List Nat) (es : List (Nat × Nat)) : List Nat :=
  es.foldl (fun w e => w.set e.1 (w.getD e.1 0 ^^^ e.2)) w

/-- The DIU's classification, first outcome that holds (R218). -/
def classify (w : List Nat) : Verdict :=
  let s := syndromes w
  if s.all (· == 0) then .good
  else if s == poisonSyn then .poisoned []
  else match decodeErrors ((s.zip poisonSyn).map fun (x : Nat × Nat) => x.1 ^^^ x.2) with
    | some es => .poisoned (es.map (·.1))
    | none =>
      match decodeErrors s with
      | some es => .corrected (es.map (·.1)) (applyErrors w es)
      | none => .uncorrectable

/-- The module pin of a symbol (Table 09.1). -/
def pinOf (sym : Nat) : Nat := sym / 3

end Sys2Proof.Machine
end

