-- ==== Sys2Proof/Machine/Operands.lean ====
section
/-! DEFINITION. Operand forms: the layouts of flits, message slots, route slots, control messages, directory entries,
tag entries, region entries, windows, shares, replay descriptors and routing entries, as the spec's tables give them. -/
namespace Sys2Proof.Machine
open Sys2Proof

/-! ### Message slots -/

/-- A message's header slot (Table 03.5). -/
def encodeHdr (cls : BitVec 3) (op : BitVec 5) (b : Body) : Slot :=
  cls ++ op ++ b.tag ++ b.inst ++ b.gen ++ BitVec.ofBool b.priv ++ b.sub ++ (0 : BitVec 3) ++ b.info ++
    (0 : BitVec 11) ++ b.addr

/-- MCLASS and OPCODE of a header slot. -/
def hdrCls (w : Slot) : BitVec 3 := w.extractLsb' 125 3
def hdrOp (w : Slot) : BitVec 5 := w.extractLsb' 120 5

/-- The fields of a header slot, with a mask and data part (Table 03.5); reserved bits are ignored (R7). -/
def decodeHdr (w : Slot) (m : Mask) (d : Line) : Body :=
  { tag := w.extractLsb' 104 16, inst := w.extractLsb' 97 7, gen := w.extractLsb' 89 8, priv := w.getLsbD 88,
    sub := w.extractLsb' 85 3, info := w.extractLsb' 64 18, addr := w.extractLsb' 0 53, mask := m, data := d }

/-- A route slot (Table 10.1). -/
def encodeRoute (r : Route) : Slot :=
  r.dst ++ r.src ++ r.xtag ++ r.epoch ++ BitVec.ofBool r.mcast ++ BitVec.ofBool r.vcb ++ BitVec.ofBool r.alt ++
    BitVec.ofBool r.panic ++ r.hops ++ r.port ++ (0 : BitVec 3) ++ r.inst ++ r.gen ++ BitVec.ofBool r.priv ++
    r.attach ++ r.cls ++ r.ack ++ BitVec.ofBool r.rt ++ (0 : BitVec 3) ++ r.rsn

/-- The fields of a route slot (Table 10.1). -/
def decodeRoute (w : Slot) : Route :=
  { dst := w.extractLsb' 114 14, src := w.extractLsb' 100 14, xtag := w.extractLsb' 84 16, epoch := w.extractLsb' 68 16,
    mcast := w.getLsbD 67, vcb := w.getLsbD 66, alt := w.getLsbD 65, panic := w.getLsbD 64,
    hops := w.extractLsb' 56 8, port := w.extractLsb' 51 5, inst := w.extractLsb' 41 7, gen := w.extractLsb' 33 8,
    priv := w.getLsbD 32, attach := w.extractLsb' 24 8, cls := w.extractLsb' 22 2, ack := w.extractLsb' 20 2,
    rt := w.getLsbD 19, rsn := w.extractLsb' 0 16 }

/-- Slots a message of the agent link takes (Table 03.6); `none` for a code the table does not list. -/
def agentSlots (cls : BitVec 3) (op : BitVec 5) : Option Nat :=
  match cls.toNat, op.toNat with
  | 0, 0x00 | 0, 0x01 | 0, 0x02 | 0, 0x03 | 0, 0x0C | 0, 0x18 | 0, 0x1F => some 1
  | 0, 0x08 | 0, 0x10 | 0, 0x11 | 0, 0x12 => some 5
  | 0, 0x09 | 0, 0x0D | 0, 0x19 => some 6
  | 1, 0 | 1, 1 | 1, 2 => some 1
  | 2, 0 => some 5
  | 3, 0 | 3, 1 => some 5
  | 4, 0 | 4, 1 | 4, 2 | 4, 8 | 4, 9 | 4, 0xA | 4, 0xB | 4, 0x10 => some 1
  | _, _ => none

/-- The agent may send the message to the module (Table 03.6, Direction). -/
def fromAgent (cls : BitVec 3) (op : BitVec 5) : Bool :=
  match cls.toNat, op.toNat with
  | 0, _ | 2, _ | 3, _ => true
  | 4, 0xB => false
  | 4, _ => true
  | _, _ => false

/-- Slots a message takes after its route (and group) slot on a join link (Tables 03.6, 10.2). -/
def joinSlots (cls : BitVec 3) (op : BitVec 5) : Option Nat :=
  match cls.toNat, op.toNat with
  | 5, 0 => some 1
  | 4, 0x18 | 4, 0x19 | 4, 0x1A | 4, 0x1B => some 1
  | 4, 0x10 => none
  | 0, 0x1F => none
  | _, _ => agentSlots cls op

/-! ### Flits -/

/-- FTYPE of a flit (Table 03.4). -/
def flitType (f : Flit) : BitVec 4 := f.extractLsb' 60 4
def flitSeq (f : Flit) : Nat := (f.extractLsb' 50 10).toNat
def flitAck (f : Flit) : Nat := (f.extractLsb' 40 10).toNat
def flitAckValid (f : Flit) : Bool := f.getLsbD 39
/-- Bit n set: slot n starts a message (Table 03.4, bit 15 + n). -/
def flitStarts (f : Flit) : BitVec 15 := f.extractLsb' 15 15
/-- Slot n, bytes 8 + 16 n to 23 + 16 n (Table 03.3). -/
def flitSlot (f : Flit) (n : Nat) : Slot := f.extractLsb' (64 + 128 * n) 128
/-- Bytes 248 to 251. -/
def flitCred (f : Flit) : BitVec 32 := f.extractLsb' 1984 32
/-- Bytes 252 to 255. -/
def flitCrc (f : Flit) : BitVec 32 := f.extractLsb' 2016 32

/-- The CRC register after the first `n` bits of the flit, taken byte by byte, least significant bit first (R50). -/
def crcGo (f : Flit) : Nat → BitVec 32
  | 0 => 0xFFFFFFFF
  | n + 1 =>
    let r := crcGo f n
    if r.msb != f.getLsbD n then (r <<< 1) ^^^ 0x1EDC6F41 else r <<< 1

/-- The flit CRC over bytes 0 to 251 (R50). -/
def crcOf (f : Flit) : BitVec 32 := (crcGo f 2016).reverse ^^^ 0xFFFFFFFF

/-- The 64 B of data in four slots from slot `n` (R56). -/
def slotData (f : Flit) (n : Nat) : Line :=
  flitSlot f (n + 3) ++ flitSlot f (n + 2) ++ flitSlot f (n + 1) ++ flitSlot f n

/-- The message of the agent link that starts at slot `n`; `none` where its code is reserved or it runs past slot 14
(R51, R58). -/
def agentMsgAt (f : Flit) (n : Nat) : Option (BitVec 3 × BitVec 5 × Body) :=
  let w := flitSlot f n
  match agentSlots (hdrCls w) (hdrOp w) with
  | none => none
  | some k =>
    if 15 < n + k then none
    else if k = 6 then
      some (hdrCls w, hdrOp w, decodeHdr w ((flitSlot f (n + 1)).extractLsb' 0 64) (slotData f (n + 2)))
    else if k = 5 then some (hdrCls w, hdrOp w, decodeHdr w fullMask (slotData f (n + 1)))
    else some (hdrCls w, hdrOp w, decodeHdr w 0 0)

/-- The message of a join link that starts at slot `n`: route slot, group slot of a multicast, message (R243). -/
def joinMsgAt (f : Flit) (n : Nat) : Option Out :=
  let r := decodeRoute (flitSlot f n)
  let g := if r.mcast then 1 else 0
  let m := n + 1 + g
  let w := flitSlot f m
  match joinSlots (hdrCls w) (hdrOp w) with
  | none => none
  | some k =>
    if 15 < m + k then none
    else
      let b :=
        if k = 6 then decodeHdr w ((flitSlot f (m + 1)).extractLsb' 0 64) (slotData f (m + 2))
        else if k = 5 then decodeHdr w fullMask (slotData f (m + 1))
        else decodeHdr w 0 0
      some (.join r (if r.mcast then (flitSlot f (n + 1)).extractLsb' 0 64 else 0) (hdrCls w) (hdrOp w) b)

/-- The slots at which messages start, in order. -/
def startSlots (f : Flit) : List Nat := (List.range 15).filter fun n => (flitStarts f).getLsbD n

/-! ### INFO fields (Table 03.7) -/

/-- GRANT of a DAT. -/
def infoGrant (g : BitVec 2) : BitVec 18 := g.setWidth 18
/-- GRANT and SC_FAIL of an RSP.COMP. -/
def infoComp (g : BitVec 2) (fail : Bool) : BitVec 18 := (g.setWidth 18 <<< 1) ||| (BitVec.ofBool fail).setWidth 18
/-- REASON of an RSP.COMP_ERR. -/
def infoReason (r : BitVec 8) : BitVec 18 := r.setWidth 18
def keepS (i : BitVec 18) : Bool := i.getLsbD 1
def dirtyBit (i : BitVec 18) : Bool := i.getLsbD 0
def infoLow8 (i : BitVec 18) : BitVec 8 := i.extractLsb' 0 8

/-- A body with only the fields a module's message carries (R57). -/
def mkBody (tag : BitVec 16) (sub : Nat) (info : BitVec 18) (addr : Spa) : Body :=
  { tag := tag, inst := 0, gen := 0, priv := false, sub := BitVec.ofNat 3 sub, info := info, addr := addr, mask := 0,
    data := 0 }

/-! ### Reserved fields of what the module sends (R7, R57, R59) -/

/-- The INFO bits that a message has (Tables 03.7, 10.2). -/
def infoMask (cls op : Nat) : BitVec 18 :=
  match cls, op with
  | 0, 0x10 | 0, 0x11 | 0, 0x12 => 1
  | 0, 0x18 => 7
  | 1, 2 => 0x7FFF
  | 2, _ => 1
  | 3, _ => 3
  | 4, 8 => 7
  | 4, 9 | 4, 0x10 | 4, 0x19 => 0xFF
  | 4, 0x1B => 0x3FFF
  | 5, _ => 1
  | _, _ => 0

/-- ADDR is reserved in the message on an agent link. -/
def noAddr (cls op : Nat) : Bool := (cls == 0 && op == 0x1F) || (cls == 4 && decide (8 ≤ op))

/-- The message names a whole line: its ADDR[5:0] is reserved. -/
def namesLine (cls op : Nat) : Bool :=
  match cls, op with
  | 0, 0 | 0, 1 | 0, 2 | 0, 3 | 0, 8 | 0, 0xC => true
  | 2, _ | 3, _ => true
  | _, _ => false

/-- The line address of an SPA. -/
def lineBase (a : Spa) : Spa := a.extractLsb' 6 47 ++ (0 : BitVec 6)

/-- A message as the module sends it: every reserved field is zero (R7). On a join link ADDR always holds the SPA (R243). -/
def cleanBody (join : Bool) (cls : BitVec 3) (op : BitVec 5) (b : Body) : Body :=
  { b with
    inst := 0, gen := 0, priv := false, info := b.info &&& infoMask cls.toNat op.toNat,
    addr := if !join && noAddr cls.toNat op.toNat then 0
      else if namesLine cls.toNat op.toNat then lineBase b.addr else b.addr }

/-! ### Flits that the module sends (R49, R51) -/

/-- The slots of a message, or of a control message, in the order in which they are placed from slot 0 on (R51, R56, R243). -/
def outSlots : Out → List Slot
  | .msg c o b => bodySlots (agentSlots c o) c o b
  | .join r g c o b => encodeRoute r :: ((if r.mcast then [g.setWidth 128] else []) ++ bodySlots (joinSlots c o) c o b)
  | .ctrl w => [w]
where
  /-- Header slot, mask slot and data slots. -/
  bodySlots (n : Option Nat) (c : BitVec 3) (o : BitVec 5) (b : Body) : List Slot :=
    encodeHdr c o b :: ((if n = some 6 then [b.mask.setWidth 128] else []) ++
      (if n = some 5 ∨ n = some 6 then (List.range 4).map fun k => b.data.extractLsb' (128 * k) 128 else []))

/-- The header of a flit whose one message, if it has one, starts in slot 0 (Table 03.4). -/
def flitHeader (x : TxFlit) : BitVec 64 :=
  BitVec.ofNat 4 x.ftype ++ BitVec.ofNat 10 x.seq ++ BitVec.ofNat 10 (x.ack.getD 0) ++ BitVec.ofBool x.ack.isSome ++
    (0 : BitVec 9) ++ BitVec.ofNat 15 (if x.out.isSome then 1 else 0) ++ (0 : BitVec 15)

/-- Slots laid into a flit from slot `n` on; the others stay zero. -/
def layOut : List Slot → Nat → Flit
  | [], _ => 0
  | w :: t, n => (w.setWidth 2048 <<< (64 + 128 * n)) ||| layOut t (n + 1)

/-- The 256 bytes of a flit that the module sends, with its CRC (Tables 03.3, 03.4, R50, R51). -/
def encodeFlit (x : TxFlit) : Flit :=
  let body : Flit := (flitHeader x).setWidth 2048 ||| layOut ((x.out.map outSlots).getD []) 0 |||
    (x.cred.setWidth 2048 <<< 1984)
  body ||| ((crcOf body).setWidth 2048 <<< 2016)

/-- A credit-return field of an agent link (Table 03.8); a count takes at most 127. -/
def credField (req snp evn dat : Nat) : BitVec 32 :=
  (0 : BitVec 4) ++ BitVec.ofNat 7 (min 127 req) ++ BitVec.ofNat 7 (min 127 snp) ++ BitVec.ofNat 7 (min 127 evn) ++
    BitVec.ofNat 7 (min 127 dat)

/-- A credit-return field of a join link (Table 10.3); a count takes at most 31. -/
def joinCredField (vcb : Bool) (c : Credits) : BitVec 32 :=
  BitVec.ofBool vcb ++ (0 : BitVec 1) ++ BitVec.ofNat 5 (min 31 c.req) ++ BitVec.ofNat 5 (min 31 c.snp) ++
    BitVec.ofNat 5 (min 31 c.evn) ++ BitVec.ofNat 5 (min 31 c.dat) ++ BitVec.ofNat 5 (min 31 c.rsp) ++
    BitVec.ofNat 5 (min 31 c.rel)

/-! ### Reasons (Table 03.9) and containment reasons (Table 03.11) -/

def rBadParam : BitVec 8 := 0x11
def rDenied : BitVec 8 := 0x16
def rTimeout : BitVec 8 := 0x18
def rNodeAbsent : BitVec 8 := 0x19
def rAborted : BitVec 8 := 0x1B
def rInternal : BitVec 8 := 0x1F
def rWindow : BitVec 8 := 0x20
def rGeneration : BitVec 8 := 0x21
def rPoison : BitVec 8 := 0x22

def cLinkFault : BitVec 8 := 1
def cBadMessage : BitVec 8 := 2
def cCredit : BitVec 8 := 3
def cTag : BitVec 8 := 4
def cUnexpected : BitVec 8 := 5
def cHost : BitVec 8 := 6

/-! ### Control messages (Tables 03.10, 10.4) -/

/-- The module's PARAM: version 1, MAX_WIDTH 8, REQ 192, SNP 0, EVN 8 for each sub-agent present, DAT 64 (R64). -/
def moduleParam (present : BitVec 8) : Slot :=
  (0x02 : BitVec 8) ++ (0x01 : BitVec 8) ++ (0 : BitVec 16) ++ (8 : BitVec 16) ++ (0 : BitVec 16) ++
    (192 : BitVec 16) ++ (0 : BitVec 16) ++ BitVec.ofNat 16 (8 * countBits present 8) ++ (64 : BitVec 16)

/-- The module's JPARAM: version 1, its node and link, 64 credits of REQ, SNP, EVN and DAT, 128 of RSP and REL (R250). -/
def moduleJparam (node j : Nat) : Slot :=
  (0x05 : BitVec 8) ++ (0x01 : BitVec 8) ++ BitVec.ofNat 14 node ++ BitVec.ofNat 4 j ++ (0 : BitVec 22) ++
    (64 : BitVec 12) ++ (64 : BitVec 12) ++ (64 : BitVec 12) ++ (64 : BitVec 12) ++ (128 : BitVec 12) ++ (128 : BitVec 12)

/-- A SYNC slot: CTYPE 0x01, and 0xA5 in the other fifteen bytes (R69). -/
def syncSlot : Slot := (0x01 : BitVec 8) ++ BitVec.ofNat 120 0xA5A5A5A5A5A5A5A5A5A5A5A5A5A5A5
def resumeDone (fresh : Bool) : Slot := (0x03 : BitVec 8) ++ (0 : BitVec 119) ++ BitVec.ofBool fresh
def containNotice (r : BitVec 8) : Slot := (0x04 : BitVec 8) ++ (0 : BitVec 112) ++ r

/-! ### Directory and tag entries -/

/-- Pointer k at bits [22k+21:22k] (Table 04.3). -/
def packPtrs : List Nat → Nat → BitVec 88
  | [], _ => 0
  | a :: t, k => (BitVec.ofNat 88 (a % 2 ^ 22) <<< (22 * k)) ||| packPtrs t (k + 1)

/-- The 128-bit image of a directory entry (Table 04.3). -/
def encodeDir (e : DirEntry) : BitVec 128 :=
  (if e.owned then (2 : BitVec 2) else 1) ++ BitVec.ofBool e.coarse ++ e.cls ++
    BitVec.ofNat 3 (if e.coarse then 0 else e.ptrs.length) ++ e.tag ++ BitVec.ofNat 2 e.dage ++ (0 : BitVec 16) ++
    (if e.coarse then e.groups.setWidth 88 else packPtrs e.ptrs 0)

/-- The directory entry of a 128-bit image with STATE not 0b00 (Table 04.3). -/
def decodeDir (w : BitVec 128) : DirEntry :=
  let coarse := w.getLsbD 125
  { owned := w.extractLsb' 126 2 == 2, coarse := coarse, cls := w.extractLsb' 123 2, tag := w.extractLsb' 106 14,
    dage := (w.extractLsb' 104 2).toNat,
    ptrs := if coarse then [] else
      (List.range (w.extractLsb' 120 3).toNat).map fun k => (w.extractLsb' (22 * k) 22).toNat,
    groups := if coarse then w.extractLsb' 0 64 else 0 }

/-- The 40-bit image of a valid way's tag entry (Table 06.1). -/
def encodeTag (l : WayLine) : BitVec 40 :=
  l.tag ++ (1 : BitVec 1) ++ BitVec.ofBool l.dirty ++ BitVec.ofNat 2 l.age ++ BitVec.ofBool l.pin ++
    BitVec.ofBool l.poison ++ BitVec.ofBool l.unch ++ (if l.unch then (0 : BitVec 7) else l.inst) ++ l.cls ++
    BitVec.ofBool l.rpf ++ (0 : BitVec 8)

/-! ### Records of commands -/

/-- A region entry as its four words, 0x00 lowest (Table 02.3). -/
def encodeRegion (r : Region) : BitVec 128 :=
  (0 : BitVec 10) ++ r.target ++ (0 : BitVec 9) ++ r.owner ++ (0 : BitVec 9) ++ BitVec.ofBool r.rt ++
    BitVec.ofBool r.meter ++ r.ack ++ r.cls ++ BitVec.ofBool r.valid ++ r.limit ++ r.base
def decodeRegion (w : BitVec 128) : Region :=
  { base := w.extractLsb' 0 32, limit := w.extractLsb' 32 32, owner := w.extractLsb' 80 7, rt := w.getLsbD 70,
    meter := w.getLsbD 69, ack := w.extractLsb' 67 2, cls := w.extractLsb' 65 2, valid := w.getLsbD 64,
    target := w.extractLsb' 96 22 }

/-- A window entry as its 32 bytes (Table 02.4). -/
def encodeWindow (x : Window) : BitVec 256 :=
  (0 : BitVec 32) ++ (0 : BitVec 27) ++ BitVec.ofBool x.privOnly ++ BitVec.ofBool x.atomic ++ BitVec.ofBool x.write ++
    BitVec.ofBool x.read ++ BitVec.ofBool x.valid ++ (0 : BitVec 23) ++ x.offset ++ (0 : BitVec 28) ++ x.limit ++
    (0 : BitVec 28) ++ x.base
def decodeWindow (w : BitVec 256) : Window :=
  { base := w.extractLsb' 0 36, limit := w.extractLsb' 64 36, offset := w.extractLsb' 128 41, privOnly := w.getLsbD 196,
    atomic := w.getLsbD 195, write := w.getLsbD 194, read := w.getLsbD 193, valid := w.getLsbD 192 }

/-- A share record (Table 11.2). -/
def encodeShare (x : Share) : BitVec 32 :=
  (0 : BitVec 7) ++ BitVec.ofBool x.rt ++ x.quota ++ x.bwW ++ x.poolW
def decodeShare (w : BitVec 32) : Share :=
  { rt := w.getLsbD 24, quota := w.extractLsb' 16 8, bwW := w.extractLsb' 8 8, poolW := w.extractLsb' 0 8 }

/-- A replay descriptor as its 32 bytes (Table 06.3). -/
def encodeReplay (x : Replay) : BitVec 256 :=
  (0 : BitVec 64) ++ (0 : BitVec 22) ++ x.inst ++ (0 : BitVec 1) ++ BitVec.ofBool x.stream ++ BitVec.ofBool x.valid ++
    x.iter ++ x.lead ++ x.stride ++ x.count ++ (0 : BitVec 11) ++ x.start
def decodeReplay (w : BitVec 256) : Replay :=
  { start := w.extractLsb' 0 53, count := w.extractLsb' 64 32, stride := w.extractLsb' 96 16, lead := w.extractLsb' 112 16,
    iter := w.extractLsb' 128 32, inst := w.extractLsb' 163 7, stream := w.getLsbD 161, valid := w.getLsbD 160 }

/-- The fields of a unicast routing entry (Table 10.5). -/
def rtValid (r : Reg) : Bool := r.getLsbD 31
def rtPrim (r : Reg) : Nat := fld r 27 4
def rtAlt (r : Reg) : Nat := fld r 23 4
def rtAltEn (r : Reg) : Bool := r.getLsbD 22
def rtDlP (r : Reg) : Bool := r.getLsbD 21
def rtDlA (r : Reg) : Bool := r.getLsbD 20

/-! ### Write placement (R60, R170) -/

/-- The lower piece of a write of `d` under `m` at byte address `a`: mask and data in the line of `a`. -/
def lowPiece (a : Spa) (m : Mask) (d : Line) : Mask × Line :=
  let o := (a.extractLsb' 0 6).toNat
  (m <<< o, d <<< (8 * o))

/-- The upper piece: mask and data in the next line. -/
def highPiece (a : Spa) (m : Mask) (d : Line) : Mask × Line :=
  let o := (a.extractLsb' 0 6).toNat
  (m >>> (64 - o), d >>> (8 * (64 - o)))

/-- The masked bytes cross a 64 B boundary (R60): some lie in the line of the address and some in the next. -/
def crosses (a : Spa) (m : Mask) : Bool := (lowPiece a m 0).1 != 0 && (highPiece a m 0).1 != 0

/-- The operand of a home atomic: the 8 or 16 bytes at a line offset (R61). -/
def operandAt (l : Line) (off : Nat) (size16 : Bool) : BitVec 128 :=
  if size16 then l.extractLsb' (8 * off) 128 else (l.extractLsb' (8 * off) 64).setWidth 128

/-- A line with an operand put at an offset. -/
def putOperand (l : Line) (off : Nat) (size16 : Bool) (v : BitVec 128) : Line :=
  let n := if size16 then 16 else 8
  merge l (v.setWidth 512 <<< (8 * off)) (BitVec.ofNat 64 ((2 ^ n - 1) * 2 ^ off))

/-- The new operand of a home atomic, or none where a compare fails (R104). -/
def atomicNew (op : ReqOp) (old data : Line) (off : Nat) (size16 : Bool) : Option (BitVec 128) :=
  let o := operandAt old off size16
  let v := operandAt data off size16
  match op with
  | .atAdd => some (if size16 then o + v else ((o.setWidth 64 + v.setWidth 64).setWidth 128))
  | .atSwap => some v
  | .atCas => if o = v then some (operandAt data ((off + 32) % 64) size16) else none
  | _ => none

end Sys2Proof.Machine
end

