-- ==== Sys2Proof/Machine/Link.lean ====
section
/-! DEFINITION. Sending on agent ports: credits, the replay buffer, module tags, perturbation on the way out, and the
responses an agent's request ends with (R52, R63, R66, R67, R75, R350 to R353). -/
namespace Sys2Proof.Machine
open Sys2Proof

/-! ### Credits -/

/-- Credits of a class by MCLASS. -/
def credit (c : Credits) : Nat → Nat
  | 0 => c.req
  | 1 => c.snp
  | 2 => c.evn
  | 3 => c.dat
  | 4 => c.rsp
  | _ => c.rel

/-- Credits with a class changed. -/
def withCredit (c : Credits) (cls n : Nat) : Credits :=
  match cls with
  | 0 => { c with req := n }
  | 1 => { c with snp := n }
  | 2 => { c with evn := n }
  | 3 => { c with dat := n }
  | 4 => { c with rsp := n }
  | _ => { c with rel := n }

/-- Credits added class by class. -/
def sumCredits (a b : Credits) : Credits :=
  { req := a.req + b.req, snp := a.snp + b.snp, evn := a.evn + b.evn, dat := a.dat + b.dat, rsp := a.rsp + b.rsp,
    rel := a.rel + b.rel }

/-- A class counted up. -/
def addCredit (c : Credits) (cls n : Nat) : Credits := withCredit c cls (credit c cls + n)

/-- The counts of a port's credit-return field (Table 03.8), added at once (R63). -/
def takeCredits (c : Credits) (w : BitVec 32) : Credits :=
  { c with req := c.req + fld w 21 7, snp := c.snp + fld w 14 7, evn := c.evn + fld w 7 7, dat := c.dat + fld w 0 7 }

/-- The counts of a join link's credit-return field (Table 10.3). -/
def takeJoinCredits (c : Credits) (w : BitVec 32) : Credits :=
  { req := c.req + fld w 25 5, snp := c.snp + fld w 20 5, evn := c.evn + fld w 15 5, dat := c.dat + fld w 10 5,
    rsp := c.rsp + fld w 5 5, rel := c.rel + fld w 0 5 }

/-! ### The replay buffer (R52, R54) -/

/-- ACK_SEQ of a flit sent now: the number of the last flit accepted (Table 03.4). -/
def ackNow (r : Retry) : Option Nat := if r.rxAny then some ((r.rxSeq + 1023) % 1024) else none

/-- FTYPE of the flit that carries a message or a control message (R51). -/
def outType : Out → Nat
  | .ctrl _ => 3
  | _ => 0

/-- A flit put on the link. Each codeword that begins in it is corrupted while an injection of KIND 3 has codewords left (R355). -/
def putFlit (x : TxFlit) (r : Retry) : Retry :=
  let n := r.wire.length
  let old := n != 0 && flitLast (n - 1) == flitFirst n
  let first := if old then r.txBad else r.inject != 0
  let left := if old then r.inject else r.inject - 1
  let more := flitLast n != flitFirst n
  let last := if more then left != 0 else first
  { r with wire := r.wire ++ [{ x with bad := first || last }], txBad := last, inject := if more then left - 1 else left }

/-- A flit sent: numbered, and kept until acknowledged (R52). -/
def sendFlit (r : Retry) (o : Out) : Retry :=
  putFlit { ftype := outType o, seq := r.txSeq, ack := ackNow r, out := some o }
    { r with txSeq := (r.txSeq + 1) % 1024, replay := r.replay ++ [(r.txSeq, o)] }

/-- An IDLE flit sent, for its ACK_SEQ and its credit counts (R51, R52, R63). -/
def sendIdle (cred : BitVec 32) (r : Retry) : Retry := putFlit { ftype := 1, ack := ackNow r, cred := cred } r

/-- A RETRY_REQ flit sent for the number expected (R53). -/
def sendRetryFlit (r : Retry) : Retry := putFlit { ftype := 2, seq := r.rxSeq, ack := ackNow r } r

/-- Flits of the replay buffer sent again, in order (R54). -/
def resendAll (xs : List (Nat × Out)) (r : Retry) : Retry :=
  xs.foldl (fun r x => putFlit { ftype := outType x.2, seq := x.1, ack := ackNow r, out := some x.2 } r) r

/-- The replay buffer from a number on. -/
def replayFrom (r : Retry) (seq : Nat) : List (Nat × Out) := r.replay.dropWhile fun x => x.1 != seq

/-- The sixteen SYNC messages of training step 5 (R69). -/
def sendSyncs (r : Retry) : Retry := (List.range 16).foldl (fun r _ => sendFlit r (.ctrl syncSlot)) r

/-- The SYNC messages of a retrain: their flits repeat the number of the last flit acknowledged, so that none of them can be
taken for a new flit (log 16). -/
def repeatSyncs (r : Retry) : Retry :=
  let n := match r.replay with
    | [] => r.txSeq
    | x :: _ => x.1
  (List.range 16).foldl (fun r _ => putFlit { ftype := 3, seq := (n + 1023) % 1024, ack := ackNow r, out := some (.ctrl syncSlot) } r) r

/-- Retry state as a full training starts it (R48): what counts since reset stays. -/
def freshRetry (r : Retry) : Retry := { sentReqs := r.sentReqs, cwTotal := r.cwTotal }

/-- An acknowledgement of every flit up to `seq`. -/
def ackTo (r : Retry) (seq : Nat) : Retry :=
  if r.replay.any (fun x => x.1 == seq) then
    let kept := (r.replay.dropWhile fun x => x.1 != seq).drop 1
    { r with replay := kept,
             txReqs := if kept.any (fun x => x.1 == r.txReqSeq) then r.txReqs else 0 }
  else r

/-! ### Perturbation draws (R353) -/

/-- One step of an engine's generator. -/
def xorshift (s : BitVec 64) : BitVec 64 :=
  let a := s ^^^ (s <<< 13)
  let b := a ^^^ (a >>> 7)
  b ^^^ (b <<< 17)

/-- One draw between `lo` and `hi`, with the engine stepped. -/
def drawE (e : Engine) (lo hi : Nat) : Nat × Engine :=
  let g := xorshift e.gen
  (lo + g.toNat % (hi - lo + 1), { e with gen := g })

/-- The delay an engine gives a message (R351). -/
def delayE (e : Engine) : Nat × Engine :=
  if e.mode = 1 then (e.value, e)
  else if e.mode = 2 then drawE e e.value e.valMax
  else (0, e)

/-- Engine `n` of a port (Table 15.1). -/
def engineOf (pt : Port) (n : Nat) : Engine := tget {} pt.engines n
def setEngine (pt : Port) (n : Nat) (e : Engine) : Port := { pt with engines := tput {} pt.engines n e }

/-! ### Sending to an agent -/

/-- MCLASS of what is sent; 7 for a control message, which takes no credit (R69). -/
def outCls : Out → Nat
  | .msg c _ _ => c.toNat
  | .join _ _ c _ _ => c.toNat
  | .ctrl _ => 7

/-- The port can send it now: ACTIVE, room in the replay buffer, and a credit unless it is an RSP or a control message
(R52, R63). -/
def canSend (pt : Port) (o : Out) : Bool :=
  pt.state == .active && decide (pt.retry.replay.length < 512) &&
    (decide (4 ≤ outCls o) || decide (0 < credit pt.have_ (outCls o)))

/-- The port sends it. -/
def sendNow (pt : Port) (o : Out) : Port :=
  { pt with retry := sendFlit pt.retry o,
            have_ := if 4 ≤ outCls o then pt.have_ else
              withCredit pt.have_ (outCls o) (credit pt.have_ (outCls o) - 1) }

/-- Messages tried in order; those that cannot be sent stay. The result lists what was sent, newest first. -/
def pumpGo : List Out → Port → List Out → Port × List Out
  | [], pt, sent => (pt, sent)
  | o :: t, pt, sent =>
    if canSend pt o then pumpGo t (sendNow pt o) (o :: sent)
    else pumpGo t { pt with txq := pt.txq ++ [o] } sent

/-- The attributes of a message sent to a port, or sent or received on a join link (Table 14.5). -/
def outOcc (p : Plane) (i : Nat) : Out → Occ
  | .msg c o b => msgOcc p i c.toNat o.toNat b (if hasAddr c.toNat o.toNat then some b.addr else none)
  | .join _ _ c o b => { spa := some b.addr.toNat, msg := some (c.toNat, o.toNat) }
  | .ctrl _ => {}

/-- A message that carries a module tag has left the port (R72, R251). -/
def markSent (now : Nat) (ts : Table ModTag) : Out → Table ModTag
  | .msg c _ b => if 1 < c.toNat then ts else
      ts.map fun x => if x.1 = b.tag.toNat then (x.1, { x.2 with sent := true, t0 := now }) else x
  | _ => ts

/-- With 512 flits unacknowledged, IDLE flits go out while messages wait (R52). -/
def idleWhenFull (pt : Port) : Port :=
  if pt.state == .active && !pt.txq.isEmpty && decide (512 ≤ pt.retry.replay.length)
  then { pt with retry := sendIdle 0 pt.retry } else pt

/-- READ_LAT ends when a DAT leaves the port for its request, WRITE_ACK_LAT when the final response does (Table 14.6). -/
def endLat (i : Nat) (p : Plane) : Out → Plane
  | .msg c o b =>
    if c = 3 ∨ (c = 4 ∧ 8 ≤ o.toNat) then
      match p.lats.find? fun x => x.1 == i && x.2.1 == b.tag.toNat with
      | none => p
      | some x =>
        let q := { p with lats := p.lats.erase x }
        if x.2.2.1 = 1 ∧ c ≠ 3 then q else measure (portTile i) x.2.2.1 (p.clock - x.2.2.2.1) x.2.2.2.2 q
    else p
  | _ => p

/-- Everything the port has waiting is tried. -/
def pump (i : Nat) (p : Plane) : Plane :=
  let pt := port p i
  let x := pumpGo pt.txq { pt with txq := [] } []
  let pt' := idleWhenFull { x.1 with mtags := x.2.foldl (markSent p.clock) x.1.mtags }
  x.2.foldl (fun q o => endLat i (occur (portTile i) 0x0002 (outOcc p i o) q) o) (setPort p i pt')

/-- Engine 2 of a port takes a message: with D held already, one of the D + 1 goes on (R351). -/
def reorder (pt : Port) (o : Out) : Port :=
  let e := engineOf pt 2
  if e.mode = 0 ∨ e.value = 0 then { pt with txq := pt.txq ++ [o] }
  else if e.held.length < e.value then setEngine pt 2 { e with held := e.held ++ [(4096, o)] }
  else if e.mode = 1 then { pt with txq := pt.txq ++ [o] }
  else
    let x := drawE e 0 e.value
    let all := e.held ++ [(4096, o)]
    match all[x.1]? with
    | none => { pt with txq := pt.txq ++ [o] }
    | some y => setEngine { pt with txq := pt.txq ++ [y.2] } 2 { x.2 with held := all.eraseIdx x.1 }

/-- A DAT or RSP passes engine 0, then engine 2 (Table 15.1); other messages pass neither. -/
def perturbOut (pt : Port) (o : Out) : Port :=
  if outCls o = 3 ∨ outCls o = 4 then
    let x := delayE (engineOf pt 0)
    if x.1 = 0 then reorder (setEngine pt 0 x.2) o
    else setEngine pt 0 { x.2 with held := x.2.held ++ [(x.1, o)] }
  else { pt with txq := pt.txq ++ [o] }

/-- A message with its reserved fields zero. -/
def cleanOut : Out → Out
  | .msg c o b => .msg c o (cleanBody false c o b)
  | o => o

/-- A message for the agent of a port. A CONTAINED port holds responses and data for the resume sequence and keeps its
snoops and forwarded I/O outstanding (R75); a DOWN or DETACHED port has nobody to send to. -/
def toPort (i : Nat) (o : Out) (p : Plane) : Plane :=
  let o := cleanOut o
  let pt := port p i
  match pt.state with
  | .contained => if outCls o = 3 ∨ outCls o = 4 then setPort p i { pt with heldRsp := pt.heldRsp ++ [o] } else p
  | .down | .training | .detached => p
  | _ => pump i (setPort p i (perturbOut pt o))

/-- The credit-return fields that a port's freed credits take: two, because a count holds at most 127 (Table 03.8). -/
def credFields (c : Credits) : List (BitVec 32) :=
  [credField c.req c.snp c.evn c.dat, credField (c.req - 127) (c.snp - 127) (c.evn - 127) (c.dat - 127)].filter (· != 0)

/-- Freed credits go back in IDLE flits while the port is ACTIVE; otherwise they wait until it is (R63, log 78). -/
def returnCredits (pt : Port) (c : Credits) : Port :=
  let all := sumCredits pt.owed c
  if pt.state == .active then
    { pt with given := sumCredits pt.given all, owed := {},
              retry := (credFields all).foldl (fun r f => sendIdle f r) pt.retry }
  else { pt with owed := all }

/-- A received message leaves the receive buffer and its credit returns, unless a drain holds it back or engine 1 withholds it
(R63, R180, R351). -/
def giveCredit (i cls : Nat) (p : Plane) : Plane :=
  let pt := port p i
  let e := engineOf pt 1
  if cls = 0 ∧ pt.hop.draining then setPort p i { pt with hop := { pt.hop with kept := pt.hop.kept + 1 } }
  else if e.mode ≠ 0 ∧ e.pattern.getLsbD e.bit ∧ (cls = 0 ∨ cls = 3) then
    setPort p i (setEngine pt 1 (if cls = 0 then { e with keptReq := e.keptReq + 1 } else
      { e with keptDat := e.keptDat + 1 }))
  else setPort p i (returnCredits pt (addCredit {} cls 1))

/-! ### Module tags and snoops -/

/-- The first module tag from `n` on that is not outstanding, among `k` of them. -/
def freeMtag (ts : Table ModTag) : Nat → Nat → Option Nat
  | 0, _ => none
  | k + 1, n => if (tfind ts n).isNone then some n else freeMtag ts k ((n + 1) % 65536)

/-- A message that takes a module tag: sent, and outstanding until answered (R66, R68); it waits while every tag is
outstanding. -/
def sendTagged (i : Nat) (use : TagFor) (cls : BitVec 3) (op : BitVec 5) (b : Body) (p : Plane) : Plane :=
  let pt := port p i
  match freeMtag pt.mtags 65536 (pt.nextMtag % 65536) with
  | none => setPort p i { pt with tagWait := pt.tagWait ++ [{ use := use, cls := cls, op := op, body := b, t0 := p.clock }] }
  | some n =>
    let b' := { cleanBody false cls op b with tag := BitVec.ofNat 16 n }
    toPort i (.msg cls op b')
      (setPort p i { pt with nextMtag := (n + 1) % 65536,
                             mtags := tset pt.mtags n { use := use, cls := cls, op := op, body := b', t0 := p.clock } })

/-- A module tag of a port freed: the message that has waited longest for one takes it. -/
def freeModTag (i n : Nat) (p : Plane) : Plane :=
  let pt := port p i
  match pt.tagWait with
  | [] => setPort p i { pt with mtags := tdel pt.mtags n }
  | m :: rest => sendTagged i m.use m.cls m.op m.body (setPort p i { pt with mtags := tdel pt.mtags n, tagWait := rest })

/-- A module tag freed before its answer has come: the late answer will be discarded and counted (R72, R75). -/
def lateTag (i n : Nat) (p : Plane) : Plane :=
  let q := freeModTag i n p
  setPort q i { port q i with lateTags := (port q i).lateTags ++ [n] }

/-- A snoop to a sub-agent: SNP.SHARED or SNP.INV (Table 03.6). -/
def sendSnoop (i sub : Nat) (shared : Bool) (spa : Spa) (use : TagFor) (p : Plane) : Plane :=
  sendTagged i use 1 (if shared then 0 else 1) (mkBody 0 sub 0 spa) p

/-! ### Responses that end a request (R67) -/

/-- The agent tag is free again. -/
def freeTag (i : Nat) (tag : BitVec 16) (p : Plane) : Plane :=
  let pt := port p i
  setPort p i { pt with tags := tdel pt.tags tag.toNat }

/-- A request is answered: its READ_LAT or WRITE_ACK_LAT runs until the answer leaves the port (Table 14.6). -/
def measureReq (r : Req) (p : Plane) : Plane :=
  let rest := p.lats.filter fun x => !(x.1 == r.port && x.2.1 == r.tag.toNat)
  let code := if isStore r.op then 2 else if isReadClass r.op then 1 else 0
  { p with lats := if code = 0 then rest else rest ++ [(r.port, r.tag.toNat, code, r.t0, reqOcc p r)] }

/-- RSP.COMP ends a request. -/
def sendComp (r : Req) (fail : Bool) (p : Plane) : Plane :=
  toPort r.port (.msg 4 8 (mkBody r.tag r.sub (infoComp 0 fail) 0)) (freeTag r.port r.tag (measureReq r p))

/-- RSP.COMP_ERR ends a request (Table 03.9). -/
def sendErr (r : Req) (reason : BitVec 8) (p : Plane) : Plane :=
  toPort r.port (.msg 4 9 (mkBody r.tag r.sub (infoReason reason) 0)) (freeTag r.port r.tag (measureReq r p))

/-- DAT.DATA or DAT.DATA_POISON with GRANT 0b00 ends a request (R61, R92). The data part of a poisoned answer is a free
value (R62). -/
def sendData0 (r : Req) (line : Line) (poison : Bool) (p : Plane) : Plane :=
  let q := freeTag r.port r.tag (measureReq r p)
  let d := if poison then Config.freeLine q.draw else line
  toPort r.port (.msg 3 (if poison then 1 else 0)
    { mkBody r.tag r.sub 0 r.spa with data := d, mask := fullMask }) (if poison then draw1 q else q)

/-- A grant of S or E: DAT.DATA, or RSP.COMP for an upgrade without data; the tag stays outstanding until
RSP.COMP_ACK (R67). -/
def sendGrant (r : Req) (grant : BitVec 2) (line : Option Line) (job : Option Nat) (home : Option (Nat × BitVec 16))
    (p : Plane) : Plane :=
  let q := measureReq r p
  let pt := port q r.port
  let u : TagUse := { sub := r.sub, ackDue := true, job := job, home := home }
  let q := setPort q r.port { pt with tags := tset pt.tags r.tag.toNat u }
  toPort r.port (match line with
    | some l => .msg 3 0 { mkBody r.tag r.sub (infoGrant grant) r.spa with data := l, mask := fullMask }
    | none => .msg 4 8 (mkBody r.tag r.sub (infoComp grant false) 0)) q

end Sys2Proof.Machine
end

