-- ==== Sys2Proof/Machine/Dram.lean ====
section
/-! DEFINITION. The DRAM controllers and the DIU behind them: where a line lies, queues, scheduler, panic, refresh,
retraining, page and evacuation bookkeeping, and what a word read becomes (chapters 08 and 09). -/
namespace Sys2Proof.Machine
open Sys2Proof

/-! ### Where a line lies (R188, R206, R209, R233) -/

/-- Raw lines of a channel: the 2²⁷ of R188, then 1,024 spare rows of 64 lines (R233). -/
def chanSpan : Nat := 2 ^ 27 + 65536

/-- The column, bank and row of a channel-local line (R188); the line address is cl[32:6]. -/
def colOf (cl : Nat) : Nat := cl % 64
def bankOf (cl : Nat) : Nat := (cl / 2 ^ 6 % 16) ^^^ (cl / 2 ^ 10 % 16) ^^^ (cl / 2 ^ 14 % 16)
def rowOf (cl : Nat) : Nat := cl / 2 ^ 10 % 2 ^ 17
/-- The channel-local line of a bank, row and column: the inverse of R188. -/
def clAt (bank row col : Nat) : Nat :=
  row * 2 ^ 10 + (bank ^^^ (row % 16) ^^^ (row / 16 % 16)) * 64 + col

/-- Channel index and channel-local line after evacuation (R206, R209). -/
def redirect (e : Evac) (c cl : Nat) : Nat × Nat :=
  if e.state ≠ 0 ∧ c = e.chan ∧ cl < e.cursor then
    (let k := cl / 2 ^ 23; if k < c then k else k + 1, 15 * 2 ^ 23 + cl % 2 ^ 23)
  else (c, cl)

/-- The raw line of a spare row's column. -/
def spareRaw (bank spare col : Nat) : Nat := 2 ^ 27 + (bank * 64 + spare) * 64 + col

/-- The key of a row's remap. -/
def remapKey (ch bank row : Nat) : Nat := (ch * 16 + bank) * 131072 + row

/-- The raw line of a channel-local line, after row remapping and a row copy under way (R233, R234). -/
def rawOf (p : Plane) (ch cl : Nat) : Nat :=
  let b := bankOf cl
  let r := rowOf cl
  let c := colOf cl
  match p.rowCopies.find? (fun x => x.ch == ch && x.bank == b && x.row == r && decide (c < x.cursor)) with
  | some x => spareRaw b x.spare c
  | none =>
    let s := tget 0 p.remaps (remapKey ch b r)
    if s = 0 then cl else spareRaw b (s - 1) c

/-- The physical channel and raw line of a home-local line (R24, R209). -/
def place (p : Plane) (line : Nat) : Nat × Nat :=
  let t := lineTile line
  let d := redirect (evacOf p t) (lineChan line) (lineCl line)
  (16 * t + d.1, rawOf p (16 * t + d.1) d.2)

/-- The bank and row of a raw line. A spare row counts as row 131,072 + spare. -/
def rawBank (raw : Nat) : Nat := if raw < 2 ^ 27 then bankOf raw else (raw - 2 ^ 27) / 4096
def rawRow (raw : Nat) : Nat := if raw < 2 ^ 27 then rowOf raw else 131072 + (raw - 2 ^ 27) / 64 % 64

/-! ### Stored words -/

/-- The stored word of a raw line: symbols s0 to s71. -/
def dramWord (p : Plane) (ch raw : Nat) : List Nat :=
  (List.range 72).map fun s => (tget 0 p.dram ((ch * chanSpan + raw) * 72 + s)).toNat

/-- Symbols stored from `k` on. -/
def putSyms (d : Table Byte) (base : Nat) : List Nat → Nat → Table Byte
  | [], _ => d
  | s :: t, k => putSyms (tput 0 d (base + k) (BitVec.ofNat 8 s)) base t (k + 1)

/-- A raw line stored. -/
def dramPut (p : Plane) (ch raw : Nat) (w : List Nat) : Plane :=
  { p with dram := putSyms p.dram ((ch * chanSpan + raw) * 72) w 0 }

/-- The word a write access stores (R214, R217). -/
def writeWord (a : Access) : List Nat := if a.poison then poisonWord else encodeLine a.data

/-! ### Panic (R195, R196) -/

/-- The port is in panic. -/
def inPanic (pt : Port) : Bool := pt.panicFill || pt.panicLevel

/-- The hopper fill of a port (R158). -/
def hopFill (pt : Port) : Nat := pt.hop.entries.length

/-- A port's panic from its fill and levels, under its DMC_PANIC_p (R195). -/
def panicOf (cfg : Reg) (pt : Port) : Bool × Bool :=
  if cfg.getLsbD 30 = false then (false, false)
  else
    let thr := min 1024 (fld cfg 16 11)
    let lthr := fld cfg 8 8
    (if thr ≤ hopFill pt then true else if hopFill pt + 64 < thr then false else pt.panicFill,
     (List.range 8).any fun s => cfg.getLsbD s && decide ((tget 255 pt.levels s).toNat < lthr))

/-- The access is a panic access now. A merge-base read is none (R224, log 89). -/
def panicAcc (p : Plane) (a : Access) : Bool :=
  a.rt && !a.rmw && (a.panic || (match a.port with
    | none => false
    | some i => inPanic (port p i)))

/-! ### Retraining (R201 to R203, R210) -/

/-- The channel is EVACUATED: its devices are in deep power-down, with no refresh and no retrain (R210). -/
def deepDown (p : Plane) (ch : Nat) : Bool := (evacOf p (ch / 16)).state == 2 && (evacOf p (ch / 16)).chan == ch % 16

/-- A pause is running on the tile. -/
def pausing (p : Plane) (t : Nat) : Bool :=
  (List.range 16).any fun c => (chan p (16 * t + c)).state == .pause0 || (chan p (16 * t + c)).state == .pause1

/-- A pause of a sub-channel starts: banks closed. -/
def startPause (ch : Nat) (second : Bool) (p : Plane) : Plane :=
  let c := chan p ch
  setChan p ch { c with state := if second then .pause1 else .pause0, deferred := false, pd := false,
                        banks := c.banks.map fun x => (x.1, { x.2 with openRow := none, hits := 0 }) }

/-- A channel due for a retrain: deferred while a panic access is queued, unless MEM_TRAIN named it (R202). -/
def offerRetrain (ch : Nat) (p : Plane) : Plane :=
  let c := chan p ch
  if c.state ≠ .normal ∨ c.due = false ∨ c.sc1Due ∨ deepDown p ch then p
  else if !c.forced && (c.rq ++ c.wq).any (panicAcc p) then setChan p ch { c with deferred := true }
  else startPause ch false p

/-- The tile's due channels in ascending order, one in a pause at a time (R202). -/
def startRetrains (t : Nat) (p : Plane) : Plane :=
  (List.range 16).foldl (fun q c => if pausing q t then q else offerRetrain (16 * t + c) q) p

/-- A deferred retrain of the tile starts once its channel holds no panic access any more (R202). -/
def startDeferred (t : Nat) (p : Plane) : Plane :=
  if (List.range 16).any fun c => (chan p (16 * t + c)).deferred then startRetrains t p else p

/-! ### Queues (R189, R194, R279) -/

/-- Watermarks in use (R194): high, high under panic, low. -/
def drainMarks (cfg : Reg) : Nat × Nat × Nat :=
  let hi := min 128 (fld cfg 8 8)
  let hp := min 128 (fld cfg 16 8)
  let lo := min 128 (fld cfg 0 8)
  (hi, max hp hi, if hi ≤ lo then hi - 1 else lo)

/-- Drain mode brought up to date (R194). -/
def updDrain (p : Plane) (ch : Nat) (c : Chan) : Chan :=
  let m := drainMarks (rg p (aDmcDrain (ch / 16)))
  let eff := if c.rq.any (panicAcc p) then m.2.1 else m.1
  if eff ≤ c.wq.length ∨ 128 ≤ c.wq.length then { c with drain := true }
  else if c.wq.length ≤ m.2.2 then { c with drain := false }
  else c

/-- Panic of a port brought up to date; a change reaches every channel's watermarks and deferred retrains (R194, R195, R196, R202). -/
def updPanic (i : Nat) (p : Plane) : Plane :=
  let pt := port p i
  let x := panicOf (rg p (aPanic i)) pt
  let q := setPort p i { pt with panicFill := x.1, panicLevel := x.2 }
  if inPanic (port q i) = inPanic pt then q
  else
    let q := q.chans.foldl (fun r c => setChan r c.1 (updDrain q c.1 c.2)) q
    [0, 1, 2, 3].foldl (fun r t => startDeferred t r) q

/-- Room for an access in its queue, with nothing of its kind waiting ahead (R189). -/
def hasRoom (c : Chan) (wr : Bool) : Bool :=
  (if wr then decide (c.wq.length < 128) else decide (c.rq.length < 192)) && !c.wait.any fun a => a.wr == wr

/-- An access put in its queue. -/
def intoQueue (c : Chan) (a : Access) : Chan :=
  if a.wr then { c with wq := c.wq ++ [a] } else { c with rq := c.rq ++ [a] }

/-- An access offered to a channel: queued, or waiting for a queue entry. -/
def offer (ch : Nat) (a : Access) (p : Plane) : Plane :=
  let c := chan p ch
  let a := { a with seq := c.nextSeq, t0 := p.clock }
  let c := { c with nextSeq := c.nextSeq + 1 }
  let p' := if !a.wr && (c.wq ++ c.wait).any (fun w => w.wr && w.raw == a.raw)
    then occur (ch / 16) 0x4006 { spa := some (lineSpa p.dw.node a.line).toNat } p else p
  if hasRoom c a.wr then setChan p' ch (updDrain p ch (intoQueue c a))
  else setChan p' ch { c with wait := c.wait ++ [a] }

/-- A write of a transaction or internal operation offered to a channel: where it has to wait for a queue entry, the job does not finish
before it is queued (R189, Table 04.5). -/
def offerFor (job : Option Nat) (ch : Nat) (a : Access) (p : Plane) : Plane :=
  if hasRoom (chan p ch) true then offer ch { a with wr := true, job := none } p
  else
    let q := offer ch { a with wr := true, job := job } p
    { q with jobs := q.jobs.map fun x => if some x.id == job then { x with wpend := x.wpend + 1 } else x }

/-- A line written to DRAM for a job: the access is placed (R209) and offered to its channel. -/
def dmcWrite (job : Option Nat) (a : Access) (p : Plane) : Plane :=
  let l := place p a.line
  offerFor job l.1 { a with raw := l.2 } p

/-- A line read from DRAM. -/
def dmcRead (a : Access) (p : Plane) : Plane :=
  let l := place p a.line
  offer l.1 { a with wr := false, raw := l.2 } p

/-- The channel behind a line is DOWN (R200). -/
def chanDown (p : Plane) (line : Nat) : Bool := (chan p (place p line).1).state == .down

/-- A party's bandwidth weight (R279). -/
def bwWeight (p : Plane) (t party : Nat) : Nat :=
  if party = 128 then clampF (fld (rg p (aJoin t)) 8 8) 255 else max 1 (inst p party).share.bwW.toNat

/-- The first turn of a new round, which fixes the instances' weights (R279, R281). -/
def newRound (p : Plane) (ps : List Nat) : Option Turn :=
  ps.min?.map fun x => { party := x, used := 1, wts := p.insts.map fun y => (y.1, bwWeight p 0 y.1) }

/-- A party's weight in a round. -/
def turnWeight (p : Plane) (t : Nat) (u : Turn) : Nat :=
  if u.party = 128 then bwWeight p t 128 else (tfind u.wts u.party).getD (bwWeight p t u.party)

/-- The party whose turn takes the freed entry: the running one while it has allowance and something waiting, else the
next in ascending order, else the lowest of a new round (R279). -/
def nextTurn (p : Plane) (t : Nat) (turn : Option Turn) (ps : List Nat) : Option Turn :=
  match turn with
  | none => newRound p ps
  | some u =>
    if ps.contains u.party && decide (u.used < turnWeight p t u) then some { u with used := u.used + 1 }
    else
      match (ps.filter fun x => decide (u.party < x)).min? with
      | some x => some { u with party := x, used := 1 }
      | none => newRound p ps

/-- The oldest waiting access of a kind and party. -/
def firstWait (c : Chan) (wr : Bool) (party : Option Nat) : Option Access :=
  c.wait.find? fun a => a.wr == wr && a.party == party

/-- A freed queue entry goes to a waiting access (R279). The result names the access granted. -/
def grantQueue (ch : Nat) (wr : Bool) (p : Plane) : Plane × Option Access :=
  let c := chan p ch
  if (if wr then 128 ≤ c.wq.length else 192 ≤ c.rq.length) then (p, none)
  else
    let take := fun (a : Access) (c : Chan) =>
      (setChan p ch (updDrain p ch
        (intoQueue { c with wait := c.wait.filter fun x => !(x.seq == a.seq) } { a with t0 := p.clock })), some a)
    match firstWait c wr none with
    | some a => take a c
    | none =>
      let ps := (c.wait.filter fun a => a.wr == wr).filterMap (·.party)
      match nextTurn p (ch / 16) (if wr then c.turnW else c.turnR) ps with
      | none => (p, none)
      | some t =>
        match firstWait c wr (some t.party) with
        | none => (p, none)
        | some a =>
          let more := c.wait.any fun x => x.wr == wr && x.party.isSome && !(x.seq == a.seq)
          let t := if more then some t else none
          take a (if wr then { c with turnW := t } else { c with turnR := t })

/-! ### The scheduler (R192, R193, R197) -/

/-- The rank of an access by Table 08.3, before the hazard rule. A merge-base read is a level 2 read (R224). -/
def baseRank (p : Plane) (c : Chan) (a : Access) : Nat :=
  if panicAcc p a then 2
  else if a.starved then 3
  else if a.wr then (if c.drain then 4 else 8)
  else if a.internal then 7
  else if a.rt && !a.rmw then 5
  else 6

/-- The rank of an access: a write that a read of its line waits for takes that read's rank if it is higher (R197). -/
def rankOf (p : Plane) (c : Chan) (a : Access) : Nat :=
  if a.wr then
    (c.rq.filter fun r => r.raw == a.raw && decide (a.seq < r.seq)).foldl (fun m r => min m (baseRank p c r)) (baseRank p c a)
  else baseRank p c a

/-- No earlier access of the line stands in the way (R197); a write that still waits for a queue entry counts as well. -/
def unblocked (c : Chan) (a : Access) : Bool :=
  !((c.wq ++ c.wait).any fun w => w.wr && w.raw == a.raw && decide (w.seq < a.seq)) &&
    (!a.wr || !(c.rq.any fun r => r.raw == a.raw && decide (r.seq < a.seq)))

/-- The oldest of a list of accesses. -/
def oldest : List Access → Option Access
  | [] => none
  | a :: t => match oldest t with
    | none => some a
    | some b => if b.seq < a.seq then some b else some a

/-- The access hits an open row. -/
def rowHit (c : Chan) (a : Access) : Bool := (tget {} c.banks (rawBank a.raw)).openRow == some (rawRow a.raw)

/-- The bank has served HIT_CAP hits while an older access of the list waits for another of its rows (R193). -/
def hitCapped (cap : Nat) (c : Chan) (as : List Access) (a : Access) : Bool :=
  decide (cap ≤ (tget {} c.banks (rawBank a.raw)).hits) &&
    as.any fun b => rawBank b.raw == rawBank a.raw && rawRow b.raw != rawRow a.raw && decide (b.seq < a.seq)

/-- The access the scheduler takes: highest rank, then an open row within HIT_CAP, then the oldest. -/
def pickAccess (p : Plane) (ch : Nat) : Option Access :=
  let c := chan p ch
  let all := (c.rq ++ c.wq).filter (unblocked c)
  match (all.map (rankOf p c)).min? with
  | none => none
  | some r =>
    let as := all.filter fun a => rankOf p c a == r
    let cap := clampF (fld (rg p (aDmcCtrl (ch / 16))) 24 8) 255
    match oldest (as.filter fun a => rowHit c a && !hitCapped cap c as a) with
    | some a => some a
    | none => oldest as

/-- One command of the scheduler (R192). -/
inductive Cmd where
  | idle
  | pre (bank : Nat)
  | act (a : Access)
  | col (a : Access)
  | refresh (bank : Nat)
  | rfm (bank : Nat)
deriving DecidableEq, Repr

/-- The command towards an access. -/
def cmdFor (c : Chan) (a : Access) : Cmd :=
  match (tget {} c.banks (rawBank a.raw)).openRow with
  | none => .act a
  | some r => if r = rawRow a.raw then .col a else .pre (rawBank a.raw)

/-- A refresh of a bank, which must be closed first. -/
def cmdRefresh (c : Chan) (b : Nat) : Cmd := if (tget {} c.banks b).openRow.isSome then .pre b else .refresh b

/-- The bank has reached the activation threshold that the device reports (R199). -/
def needsRfm (c : Chan) (b : Bank) : Bool := decide (0 < c.rfmThr) && decide (c.rfmThr ≤ b.acts)

/-- The command the scheduler issues (R192, R199): a refresh or a refresh-management command at its limit, else the ranked access, else
a refresh owed. -/
def pickCmd (p : Plane) (ch : Nat) : Cmd :=
  let c := chan p ch
  if c.state ≠ .normal ∨ deepDown p ch then .idle
  else
    match c.banks.find? (fun x => decide (8 ≤ x.2.owed) || needsRfm c x.2) with
    | some x =>
      if 8 ≤ x.2.owed then cmdRefresh c x.1 else if x.2.openRow.isSome then .pre x.1 else .rfm x.1
    | none =>
      match pickAccess p ch with
      | some a => cmdFor c a
      | none =>
        match c.banks.find? (fun x => decide (1 ≤ x.2.owed)) with
        | some x => cmdRefresh c x.1
        | none => .idle

def setBank (c : Chan) (b : Nat) (x : Bank) : Chan := { c with banks := tput {} c.banks b x }

/-- The attributes of a DRAM access. -/
def accOcc (p : Plane) (a : Access) : Occ :=
  { spa := some (lineSpa p.dw.node a.line).toNat, cls := some a.cls, agent := if a.wr then none else a.agent }

/-- A read or write burst: the access leaves its queue; a write is stored, a read's word starts on its way (R187). The burst of an access
that opened its row itself is no row hit (R193). -/
def issueCol (ch : Nat) (a : Access) (p : Plane) : Plane :=
  let t := ch / 16
  let c := chan p ch
  let b := rawBank a.raw
  let bk := tget {} c.banks b
  let c := setBank { c with pd := false } b { bk with hits := if a.act then bk.hits else bk.hits + 1, idle := false }
  let c := if a.wr then { c with wq := c.wq.filter fun x => !(x.seq == a.seq) }
    else { c with rq := c.rq.filter fun x => !(x.seq == a.seq) }
  let more := (c.rq ++ c.wq).any fun x => rawBank x.raw == b && rawRow x.raw == rawRow a.raw
  let c := if fld (rg p (aChCfg ch)) 0 10 = 0 ∧ more = false then setBank c b { tget {} c.banks b with openRow := none } else c
  let p := if a.act then p else occur t 0x4003 { spa := some (lineSpa p.dw.node a.line).toNat } p
  let p := if panicAcc p a then occur t 0x4005 (accOcc p a) p else p
  if a.wr then
    let q := startDeferred t (setChan p ch (updDrain p ch c))
    occur t 0x4002 (accOcc p a) (dramPut q ch a.raw (writeWord a))
  else
    let w := dramWord p ch a.raw
    let d := delayE c.engine
    let c := if d.1 = 0 then { c with ret := c.ret ++ [(a, w)], engine := d.2 }
      else { c with heldRet := c.heldRet ++ [(d.1, a, w)], engine := d.2 }
    occur t 0x4001 (accOcc p a) (startDeferred t (setChan p ch (updDrain p ch c)))

/-- An access marked as having opened its row. -/
def markAct (c : Chan) (a : Access) : Chan :=
  let f := fun (x : Access) => if x.seq == a.seq then { x with act := true } else x
  { c with rq := c.rq.map f, wq := c.wq.map f }

/-- One scheduler command carried out. -/
def issueCmd (ch : Nat) (p : Plane) : Plane :=
  let t := ch / 16
  let c := chan p ch
  match pickCmd p ch with
  | .idle => p
  | .pre b =>
    let q := setChan p ch (setBank { c with pd := false } b { tget {} c.banks b with openRow := none, hits := 0 })
    match pickAccess p ch with
    | some a => if rawBank a.raw = b then occur t 0x4004 { spa := some (lineSpa p.dw.node a.line).toNat } q else q
    | none => q
  | .act a =>
    let b := rawBank a.raw
    let bk := tget {} c.banks b
    setChan p ch (markAct (setBank { c with pd := false } b
      { bk with openRow := some (rawRow a.raw), hits := 0, acts := bk.acts + 1, idle := false }) a)
  | .col a => issueCol ch a p
  | .refresh b =>
    let bk := tget {} c.banks b
    occur t 0x4007 {} (setChan p ch (setBank { c with pd := false } b { bk with owed := bk.owed - 1 }))
  | .rfm b => setChan p ch (setBank { c with pd := false } b { tget {} c.banks b with acts := 0 })

/-! ### Long operations of the module itself, and evacuation (R207) -/

/-- An operation slot taken. `queue` 5 is the module's own. -/
def newOp (queue : Nat) (seq : BitVec 32) (opcode : BitVec 16) (w : Work) (p : Plane) : Plane :=
  { p with ops := p.ops ++ [{ id := p.nextOp, queue := queue, seq := seq, opcode := opcode, work := w, t0 := p.clock }],
           nextOp := p.nextOp + 1 }

/-- An operation ends with a status. -/
def endOp (id : Nat) (status : BitVec 8) (p : Plane) : Plane :=
  { p with ops := p.ops.map fun o => if o.id == id && o.ended.isNone then { o with ended := some status } else o }

/-- RESERVE_EN in force, of tile T0 (R205). -/
def reserveEn (p : Plane) : Bool := (rg p (aDmcCtrl 0)).getLsbD 8

/-- The tile can evacuate the channel (R207). -/
def canEvac (p : Plane) (ch : Nat) : Bool :=
  reserveEn p && (evacOf p (ch / 16)).state == 0 && (chan p ch).state != .down

/-- The channel becomes EVACUATING, its cursor at line 0. -/
def startEvac (ch : Nat) (p : Plane) : Plane :=
  setEvac p (ch / 16) { state := 1, chan := ch % 16, cursor := 0 }

/-- The condition of R207 met: evacuation in hardware mode of FM_CHANNEL_EVAC, else the event. -/
def evacTrigger (ch : Nat) (p : Plane) : Plane :=
  let src := tileSrc (ch / 16) (18 + ch % 16)
  if hostMode p fmEvac then raise src 3 0 0 p
  else if canEvac p ch then startEvac ch (newOp 5 0 0 (.evac ch) p)
  else raise src 4 0 0 p

/-! ### The DIU (R218 to R220, R227, R235, R236) -/

/-- Bank [31:28] and row [16:0] of a DIU event (Table 14.3). -/
def bankRow (bank row : Nat) : BitVec 32 := BitVec.ofNat 32 (bank % 16 * 2 ^ 28 + row % 2 ^ 17)

/-- A row becomes pending (R235): in host-assisted mode of FM_PAGE_RETIRE with the event, once. -/
def rowPending (ch bank row : Nat) (p : Plane) : Plane :=
  let c := chan p ch
  if c.pinFault then p
  else
    let q := setChan p ch { c with tracker := c.tracker.map fun x =>
      if x.bank == bank && x.row == row then { x with pending := true } else x }
    if hostMode p fmPage then raise (tileSrc (ch / 16) (34 + ch % 16)) 2 (bankRow bank row) 0 q else q

/-- The row counted in the tracker of 16 rows (R235); `whole` for an uncorrectable line, which makes it pending. -/
def track (ch bank row : Nat) (whole : Bool) (p : Plane) : Plane :=
  let c := chan p ch
  let known := c.tracker.any fun x => x.bank == bank && x.row == row
  if known = false ∧ 16 ≤ c.tracker.length then p
  else
    let tr := if known then c.tracker else c.tracker ++ [{ bank := bank, row := row }]
    let tr := tr.map fun x => if !whole && x.bank == bank && x.row == row then { x with count := x.count + 1 } else x
    let q := setChan p ch { c with tracker := tr }
    let thr := clampF (fld (rg p (aDiuCfg (ch / 16))) 16 8) 255
    match tr.find? fun x => x.bank == bank && x.row == row with
    | none => q
    | some x => if x.pending = false ∧ (whole ∨ thr ≤ x.count) then rowPending ch bank row q else q

/-- The run of corrected lines on one pin (R236): a fault at the fourth distinct row in succession. -/
def pinStep (ch bank row : Nat) (fixed : List Nat) (p : Plane) : Plane :=
  let c := chan p ch
  match fixed with
  | [] => p
  | s :: _ =>
    if fixed.all fun k => pinOf k == pinOf s then
      let rows := match c.pinRun with
        | some (q, rs) => if q = pinOf s then (if rs.contains (bank, row) then rs else rs ++ [(bank, row)]) else [(bank, row)]
        | none => [(bank, row)]
      if 4 ≤ rows.length ∧ c.pinFault = false then
        raise (tileSrc (ch / 16) (34 + ch % 16)) 4 (bankRow bank row) 0
          (setChan p ch { c with pinRun := some (pinOf s, rows), pinFault := true, pin := pinOf s,
                                 tracker := c.tracker.filter fun x => !x.pending })
      else setChan p ch { c with pinRun := some (pinOf s, rows) }
    else setChan p ch { c with pinRun := none }

/-- A corrected line counted (R207, R228, R235, R236). -/
def countCe (ch raw line : Nat) (fixed : List Nat) (p : Plane) : Plane :=
  let c := chan p ch
  let recent := (p.clock :: c.recent).filter fun x => decide (p.clock ≤ x + 2000000000)
  let q := setChan p ch { c with ce := min (2 ^ 32 - 1) (c.ce + 1), recent := recent }
  let q := occur (ch / 16) 0x5001 { spa := some (lineSpa p.dw.node line).toNat } q
  let q := pinStep ch (rawBank raw) (rawRow raw) fixed (track ch (rawBank raw) (rawRow raw) false q)
  if clampF (fld (rg p (aDmcEvac (ch / 16))) 0 16) 65535 ≤ recent.length then evacTrigger ch q else q

/-- The write-back of a corrected or poisoned line to the place it was read from, queued while the reader still holds the line
(R227). -/
def writeBack (ch : Nat) (a : Access) (line : Line) (poison : Bool) (p : Plane) : Plane :=
  offerFor a.job ch { wr := true, line := a.line, raw := a.raw, data := line, poison := poison, cls := a.cls } p

/-- What the DIU found in a word (R218): 0 nothing, 1 corrections, 2 an uncorrectable line. -/
def foundIn (w : List Nat) : Nat :=
  match classify w with
  | .good | .poisoned [] => 0
  | .poisoned (_ :: _) | .corrected _ _ => 1
  | .uncorrectable => 2

/-- A merge-base read whose corrected line needs no write of its own: the merged write goes to DRAM and repairs it (R224). A line that
stays in its slice is written back at once (R227). -/
def mergeRepairs (p : Plane) (a : Access) : Bool := a.rmw && (a.cls == 0 || !p.cache.enabled || p.cache.wtAll)

/-- What the DIU makes of a word read at a raw line (R218, R219, R227): the line and its poison. A copy read leaves the old place
unwritten (R227); a corrected merge base is repaired by the merged write (R224). -/
def diuRead (ch : Nat) (a : Access) (w : List Nat) (p : Plane) : Plane × Line × Bool :=
  let spa := (lineSpa p.dw.node a.line).toNat
  match classify w with
  | .good => (p, lineOf w 0, false)
  | .poisoned [] => (occur (ch / 16) 0x5003 { spa := some spa } p, 0, true)
  | .poisoned f =>
    let q := countCe ch a.raw a.line f (occur (ch / 16) 0x5003 { spa := some spa } p)
    (if a.keep then q else writeBack ch a 0 true q, 0, true)
  | .corrected f w' =>
    let q := countCe ch a.raw a.line f p
    let l := lineOf w' 0
    (if a.keep || mergeRepairs p a then q else writeBack ch a l false q, l, false)
  | .uncorrectable =>
    let c := chan p ch
    let q := setChan p ch { c with ue := min (2 ^ 32 - 1) (c.ue + 1) }
    let q := occur (ch / 16) 0x5002 { spa := some spa } q
    let q := raise (tileSrc (ch / 16) (34 + ch % 16)) 1 (bankRow (rawBank a.raw) (rawRow a.raw)) (payOf spa 0 0) q
    let q := track ch (rawBank a.raw) (rawRow a.raw) true q
    (if a.keep then q else writeBack ch a 0 true q, 0, true)

end Sys2Proof.Machine
end

