-- ==== Sys2Proof/Machine/Cache.lean ====
section
/-! DEFINITION. The cache slices: lookup, ages, victims, allocation, write-back and write-through, the SEC-DED arrays,
way retirement and replay descriptors (chapter 06, R225, R238). -/
namespace Sys2Proof.Machine
open Sys2Proof

/-! ### Sets, tags and ways (R120) -/

/-- The slice of a home-local line, 16 × tile + channel index. -/
def sliceOf (line : Nat) : Nat := 16 * lineTile line + lineChan line
/-- The set index of a channel-local line: cl[17:6] xor cl[29:18]. -/
def cSet (cl : Nat) : Nat := (cl % 4096) ^^^ (cl / 4096 % 4096)
/-- The tag of a channel-local line: cl[32:18]. -/
def cTagOf (cl : Nat) : BitVec 15 := BitVec.ofNat 15 (cl / 4096)
/-- The channel-local line of a set and tag. -/
def clOfSet (set : Nat) (tag : BitVec 15) : Nat := tag.toNat * 4096 + (set ^^^ (tag.toNat % 4096))
/-- The key of a way. -/
def wayKey (n set w : Nat) : Nat := (n * 4096 + set) * 24 + w
/-- The home-local line a way holds. -/
def wayLineNo (n set : Nat) (l : WayLine) : Nat := lineAt (n / 16) (n % 16) (clOfSet set l.tag)

/-- The way is locked; its owner. -/
def lockOwner (p : Plane) (n w : Nat) : Option Nat := tfind (slice p n).locks w
/-- The way is retired. -/
def isRetired (p : Plane) (n w : Nat) : Bool := (slice p n).retired.getLsbD w
/-- The way takes no allocation: retired, or its retirement walk has begun (R149). -/
def noAlloc (p : Plane) (n w : Nat) : Bool := (slice p n).retired.getLsbD w || (slice p n).retiring.getLsbD w

/-- The valid ways of a set, by way number. -/
def setLines (p : Plane) (n set : Nat) : List (Nat × WayLine) :=
  (p.ways.filter fun x => x.1 / 24 == n * 4096 + set).map fun x => (x.1 % 24, x.2)

/-- The way of a set that holds a tag, retired ways aside (R120). -/
def findWay (p : Plane) (n set : Nat) (tag : BitVec 15) : Option (Nat × WayLine) :=
  (setLines p n set).find? fun x => x.2.tag == tag && !isRetired p n x.1

def putWay (p : Plane) (n set w : Nat) (l : WayLine) : Plane :=
  { p with ways := tset p.ways (wayKey n set w) l, staleTags := tdel p.staleTags (wayKey n set w) }
/-- A way invalidated: its tag entry stays as it stands but for VALID, PIN and RPF (R140, R142). -/
def dropWay (p : Plane) (n set w : Nat) : Plane :=
  { p with ways := tdel p.ways (wayKey n set w),
           staleTags := match tfind p.ways (wayKey n set w) with
             | none => p.staleTags
             | some l => tput 0 p.staleTags (wayKey n set w)
                 (encodeTag { l with pin := false, rpf := false } &&& ~~~(BitVec.ofNat 40 (2 ^ 24))),
           sramFlips := p.sramFlips.filter fun x => !(x.1 / 9 == wayKey n set w) }

/-- The slice copy of a home-local line: its way and content. -/
def lookup (p : Plane) (line : Nat) : Option (Nat × WayLine) :=
  if p.cache.enabled then findWay p (sliceOf line) (cSet (lineCl line)) (cTagOf (lineCl line)) else none

/-- A transaction other than `job` holds the line (R126). -/
def busyBut (p : Plane) (job : Option Nat) (line : Nat) : Bool :=
  p.jobs.any fun j => j.line == line && j.phase == .running && !(some j.id == job)
/-- A transaction holds the line (R91). -/
def busy (p : Plane) (line : Nat) : Bool := busyBut p none line

/-! ### Quotas (R122, R125) -/

/-- An instance's occupancy of a slice (R122). -/
def occupancy (p : Plane) (n i : Nat) : Nat :=
  (p.ways.filter fun x => x.1 / 24 / 4096 == n && !x.2.unch && x.2.inst.toNat == i &&
    (lockOwner p n (x.1 % 24)).isNone).length

/-- Ways of a slice neither locked nor retired; one being retired is not yet retired (R149). -/
def plainWays (p : Plane) (n : Nat) : List Nat :=
  (List.range 24).filter fun w => (lockOwner p n w).isNone && !isRetired p n w

/-- Ways of a slice neither locked nor retired that take allocations. -/
def openWays (p : Plane) (n : Nat) : List Nat := (plainWays p n).filter fun w => !noAlloc p n w

/-- An instance's protection limit in a slice (R125). -/
def protLimit (p : Plane) (n i : Nat) : Nat := 16 * (inst p i).share.quota.toNat * (plainWays p n).length

/-- An instance above its limit has none of its lines protected (R125). -/
def aboveLimit (p : Plane) (n i : Nat) : Bool := decide (protLimit p n i < occupancy p n i)

/-! ### SEC-DED arrays (R225, R238) -/

/-- Set bits of a flip mask. -/
def flipCount (m : BitVec 72) : Nat := countBits m 72

/-- A way starts its retirement in hardware mode, or the CCA event tells of it (R150, R238). Under a CACHE_DISABLE it waits (R303). -/
def wayAtThreshold (n w corrected : Nat) (p : Plane) : Plane :=
  let src := tileSrc (n / 16) 17
  let pay := payWay (n / 16) (n % 16) 0 w
  if hostMode p fmWay then raise src 1 (BitVec.ofNat 32 corrected) pay p
  else if noAlloc p n w then p
  else if p.ops.any fun o => o.work == .disable && o.ended.isNone then
    setSlice p n { slice p n with waits := (slice p n).waits ||| BitVec.ofNat 24 (2 ^ w) }
  else if 8 ≤ countBits ((slice p n).retired ||| (slice p n).retiring) 24 then raise src 2 (BitVec.ofNat 32 corrected) pay p
  else
    setSlice (newOp 5 0 0 (.retire (n / 16) (n % 16) w) p) n
      { slice p n with retiring := (slice p n).retiring ||| BitVec.ofNat 24 (2 ^ w) }

/-- A corrected data or tag word of a way counted (R228, R238). -/
def countWayCe (n w : Nat) (p : Plane) : Plane :=
  let s := slice p n
  let k := tget 0 s.wayCe w + 1
  let q := setSlice p n { s with ce := min (2 ^ 32 - 1) (s.ce + 1), wayCe := tput 0 s.wayCe w k }
  if clampF (fld (rg p (aDiuCfg (n / 16))) 24 8) 255 ≤ k ∧ s.told.getLsbD w = false then
    wayAtThreshold n w k (setSlice q n { slice q n with told := s.told ||| BitVec.ofNat 24 (2 ^ w) })
  else q

/-- An uncorrectable data or tag word of a way counted (R228, R238). -/
def countWayUe (n w : Nat) (p : Plane) : Plane :=
  let s := slice p n
  wayAtThreshold n w (tget 0 s.wayCe w) (setSlice p n { s with ue := min (2 ^ 32 - 1) (s.ue + 1), bad := s.bad ||| BitVec.ofNat 24 (2 ^ w) })

/-- What a SEC-DED word with `k` flipped bits reads as: 0 good, 1 corrected, 2 uncorrectable; three or more flips are a
free choice (log 3). -/
def secded (p : Plane) (k : Nat) : Nat :=
  if k < 3 then k else 1 + Config.freeNat p.draw % 2

/-- One data word of a way read: a flip corrected, or the line's POISON set (Table 09.2). -/
def readDataWord (n set w word : Nat) (p : Plane) : Plane :=
  let key := wayKey n set w * 9 + word
  let k := flipCount (tget 0 p.sramFlips key)
  if k = 0 then p
  else
    match tfind p.ways (wayKey n set w) with
    | none => { p with sramFlips := tdel p.sramFlips key }
    | some l =>
      let q := { p with sramFlips := tdel p.sramFlips key }
      if secded p k = 1 then
        if 3 ≤ k then
          let d := merge l.data ((Config.freeWord p.draw).setWidth 512 <<< (64 * word)) (0xFF <<< (8 * word))
          countWayCe n w (putWay (draw1 q) n set w { l with data := d })
        else countWayCe n w q
      else
        let q := if 3 ≤ k then draw1 q else q
        countWayUe n w (raise (tileSrc (n / 16) 50) 1 0 (payOf (lineSpa p.dw.node (wayLineNo n set l)).toNat 0 0)
          (putWay q n set w { l with poison := true }))

/-- One tag read: a flip corrected, or the way invalidated (Table 09.2). -/
def readTag (n set w : Nat) (p : Plane) : Plane :=
  let key := wayKey n set w * 9 + 8
  let k := flipCount (tget 0 p.sramFlips key)
  if k = 0 then p
  else
    let q := { p with sramFlips := tdel p.sramFlips key }
    let q := if 3 ≤ k then draw1 q else q
    if secded p k = 1 then countWayCe n w q
    else
      let dirty := match tfind p.ways (wayKey n set w) with
        | none => false
        | some l => l.dirty
      countWayUe n w (raise (tileSrc (n / 16) 50) 2 (if dirty then 1 else 0) (payWay (n / 16) (n % 16) set w)
        (dropWay q n set w))

/-- The tags of a set read by a lookup. -/
def readTags (n set : Nat) (p : Plane) : Plane := (List.range 24).foldl (fun q w => readTag n set w q) p
/-- The data words of a way read. -/
def readData (n set w : Nat) (p : Plane) : Plane := (List.range 8).foldl (fun q k => readDataWord n set w k q) p

/-! ### Victims (R126 to R130) -/

/-- The line with the highest age, the lowest way on a tie. -/
def oldestWay : List (Nat × WayLine) → Option (Nat × WayLine)
  | [] => none
  | x :: t => match oldestWay t with
    | none => some x
    | some y => if x.2.age < y.2.age ∨ (x.2.age = y.2.age ∧ y.1 < x.1) then some y else some x

/-- The line of a way written to DRAM for a job, as a victim or by cleaning: its words read under their code, poison written as poison
(R130, R220, R225). -/
def writeLine (job : Option Nat) (n set w : Nat) (p : Plane) : Plane :=
  let q := readData n set w p
  match tfind q.ways (wayKey n set w) with
  | none => q
  | some l =>
    dmcWrite job { wr := true, line := wayLineNo n set l, raw := 0, data := l.data, poison := l.poison, cls := l.cls.toNat } q

/-- A victim leaves its way (R130). -/
def evictWay (job : Option Nat) (n set w : Nat) (l : WayLine) (p : Plane) : Plane :=
  let q := if l.dirty then
      occur (n / 16) 0x2004 { spa := some (lineSpa p.dw.node (wayLineNo n set l)).toNat, cls := some l.cls.toNat }
        (writeLine job n set w p)
    else p
  dropWay q n set w

/-- Every other valid, non-busy line of the chosen ways one older, saturating at 3 (R128). -/
def ageOthers (n set : Nat) (job : Option Nat) (among : Nat → WayLine → Bool) (p : Plane) : Plane :=
  { p with ways := p.ways.map fun x =>
      if x.1 / 24 == n * 4096 + set && among (x.1 % 24) x.2 && !busyBut p job (wayLineNo n set x.2)
      then (x.1, { x.2 with age := min 3 (x.2.age + 1) }) else x }

/-- A way freed for an allocation into unlocked ways, charged to `who`, or none (R126, R128). -/
def takeOpen (n set : Nat) (job : Option Nat) (who : Option Nat) (p : Plane) : Option (Nat × Plane) :=
  let ws := openWays p n
  let ls := (setLines p n set).filter fun x => ws.contains x.1
  match ws.find? fun w => !ls.any fun x => x.1 == w with
  | some w => some (w, p)
  | none =>
    let usable := ls.filter fun x => !busyBut p job (wayLineNo n set x.2)
    let first := usable.filter fun x => x.2.unch || aboveLimit p n x.2.inst.toNat
    let second := usable.filter fun x => !x.2.unch && some x.2.inst.toNat == who
    match oldestWay (if first.isEmpty then second else first) with
    | none => none
    | some v =>
      some (v.1, ageOthers n set job (fun w _ => (plainWays p n).contains w) (evictWay job n set v.1 v.2 p))

/-- A way freed among an owner's locked ways, or none (R127, R128). -/
def takeLocked (n set owner : Nat) (job : Option Nat) (p : Plane) : Option (Nat × Plane) :=
  let ws := (List.range 24).filter fun w => lockOwner p n w == some owner && !noAlloc p n w
  let ls := (setLines p n set).filter fun x => ws.contains x.1
  match ws.find? fun w => !ls.any fun x => x.1 == w with
  | some w => some (w, p)
  | none =>
    match oldestWay (ls.filter fun x => !x.2.pin && !busyBut p job (wayLineNo n set x.2)) with
    | none => none
    | some v =>
      some (v.1, ageOthers n set job (fun w l => lockOwner p n w == some owner && !l.pin) (evictWay job n set v.1 v.2 p))

/-- The owner's locked ways in the slice take the allocation of a PATTERN request of this module's agents (R127). -/
def ownsWays (p : Plane) (n owner : Nat) : Bool := (slice p n).locks.any fun x => x.2 == owner

/-- A target way for a request's allocation, and whom its line is charged to: R127 for a local PATTERN request, whose line in a locked
way carries the lock owner (Table 06.1), else R126. -/
def takeWay (n set : Nat) (job who : Option Nat) (pattern : Option Nat) (p : Plane) : Option (Nat × Option Nat × Plane) :=
  let plain := (takeOpen n set job who p).map fun x => (x.1, who, x.2)
  match pattern with
  | none => plain
  | some o =>
    if ownsWays p n o then
      match takeLocked n set o job p with
      | some x => some (x.1, some o, x.2)
      | none => plain
    else plain

/-! ### Lookups -/

/-- A lookup of a line with its reads of the arrays. -/
def lookupRead (line : Nat) (p : Plane) : Plane :=
  if p.cache.enabled then
    let n := sliceOf line
    let set := cSet (lineCl line)
    let q := readTags n set p
    match lookup q line with
    | none => q
    | some x => readData n set x.1 q
  else p

/-! ### Hits and allocations (R122 to R124, R129) -/

/-- A STREAM descriptor of this module names the line (Table 06.2). -/
def streamLine (p : Plane) (line : Nat) : Bool :=
  p.descs.any fun x => x.2.d.valid && x.2.d.stream && x.2.d.stride != 0 &&
    spaNode x.2.d.start == p.dw.node && decide (spaLine x.2.d.start ≤ line) &&
    (line - spaLine x.2.d.start) % x.2.d.stride.toNat == 0 &&
    decide ((line - spaLine x.2.d.start) / x.2.d.stride.toNat < x.2.d.count.toNat)

/-- The way a request hits, with its age, class and RPF as Table 06.2 gives. -/
def hitAge (p : Plane) (n w line : Nat) (cls : BitVec 2) (read : Bool) (l : WayLine) : WayLine :=
  let age := if cls = 0 then l.age
    else if read && cls == 1 && (lockOwner p n w).isSome && streamLine p line then 3 else 0
  { l with age := age, cls := cls, rpf := false }

/-- A request hits a way. -/
def touch (line : Nat) (cls : BitVec 2) (read : Bool) (p : Plane) : Plane :=
  match lookup p line with
  | none => p
  | some x => putWay p (sliceOf line) (cSet (lineCl line)) x.1 (hitAge p (sliceOf line) x.1 line cls read x.2)

/-- The instance a job's allocation is charged to: its requester's, or none (R122). -/
def chargeOf (j : Job) : Option Nat :=
  match j.kind with
  | .req _ => if j.who.remote then none else some j.who.inst
  | _ => none

/-- The locked ways a job's allocation may go to: the region owner's, for a PATTERN request of this module (R127). -/
def patternOf (j : Job) : Option Nat :=
  match j.kind with
  | .req _ => if j.who.remote ∨ j.cls ≠ 1 then none else some j.owner
  | _ => none

/-- A new way entry charged as R122 gives. -/
def newWay (line : Nat) (who : Option Nat) (cls : BitVec 2) (age : Nat) (dirty poison : Bool) (data : Line) : WayLine :=
  { tag := cTagOf (lineCl line), dirty := dirty, age := age, poison := poison, unch := who.isNone,
    inst := BitVec.ofNat 7 (who.getD 0), cls := cls, data := data }

/-- An allocation for a job, or the CCA_NO_ALLOC count (R126 to R129). The Bool says whether the line was allocated. -/
def allocate (j : Job) (age : Nat) (dirty poison : Bool) (data : Line) (p : Plane) : Plane × Bool :=
  if p.cache.enabled && !p.cache.wtAll then
    let n := sliceOf j.line
    let set := cSet (lineCl j.line)
    match takeWay n set (some j.id) (chargeOf j) (patternOf j) p with
    | some x => (putWay x.2.2 n set x.1 (newWay j.line x.2.1 j.cls age dirty poison data), true)
    | none => (occur (n / 16) 0x2003 (jobOcc p j) p, false)
  else (p, false)

/-- The age of a read-class miss's allocation (Table 06.2). -/
def readAge (cls : BitVec 2) : Nat := if cls = 1 then 0 else if cls = 2 then 1 else 2

/-- The party that a job's accesses are charged to: its requester's instance, or the join party; none outside a request's transaction
(R279). -/
def partyOf (j : Job) : Option Nat :=
  match j.kind with
  | .req _ => some (if j.who.remote then 128 else j.who.inst)
  | _ => none

/-- The DRAM write of a job's line: a real-time access carries its port's panic (R195, R196). -/
def jobWrite (j : Job) (store : Bool) (line : Line) (poison : Bool) (p : Plane) : Plane :=
  dmcWrite (some j.id)
    { wr := true, line := j.line, raw := 0, data := line, poison := poison, rt := store && j.rt,
      port := if j.who.remote then none else some j.who.port, panic := j.panic, cls := j.cls.toNat, party := partyOf j } p

/-- The data words of a way written anew: what was wrong in them is gone. -/
def newData (n set w : Nat) (p : Plane) : Plane :=
  { p with sramFlips := p.sramFlips.filter fun x => !(x.1 / 9 == wayKey n set w && x.1 % 9 != 8) }

/-- A line written to its home copy under a class (R124, R129, R146, R148). `store` for a store or atomic; otherwise
write-back data, whose installation ages differ (Table 06.2). -/
def writeHome (j : Job) (store : Bool) (data : Line) (poison : Bool) (p : Plane) : Plane :=
  let n := sliceOf j.line
  let set := cSet (lineCl j.line)
  let p := if p.cache.enabled then readTags n set p else p
  match lookup p j.line with
  | some x =>
    let l := if store then hitAge p n x.1 j.line j.cls false x.2 else { x.2 with cls := j.cls }
    let thru := j.cls == 0 || p.cache.wtAll
    let q := newData n set x.1 (putWay p n set x.1 { l with data := data, poison := poison, dirty := l.dirty || !thru })
    if thru then jobWrite j store data poison q else q
  | none =>
    if j.cls = 0 then jobWrite j store data poison p
    else
      let r := allocate j (if store then (if j.cls = 1 then 0 else 1) else 1) true poison data p
      if r.2 then r.1 else jobWrite j store data poison r.1

/-! ### Replay descriptors (R134 to R138) -/

/-- The index of the line of a descriptor that an SPA line is, if any. -/
def descIndex (d : Replay) (node line : Nat) : Option Nat :=
  if d.valid && d.stride != 0 && spaNode d.start == node && decide (spaLine d.start ≤ line) then
    let x := line - spaLine d.start
    if x % d.stride.toNat = 0 ∧ x / d.stride.toNat < d.count.toNat then some (x / d.stride.toNat) else none
  else none

/-- A read-class request of an instance matches descriptor state (R136). -/
def descMatch (x : Desc) (k : Nat) : Desc :=
  let n := match x.k with
    | none => 0
    | some k0 => if k < k0 then x.n + 1 else x.n
  let pos := n * x.d.count.toNat + k
  let stop := pos + 1 + x.d.lead.toNat
  { x with k := some k, n := n, next := pos + 1,
           stop := if x.d.iter = 0 then stop else min stop (x.d.iter.toNat * x.d.count.toNat) }

/-- Every active descriptor sees a read-class request of this module's agents (R136). -/
def seeRequest (line i : Nat) (p : Plane) : Plane :=
  { p with descs := p.descs.map fun x =>
      if x.2.d.inst.toNat = i then
        match descIndex x.2.d p.dw.node line with
        | none => x
        | some k => (x.1, descMatch x.2 k)
      else x }

/-- Descriptors may prefetch (R138, Table 06.6). -/
def replayRuns (p : Plane) : Bool := p.cache.enabled && !hostMode p fmReplay

/-- The SPA lies in a PATTERN region of an instance (R133, R135). -/
def inPattern (p : Plane) (i : Nat) (a : Spa) : Bool :=
  match regionAt p a with
  | none => false
  | some r => r.cls == 1 && r.owner.toNat == i

end Sys2Proof.Machine
end

