-- ==== Sys2Proof/Machine/Intern.lean ====
section
/-! DEFINITION. Internal operations on a line once they hold it (R93, Table 04.5): what each does on starting, with the data it has read,
and at its finish point (chapters 06, 08 and 09). -/
namespace Sys2Proof.Machine
open Sys2Proof

/-! ### One way of a slice -/

/-- Slice, set and way of a key. -/
def keySlice (k : Nat) : Nat := k / 24 / 4096
def keySet (k : Nat) : Nat := k / 24 % 4096
def keyWay (k : Nat) : Nat := k % 24
/-- The home-local line under a key. -/
def keyLine (k : Nat) (l : WayLine) : Nat := wayLineNo (keySlice k) (keySet k) l

/-- The SPA of a home-local line of this module. -/
def homeSpa (p : Plane) (line : Nat) : Spa := lineSpa p.dw.node line

/-- A line written back for a job: it stays valid with DIRTY 0 (Table 06.4). -/
def cleanKey (job : Option Nat) (k : Nat) (p : Plane) : Plane :=
  let q := writeLine job (keySlice k) (keySet k) (keyWay k) p
  match tfind q.ways k with
  | none => q
  | some l => putWay q (keySlice k) (keySet k) (keyWay k) { l with dirty := false }

/-- A line invalidated. -/
def dropKey (k : Nat) (p : Plane) : Plane := dropWay p (keySlice k) (keySet k) (keyWay k)

/-- What maintenance does to a valid line: 0 clean, 1 invalidate, 2 clean and invalidate. The counts are lines written
back, invalidated and skipped (Table 06.4). -/
def maintain (job : Option Nat) (what : Nat) (lockedOk : Bool) (k : Nat) (p : Plane) : Plane × Nat × Nat × Nat :=
  match tfind p.ways k with
  | none => (p, 0, 0, 0)
  | some l =>
    let locked := (lockOwner p (keySlice k) (keyWay k)).isSome
    match what with
    | 0 => if l.dirty then (cleanKey job k p, 1, 0, 0) else (p, 0, 0, 0)
    | 1 => if locked && !lockedOk then (p, 0, 0, 1) else (dropKey k p, 0, 1, 0)
    | _ => if l.dirty then (dropKey k (cleanKey job k p), 1, 1, 0) else (dropKey k p, 0, 1, 0)

/-- Counts added to an operation. -/
def addCounts (id : Nat) (c : Nat × Nat × Nat) (p : Plane) : Plane :=
  { p with ops := p.ops.map fun o =>
      if o.id == id then { o with a := o.a + c.1, b := o.b + c.2.1, c := o.c + c.2.2 } else o }

/-! ### Walks (R131, R139, R146, R149, R268) -/

/-- A range of lines is examined by set and way, not by address, when it holds at least as many lines as the cache (R139). -/
def byWays (lines : Nat) : Bool := decide (6291456 ≤ lines)

/-- The operation walks sets and ways. -/
def walksWays : Work → Bool
  | .cleanAll | .disable | .leave 4 _ | .wayLock _ _ | .retire _ _ _ => true
  | .clean _ n | .inval _ n _ | .clinv _ n => byWays n
  | _ => false

/-- A way lies in what a walk examines. -/
def inWalk (w : Work) (k : Nat) (l : WayLine) : Bool :=
  match w with
  | .cleanAll | .disable | .leave 4 _ => true
  | .wayLock _ fresh => (tget 0 fresh (keySlice k)).getLsbD (keyWay k)
  | .retire t n w => keySlice k == 16 * t + n && keyWay k == w
  | .clean base n | .inval base n _ | .clinv base n => decide (base ≤ keyLine k l ∧ keyLine k l < base + n)
  | _ => false

/-- A walk acts on a valid line of its ways: a lock's walk leaves the lines that qualify (R131). -/
def actsOn (w : Work) (l : WayLine) : Bool :=
  match w with
  | .cleanAll | .disable | .leave 4 _ | .clean _ _ => l.dirty
  | .wayLock i _ => !(l.cls == 1 && !l.unch && l.inst.toNat == i)
  | .retire _ _ _ | .inval _ _ _ | .clinv _ _ => true
  | _ => false

/-- A way's tag is stored with flipped bits. -/
def tagWrong (p : Plane) (k : Nat) : Bool := tget 0 p.sramFlips (k * 9 + 8) != 0

/-- What a walk does to a line: 0 clean, 1 invalidate, 2 clean and invalidate; and LOCKED_OK. -/
def walkKind : Work → Nat × Bool
  | .inval _ _ ok => (1, ok)
  | .clinv _ _ | .wayLock _ _ | .retire _ _ _ => (2, true)
  | _ => (0, true)

/-- The tag reads of a walk at a way: a lookup's for a walk of addresses, the way's own for a walk of ways. -/
def walkReads (w : Work) (k : Nat) (p : Plane) : Plane :=
  if walksWays w then readTag (keySlice k) (keySet k) (keyWay k) p else readTags (keySlice k) (keySet k) p

/-- One line of a walk, which holds the line: the way that still has it is acted on. -/
def walkAct (j : Job) (o : LongOp) (p : Plane) : Plane :=
  match p.ways.find? fun x => keyLine x.1 x.2 == j.line && inWalk o.work x.1 x.2 with
  | none => p
  | some x =>
    let q := walkReads o.work x.1 p
    match tfind q.ways x.1 with
    | none => q
    | some l =>
      if actsOn o.work l then
        let k := walkKind o.work
        let r := maintain (some j.id) k.1 k.2 x.1 q
        addCounts o.id r.2 r.1
      else q

/-- A line moves from one way to another: a running walk of ways that has passed only one of the two still examines it once (R139). -/
def noteMove (line from_ dest : Nat) (p : Plane) : Plane :=
  { p with ops := p.ops.map fun o =>
      if o.ended.isSome || !walksWays o.work then o
      else if dest < o.cursor ∧ o.cursor ≤ from_ then { o with extra := o.extra ++ [(dest, line)] }
      else if from_ < o.cursor ∧ o.cursor ≤ dest then { o with seen := o.seen ++ [(dest, line)] }
      else o }

/-! ### Reads of internal operations -/

/-- The line of an internal operation read from DRAM at level 1 (Table 08.3). -/
def internRead (j : Job) (keep : Bool) (p : Plane) : Plane :=
  dmcRead { wr := false, line := j.line, raw := 0, job := some j.id, internal := true, keep := keep, cls := j.cls.toNat }
    (setJob p { j with mem := true })

/-! ### LINE_PIN and prefetch (R133, R137) -/

/-- The line has a target way among the instance's locked ways, and memory to come from. -/
def canFill (j : Job) (i : Nat) (p : Plane) : Bool :=
  p.cache.enabled && !p.cache.wtAll && !chanDown p j.line &&
    (takeLocked (sliceOf j.line) (cSet (lineCl j.line)) i (some j.id) p).isSome

/-- The fetched line put in a locked way of the instance at age 0 (Table 06.2, R127); false where no way is left. -/
def fillLocked (j : Job) (i : Nat) (pin rpf : Bool) (p : Plane) : Plane × Bool :=
  let n := sliceOf j.line
  let set := cSet (lineCl j.line)
  if canFill j i p then
    match takeLocked n set i (some j.id) p, j.fetched with
    | some y, some d =>
      (putWay y.2 n set y.1 { newWay j.line (some i) 1 0 false j.fpoison d with pin := pin, rpf := rpf }, true)
    | _, _ => (p, false)
  else (p, false)

/-- A line of LINE_PIN ends as pinned or unpinned, or as skipped. -/
def pinDone (id : Nat) (j : Job) (ok : Bool) (p : Plane) : Plane :=
  if ok then addCounts id (1, 0, 0) p
  else addCounts id (0, 1, 0) (occur (lineTile j.line) 0x2006 { spa := some (homeSpa p j.line).toNat } p)

/-- LINE_PIN on a line it holds (R133); a line found in a way locked to another instance moves as one in an unlocked way does (log 103). True
where it is done, false where the line is being read. -/
def pinAct (id : Nat) (j : Job) (i : Nat) (unpin : Bool) (p : Plane) : Plane × Bool :=
  let n := sliceOf j.line
  let set := cSet (lineCl j.line)
  let q := if p.cache.enabled then readTags n set p else p
  match lookup q j.line with
  | some x =>
    if unpin then (if x.2.pin then (pinDone id j true (putWay q n set x.1 { x.2 with pin := false }), true) else (q, true))
    else if lockOwner q n x.1 = some i then
      (pinDone id j true (putWay q n set x.1 { x.2 with pin := true, age := 0 }), true)
    else match takeLocked n set i (some j.id) q with
      | none => (pinDone id j false q, true)
      | some y =>
        let r := readData n set x.1 y.2
        let l := (tfind r.ways (wayKey n set x.1)).getD x.2
        (pinDone id j true (noteMove j.line (wayKey n set x.1) (wayKey n set y.1)
          (putWay (dropWay r n set x.1) n set y.1
            { l with pin := true, age := 0, unch := false, inst := BitVec.ofNat 7 i })), true)
  | none =>
    if unpin then (q, true)
    else if canFill j i q then (internRead j false q, false)
    else (pinDone id j false q, true)

/-- A skipped prefetch counted (R137). -/
def prefetchSkip (j : Job) (p : Plane) : Plane :=
  occur (lineTile j.line) 0x2006 { spa := some (homeSpa p j.line).toNat } p

/-- A prefetch on a line it holds (R137). -/
def prefetchAct (j : Job) (p : Plane) : Plane × Bool :=
  let n := sliceOf j.line
  let set := cSet (lineCl j.line)
  let q := if p.cache.enabled then readTags n set p else p
  match lookup q j.line with
  | some y => (putWay q n set y.1 { y.2 with age := 0 }, true)
  | none =>
    if inPattern q j.who.inst (homeSpa q j.line) && canFill j j.who.inst q then (internRead j false q, false)
    else (prefetchSkip j q, true)

/-! ### Scrubbing, evacuation and row copies (R208, R229, R231, R234) -/

/-- The home-local line behind a channel's channel-local line: its own, or, in a reserve that holds a chunk of an
evacuated channel, that chunk's (R206). -/
def behind (p : Plane) (ch cl : Nat) : Nat :=
  let t := ch / 16
  let c := ch % 16
  let e := evacOf p t
  let k := if c < e.chan then c else c - 1
  if cl / 2 ^ 23 = 15 ∧ e.state ≠ 0 ∧ c ≠ e.chan ∧ k * 2 ^ 23 + cl % 2 ^ 23 < e.cursor then
    lineAt t e.chan (k * 2 ^ 23 + cl % 2 ^ 23)
  else lineAt t c cl

/-- An internal operation of this kind is under way. -/
def internRuns (p : Plane) (w : Intern) : Bool := p.jobs.any fun j => j.kind == .intern w

/-- The channel takes no part in the DRAM pass (R229). -/
def noGlaze (p : Plane) (ch : Nat) : Bool :=
  (chan p ch).state == .down || (chan p ch).state == .selfRefresh || deepDown p ch

/-- A tile has finished a pass of a kind: its event, with the count of passes (R230, Table 14.3). -/
def passEvent (t : Nat) (kind : BitVec 16) (n : Nat) (p : Plane) : Plane :=
  raise (tileSrc t 51) kind (BitVec.ofNat 32 n) 0 p

/-- The tile's DRAM pass ends once every channel that takes part has read all its lines. -/
def dramPassEnd (t : Nat) (p : Plane) : Plane :=
  let chs := (List.range 16).map fun c => 16 * t + c
  if (chs.all fun c => noGlaze p c || decide (2 ^ 27 ≤ (chan p c).glaze) && !internRuns p (.glaze c)) &&
      chs.any fun c => decide (0 < (chan p c).glaze) then
    let n := tget 0 p.dramPasses t + 1
    passEvent t 1 n (chs.foldl (fun q c => setChan q c { chan q c with glaze := 0 })
      { p with dramPasses := tput 0 p.dramPasses t n })
  else p

/-- Channel-local lines that an evacuation copies. -/
def liveLines : Nat := 15 * 2 ^ 23

/-- The line that an evacuation copies next. -/
def evacLine (p : Plane) (ch : Nat) : Nat := lineAt (ch / 16) (ch % 16) (evacOf p (ch / 16)).cursor

/-- The channel is EVACUATING, and the job holds its next line. -/
def evacHere (p : Plane) (ch : Nat) (j : Job) : Bool :=
  (evacOf p (ch / 16)).state == 1 && (evacOf p (ch / 16)).chan == ch % 16 && j.line == evacLine p ch

/-- The new place of the line that an evacuation copies. -/
def evacPlace (p : Plane) (ch line : Nat) : Nat × Nat :=
  let e := evacOf p (ch / 16)
  place (setEvac p (ch / 16) { e with cursor := e.cursor + 1 }) line

/-- The cursor moves on past a copied line; after the last the channel is EVACUATED, which the flash records: its devices are in deep
power-down, with nothing due (R206, R208, R210, R211). -/
def evacNext (ch : Nat) (p : Plane) : Plane :=
  let t := ch / 16
  let e := evacOf p t
  if e.cursor + 1 = liveLines then
    let q := setEvac p t { e with cursor := e.cursor + 1, state := 2 }
    let c := chan q ch
    dramPassEnd t (setChan { q with flashEvac := q.flashEvac ||| BitVec.ofNat 64 (2 ^ ch) } ch
      { c with due := false, deferred := false, forced := false, sc1Due := false, pd := false, banks := [] })
  else setEvac p t { e with cursor := e.cursor + 1 }

/-- The channel's first row copy, with the channel-local line it copies next. -/
def rowHere (p : Plane) (ch : Nat) : Option (RowCopy × Nat) :=
  (p.rowCopies.find? fun x => x.ch == ch).map fun x => (x, clAt x.bank x.row x.cursor)

/-- A row copy's cursor moves on; after the last line the remap is recorded, with the event (R234). -/
def rowNext (ch : Nat) (x : RowCopy) (p : Plane) : Plane :=
  let rest := p.rowCopies.filter fun y => !(y.ch == ch && y.bank == x.bank && y.row == x.row)
  if x.cursor + 1 < 64 then { p with rowCopies := { x with cursor := x.cursor + 1 } :: rest }
  else
    let k := remapKey ch x.bank x.row
    let q := { p with rowCopies := rest, remaps := tput 0 p.remaps k (x.spare + 1),
                      flashRows := tput 0 p.flashRows k (x.spare + 1) }
    let q := raise (tileSrc (ch / 16) (34 + ch % 16)) 3 (bankRow x.bank x.row) 0 q
    { q with ops := q.ops.map fun (o : LongOp) =>
        if o.work == .pageRetire ch x.bank x.row && o.ended.isNone then { o with ended := some 0 } else o }

/-! ### The common steps -/

/-- An internal operation starts on its line. True where it is done; otherwise it waits for its read, or, as a command's, for the
command. -/
def internAct (j : Job) (w : Intern) (p : Plane) : Plane × Bool :=
  match w with
  | .walk id =>
    match op? p id with
    | none => (p, true)
    | some o =>
      if o.ended.isSome then (p, true)
      else match o.work with
        | .pin i _ _ unpin => pinAct id j i unpin p
        | _ => (walkAct j o p, true)
  | .prefetch _ => prefetchAct j p
  | .glaze _ => if chanDown p j.line then (p, true) else (internRead j false p, false)
  | .range _ =>
    let q := lookupRead j.line p
    if chanDown q j.line then (q, true) else (internRead j false q, false)
  | .evac ch => if evacHere p ch j then (internRead j true p, false) else (p, true)
  | .rowCopy ch =>
    match rowHere p ch with
    | none => (p, true)
    | some x =>
      (offer ch { wr := false, line := j.line, raw := rawOf p ch x.2, job := some j.id, internal := true, keep := true }
        (setJob p { j with mem := true }), false)
  | .command => (p, false)

/-- What an internal operation does with the line it has read. -/
def internData (j : Job) (w : Intern) (p : Plane) : Plane :=
  let copy : Access := { wr := true, line := j.line, raw := 0, data := j.fetched.getD 0, poison := j.fpoison }
  match w with
  | .walk id =>
    match op? p id with
    | none => p
    | some o => match o.work with
      | .pin i _ _ _ => let r := fillLocked j i true false p; pinDone id j r.2 r.1
      | _ => p
  | .prefetch _ =>
    let r := if inPattern p j.who.inst (homeSpa p j.line) then fillLocked j j.who.inst false true p else (p, false)
    if r.2 then occur (lineTile j.line) 0x2005 { spa := some (homeSpa p j.line).toNat } r.1 else prefetchSkip j r.1
  | .range id => addCounts id (if j.found = 1 then (1, 0, 0) else if j.found = 2 then (0, 1, 0) else (0, 0, 0)) p
  | .evac ch =>
    if evacHere p ch j then
      let d := evacPlace p ch j.line
      offerFor (some j.id) d.1 { copy with raw := d.2 } p
    else p
  | .rowCopy ch =>
    match rowHere p ch with
    | none => p
    | some x => offerFor (some j.id) ch { copy with raw := spareRaw x.1.bank x.1.spare x.1.cursor } p
  | .glaze _ | .command => p

/-- The finish point of an internal operation, its line already released: the cursor of a copy moves on, a pass may end, a walk has one
line less in hand. -/
def internEnd (j : Job) (w : Intern) (p : Plane) : Plane :=
  match w with
  | .walk id | .range id =>
    { p with ops := p.ops.map fun o => if o.id == id then { o with inHand := o.inHand - 1 } else o }
  | .glaze ch => dramPassEnd (ch / 16) p
  | .evac ch => if j.fetched.isSome && evacHere p ch j then evacNext ch p else p
  | .rowCopy ch =>
    match j.fetched, rowHere p ch with
    | some _, some x => rowNext ch x.1 p
    | _, _ => p
  | .prefetch _ | .command => p

end Sys2Proof.Machine
end

