-- ==== Sys2Proof/Machine/Home.lean ====
section
/-! DEFINITION. The home of a line: directory, conflict queues, snoops and broadcasts, claims and back-invalidation,
grants, the siding and its chains, reservations, and the finish of a transaction (chapters 04, 05 and 07). -/
namespace Sys2Proof.Machine
open Sys2Proof

/-! ### The directory (R83, R86) -/

/-- Directory set of a line: c[3:0] over cl[18:6] xor cl[31:19] (R83). -/
def dSet (line : Nat) : Nat := lineChan line * 8192 + ((lineCl line % 8192) ^^^ (lineCl line / 8192 % 8192))
/-- Directory tag of a line: cl[32:19]. -/
def dTag (line : Nat) : BitVec 14 := BitVec.ofNat 14 (lineCl line / 8192)
/-- The key of a directory way. -/
def dKey (t set w : Nat) : Nat := (t * 131072 + set) * 16 + w
/-- The home-local line of an entry. -/
def dLine (t set : Nat) (e : DirEntry) : Nat :=
  lineAt t (set / 8192) (e.tag.toNat * 8192 + ((set % 8192) ^^^ (e.tag.toNat % 8192)))

/-- The entries of a set, by way. -/
def dirSet (p : Plane) (t set : Nat) : List (Nat × DirEntry) :=
  (p.dir.filter fun x => x.1 / 16 == t * 131072 + set).map fun x => (x.1 % 16, x.2)

/-- The entry that records a line, with its way. -/
def dirFind (p : Plane) (line : Nat) : Option (Nat × DirEntry) :=
  (dirSet p (lineTile line) (dSet line)).find? fun x => x.2.tag == dTag line

def dirPut (p : Plane) (line w : Nat) (e : DirEntry) : Plane :=
  { p with dir := tset p.dir (dKey (lineTile line) (dSet line) w) e }
/-- The line becomes UNOWNED: its entry is freed (R86). -/
def dirFree (p : Plane) (line : Nat) : Plane :=
  match dirFind p line with
  | none => p
  | some x =>
    let k := dKey (lineTile line) (dSet line) x.1
    { p with dir := tdel p.dir k, dirFlips := tdel (tdel p.dirFlips (2 * k)) (2 * k + 1) }

/-- The group of an agent: node[13:8] (R86). -/
def groupOf (a : Nat) : Nat := a / 65536 % 64
/-- The group bits of a list of agents. -/
def groupBits (as : List Nat) : BitVec 64 := as.foldl (fun g a => g ||| BitVec.ofNat 64 (2 ^ groupOf a)) 0

/-- A requester added to a SHARED entry; a fifth pointer makes it coarse (R86). What is recorded already stays as it is, its DAGE with
it (R88, Table 05.1, log 92). -/
def addSharer (e : DirEntry) (a : Nat) : DirEntry :=
  if e.coarse then (if e.groups.getLsbD (groupOf a) then e else { e with groups := e.groups ||| groupBits [a], dage := 0 })
  else if e.ptrs.contains a then e
  else if e.ptrs.length < 4 then { e with ptrs := e.ptrs ++ [a], dage := 0 }
  else { e with coarse := true, ptrs := [], groups := groupBits (e.ptrs ++ [a]), dage := 0 }

/-- A new entry for a line. -/
def newDir (line : Nat) (owned : Bool) (ptrs : List Nat) (cls : BitVec 2) : DirEntry :=
  { owned := owned, cls := cls, tag := dTag line, ptrs := ptrs }

/-! ### Messages between modules -/

/-- A message for another node, put among those waiting to leave (R254). -/
def toNode (r : Route) (cls : BitVec 3) (op : BitVec 5) (b : Body) (p : Plane) : Plane :=
  { p with dw := { p.dw with out := p.dw.out ++ [{ route := r, cls := cls, op := op, body := b }] } }

/-- A route slot with everything zero but the fields every message carries (R243, R245). -/
def baseRoute (p : Plane) (dst : Nat) (xtag : BitVec 16) (pt : Nat) : Route :=
  { dst := BitVec.ofNat 14 dst, src := BitVec.ofNat 14 p.dw.node, xtag := xtag, epoch := BitVec.ofNat 16 p.dw.curEp,
    mcast := false, vcb := false, alt := false, panic := false, hops := 0, port := BitVec.ofNat 5 pt, inst := 0, gen := 0,
    priv := false, attach := 0, cls := 0, ack := 0, rt := false, rsn := 0 }

/-- The route of an answer to a requester: XTAG, PORT, INST, GEN and RSN of its request (R245, R246). -/
def answerRoute (p : Plane) (w : Who) : Route :=
  { baseRoute p w.node w.tag w.port with inst := BitVec.ofNat 7 w.inst, gen := w.gen, rsn := BitVec.ofNat 16 w.rsn }

/-- The global ID of the agent a transaction serves. -/
def whoAgent (w : Who) : Nat := agentId w.node w.port w.sub

/-- The request behind a local job, as its transaction entry holds it. -/
def jobReq (p : Plane) (j : Job) : Req :=
  match j.ent with
  | none => {}
  | some n => match entry? p n with
    | none => {}
    | some e => e.req

/-- An RSP.COMP_ERR to a job's requester. -/
def errTo (j : Job) (reason : BitVec 8) (p : Plane) : Plane :=
  if j.noCopy then p
  else if j.who.remote then
    toNode (answerRoute p j.who) 4 9 (mkBody 0 j.who.sub (infoReason reason) (homeSpa p j.line)) p
  else sendErr (jobReq p j) reason p

/-- DAT.DATA or DAT.DATA_POISON GRANT 0b00 to a job's requester (R92, R221). -/
def data0To (j : Job) (line : Line) (poison : Bool) (p : Plane) : Plane :=
  if j.noCopy then p
  else if j.who.remote then
    let d := if poison then Config.freeLine p.draw else line
    toNode (answerRoute p j.who) 3 (if poison then 1 else 0)
      { mkBody 0 j.who.sub 0 (homeSpa p j.line) with data := d, mask := fullMask } (if poison then draw1 p else p)
  else
    let q := sendData0 (jobReq p j) line poison p
    match j.ent with
    | none => q
    | some n => match entry? q n with
      | none => q
      | some e => setEntry q n { e with sent := true }

/-- A grant of S or E to a job's requester (R97). -/
def grantTo (j : Job) (g : BitVec 2) (line : Option Line) (p : Plane) : Plane :=
  if j.who.remote then
    match line with
    | some l => toNode (answerRoute p j.who) 3 0
        { mkBody 0 j.who.sub (infoGrant g) (homeSpa p j.line) with data := l, mask := fullMask } p
    | none => toNode (answerRoute p j.who) 4 8 (mkBody 0 j.who.sub (infoComp g false) (homeSpa p j.line)) p
  else
    let q := sendGrant (jobReq p j) g line (some j.id) none p
    match j.ent with
    | none => q
    | some n => match entry? q n with
      | none => q
      | some e => setEntry q n { e with sent := true }

/-- A notice to the hopper of a store's requester: kind 1 acceptance, 2 visibility or error, 3 failure (R161, R163, R175,
Table 10.2). An atomic's old operand goes as DAT.DATA between modules. -/
def notify (j : Job) (kind : Nat) (reason : BitVec 8) (old : Option (Line × Bool)) (p : Plane) : Plane :=
  if j.who.remote then
    let r := answerRoute p j.who
    let q := match old with
      | none => p
      | some x =>
        let d := if x.2 then Config.freeLine p.draw else x.1
        toNode r 3 (if x.2 then 1 else 0)
          { mkBody 0 j.who.sub 0 (homeSpa p j.line) with data := d, mask := fullMask } (if x.2 then draw1 p else p)
    toNode r 4 (BitVec.ofNat 5 (0x17 + kind)) (mkBody 0 j.who.sub (infoReason reason) (homeSpa p j.line)) q
  else
    { p with notices := p.notices ++
        [{ kind := kind, port := j.who.port, rsn := j.who.rsn, reason := reason, old := old }] }

/-- RSP.WB_ACK for an eviction of a line to its evictor, whose tag is then free (R67, R112). -/
def wbAck (w : Who) (tag : BitVec 16) (line : Nat) (p : Plane) : Plane :=
  if w.remote then toNode { answerRoute p w with xtag := tag } 4 0xB (mkBody 0 w.sub 0 (homeSpa p line)) p
  else toPort w.port (.msg 4 0xB (mkBody tag w.sub 0 0)) (freeTag w.port tag p)

/-! ### Snoops and broadcasts (R97, R101, R261, R262) -/

/-- A node is present in a map. -/
def present (m : BitVec 16384) (n : Nat) : Bool := m.getLsbD n

/-- The port can be snooped: ACTIVE, RETRAINING or CONTAINED. -/
def snoopable (pt : Port) : Bool :=
  pt.state == .active || pt.state == .retraining || pt.state == .contained

/-- One precise snoop sent; an agent that needs none counts as having answered RSP.I (R70, R101, R262). The Bool says
whether an answer is awaited. -/
def snoopAgent (j : Job) (shared : Bool) (a : Nat) (p : Plane) : Plane × Bool :=
  let node := a / 256
  let pt := a / 8 % 32
  let sub := a % 8
  let q := occur (lineTile j.line) 0x1002 (jobOcc p j) p
  if node = p.dw.node then
    if snoopable (port p pt) && (port p pt).caching.getLsbD sub then
      (sendSnoop pt sub shared (homeSpa p j.line) (.snoop j.id) q, true)
    else (p, false)
  else if present p.dw.cur node then
    (toNode (baseRoute p node (BitVec.ofNat 16 (j.ent.getD j.id)) pt) 1 (if shared then 0 else 1)
      (mkBody 0 sub 0 (homeSpa p j.line)) q, true)
  else (p, false)

/-- Precise snoops to a list of agents; the result lists those whose answers are awaited. -/
def snoopAll (j : Job) (shared : Bool) : List Nat → Plane → Plane × List Nat
  | [], p => (p, [])
  | a :: t, p =>
    let x := snoopAgent j shared a p
    let y := snoopAll j shared t x.1
    (y.1, if x.2 then a :: y.2 else y.2)

/-- Nodes of the marked groups that a map holds (R101). -/
def nodesOf (groups : BitVec 64) (m : BitVec 16384) : List Nat :=
  ((List.range 64).filter fun g => groups.getLsbD g).flatMap fun g =>
    ((List.range 256).map fun k => 256 * g + k).filter (present m)

/-- Every caching sub-agent of every port that can be snooped (R101). -/
def cachingSubs (p : Plane) : List (Nat × Nat) :=
  (p.ports.filter fun x => snoopable x.2).flatMap fun x =>
    ((List.range 8).filter fun s => x.2.caching.getLsbD s).map fun s => (x.1, s)

/-- A coarse snoop delivered on this node, its answers to be gathered (R101, R261). -/
def deliverCoarse (job : Option Nat) (route : Option Route) (shared : Bool) (spa : Spa) (p : Plane) : Plane :=
  let subs := cachingSubs p
  let g : Gather := { id := p.nextGather, job := job, route := route, spa := spa, shared := shared, wait := subs }
  subs.foldl (fun q x => sendSnoop x.1 x.2 shared spa (.gather g.id) q)
    { p with gathers := p.gathers ++ [g], nextGather := p.nextGather + 1 }

/-- The multicast entry of an origin and link (R260). -/
def mcastKey (origin link : Nat) : Nat := origin * 16 + link

/-- Copies of a coarse snoop on each link whose REACH meets GROUPS (R261). -/
def copiesOut (r : Route) (groups : BitVec 64) (op : BitVec 5) (b : Body) (p : Plane) : Plane :=
  let origin := r.src.toNat
  let js := (List.range 16).filter fun l =>
    (tget 0 p.dw.mcast (mcastKey origin l)).extractLsb' 0 64 &&& groups != 0
  { p with dw := { p.dw with out := p.dw.out ++ js.map fun l =>
      { route := { r with mcast := true, dst := BitVec.ofNat 14 (link p l).peerNode }, groups := groups, cls := 1, op := op,
        body := b, link := some l } } }

/-- A job's broadcast sent: to every present node of the marked groups, this one included (R101, R261). -/
def broadcast (j : Job) (p : Plane) : Plane :=
  let groups := match j.was with
    | none => 0
    | some e => e.groups
  let nodes := nodesOf groups p.dw.cur
  let op : BitVec 5 := if j.shared then 0 else 1
  let spa := homeSpa p j.line
  let q := occur (lineTile j.line) 0x1003 (jobOcc p j)
    (setJob p { j with token := false, nodes := nodes, tSnoop := max 1 p.clock })
  let q := copiesOut (baseRoute q q.dw.node (BitVec.ofNat 16 (j.ent.getD j.id)) 0) groups op (mkBody 0 0 0 spa) q
  if nodes.contains p.dw.node then deliverCoarse (some j.id) none j.shared spa q else q

/-- A broadcast asks for a token: taken at once while the bucket holds one, else waited for (R102). -/
def askToken (j : Job) (p : Plane) : Plane :=
  let t := lineTile j.line
  let h := htile p t
  if 0 < h.tokens then broadcast j (setTile p t { h with tokens := h.tokens - 1 })
  else setTile (setJob p { j with token := true }) t { h with tokq := h.tokq ++ [j.id] }

/-! ### Reservations (R173 to R176) -/

/-- An agent's reservation of a line stands: same generation and attach number (R174). -/
def rsvStands (p : Plane) (line : Nat) (w : Who) : Bool :=
  p.rsvs.any fun r => r.live && r.agent == whoAgent w && r.line == line && r.gen == w.gen && r.attach == w.attach

/-- Other agents' reservations of a line are lost (R174). -/
def rsvLose (line a : Nat) (p : Plane) : Plane :=
  { p with rsvs := p.rsvs.filter fun r => !(r.line == line && r.agent != a) }

/-- An agent's reservation of a line is removed, its hold with it. -/
def rsvDrop (line a : Nat) (p : Plane) : Plane :=
  { p with rsvs := p.rsvs.filter fun r => !(r.line == line && r.agent == a) }

/-- The reservations that stand (R173). -/
def rsvLive (l : List Rsv) : List Rsv := l.filter fun r => r.live

/-- An agent's reservations give way to its new one on a line: a hold on another line goes on without its reservation (R173, R176). -/
def rsvYield (line a : Nat) (l : List Rsv) : List Rsv :=
  (l.filter fun r => !(r.agent == a && (r.line == line || !r.hold))).map fun r =>
    if r.agent == a then { r with live := false } else r

/-- A reservation made, replacing the agent's earlier one and, in a full table, the oldest not under a hold (R173). -/
def rsvMake (line : Nat) (w : Who) (p : Plane) : Plane :=
  let l := rsvYield line (whoAgent w) p.rsvs
  let l := if (rsvLive l).length < 4096 then l else
    match l.findIdx? fun r => r.live && !r.hold with
    | none => l
    | some i => l.eraseIdx i
  { p with rsvs := l ++ [{ agent := whoAgent w, line := line, gen := w.gen, attach := w.attach }] }

/-- A REQ.LD_RSV finds a free or evictable entry, those set aside for the REQ.LD_RSVs already running left out (R173). -/
def rsvRoom (p : Plane) : Bool :=
  decide (((rsvLive p.rsvs).filter fun r => r.hold).length +
    (p.jobs.filter fun j => j.kind == .req .ldRsv && j.phase == .running).length < 4096)

/-- The line is under another agent's hold (R176). -/
def heldByOther (p : Plane) (line a : Nat) : Bool := p.rsvs.any fun r => r.line == line && r.hold && r.agent != a

/-- A request would end a reservation, or is an LD_RSV, and so waits under another agent's hold (R176). -/
def holdBlocks (p : Plane) (j : Job) : Bool :=
  match j.kind with
  | .req op =>
    heldByOther p j.line (whoAgent j.who) &&
      (match op with
        | .rdOnce | .ioRd | .ioWr | .fence => false
        | .rdShared => (match dirFind p j.line with
          | some x => x.2.owned
          | none => true)
        | .stCond => rsvStands p j.line j.who
        | _ => true)
  | _ => false

/-! ### Claims and victims (R88, R89, R107) -/

/-- Ways of a set that jobs have claimed. -/
def claimed (p : Plane) (t set : Nat) : List Nat :=
  p.jobs.filterMap fun j =>
    if lineTile j.line = t ∧ dSet j.line = set then
      match j.claim with
      | .way w => some w
      | _ => none
    else none

/-- A free way of a set. -/
def freeWay (p : Plane) (t set : Nat) : Option Nat :=
  let es := dirSet p t set
  let cs := claimed p t set
  (List.range 16).find? fun w => !(es.any fun x => x.1 == w) && !cs.contains w

/-- The victim of a full set: highest DAGE among entries whose line is not busy, lowest way on a tie (R88). -/
def victim (p : Plane) (t set : Nat) : Option (Nat × DirEntry) :=
  (dirSet p t set).foldl (fun best x =>
    if busy p (dLine t set x.2) then best
    else match best with
      | none => some x
      | some y => if y.2.dage < x.2.dage then some x else some y) none

/-- The other entries of the set that are not busy one older (R88). -/
def ageDir (t set w : Nat) (p : Plane) : Plane :=
  { p with dir := p.dir.map fun x =>
      if x.1 / 16 == t * 131072 + set && x.1 % 16 != w && !busy p (dLine t set x.2)
      then (x.1, { x.2 with dage := min 3 (x.2.dage + 1) }) else x }

/-- The back-invalidation of an entry's line starts: the line busy, SNP.INV to its holders (R89). -/
def startBinv (line : Nat) (e : DirEntry) (forJob : Option Nat) (p : Plane) : Plane :=
  let j : Job := { id := p.nextJob, kind := .binv forJob, line := line, phase := .running, cls := e.cls, was := some e,
                   t0 := p.clock, tSnoop := p.clock,
                   ent := forJob.bind fun i => (job? p i).bind fun x => x.ent }
  let q := occur (lineTile line) 0x1005 { spa := some (homeSpa p line).toNat }
    { p with jobs := p.jobs ++ [j], nextJob := p.nextJob + 1 }
  if e.coarse then askToken j q
  else
    let x := snoopAll j false e.ptrs q
    setJob x.1 { j with snoops := x.2 }

/-- An older request waits in the queue of the job's directory set (R95). -/
def setBehind (j : Job) (p : Plane) : Bool :=
  p.jobs.any fun x => x.phase == .setq && x.id != j.id && lineTile x.line == lineTile j.line && dSet x.line == dSet j.line &&
    (j.setSeq == 0 || decide (x.setSeq < j.setSeq))

/-- A claim for a job: a free way, or a victim's back-invalidation, or none while every entry is busy or older requests wait for one
(R88, R95, R107). -/
def claimFor (j : Job) (p : Plane) : Option (Claim × Plane) :=
  let t := lineTile j.line
  let set := dSet j.line
  if setBehind j p then none
  else match freeWay p t set with
  | some w => some (.way w, p)
  | none =>
    match victim p t set with
    | none => none
    | some v => some (.waiting, startBinv (dLine t set v.2) v.2 (some j.id) (ageDir t set v.1 p))

/-! ### Fetching (R97, R113, R224) -/

/-- The home copy read for a job: from the slice, else a DRAM read and H_MEM. -/
def fetch (j : Job) (read : Bool) (p : Plane) : Plane :=
  let n := sliceOf j.line
  let q := lookupRead j.line p
  match lookup q j.line with
  | some x =>
    let q := occur (n / 16) 0x2001 (jobOcc q j) (touch j.line j.cls read q)
    setJob q { j with fetched := some x.2.data, fpoison := x.2.poison, hit := true }
  | none =>
    let q := if q.cache.enabled then occur (n / 16) 0x2002 (jobOcc q j) q else q
    let q := if read then q else occur (n / 16) 0x5004 (jobOcc q j) q
    dmcRead { wr := false, line := j.line, raw := 0, job := some j.id, rt := j.rt,
              port := if j.who.remote then none else some j.who.port, panic := j.panic, rmw := !read,
              party := if j.who.remote then some 128 else some j.who.inst, cls := j.cls.toNat,
              agent := some (whoAgent j.who) } (setJob q { j with mem := true })

/-! ### Finishing -/

/-- An entry that a detachment left without pointers under a running transaction is freed when no transaction runs on its
line any more (R77, R86). -/
def dropEmpty (line : Nat) (p : Plane) : Plane :=
  match dirFind p line with
  | none => p
  | some x =>
    if !x.2.coarse && x.2.ptrs.isEmpty && !(p.jobs.any fun y => y.line == line && y.phase == .running) then dirFree p line
    else p

/-- A job ends: removed, its entry freed; or it waits for its writes to be queued (R91, R189). -/
def finish (id : Nat) (p : Plane) : Plane :=
  match job? p id with
  | none => p
  | some j =>
    if 0 < j.wpend then setJob p { j with done := true }
    else
      let q := dropEmpty j.line (measure (lineTile j.line) 0x0003 (p.clock - j.t0) (jobOcc p j) (dropJob p id))
      match j.kind, j.ent with
      | .intern w, _ => internEnd j w q
      | .req _, some n =>
        if (q.jobs.any fun x => x.ent == some n) || (entry? q n).any (·.remote) then q else dropEntry q n
      | _, _ => q

/-- The job is a store. -/
def jobStore (j : Job) : Bool :=
  match j.kind with
  | .req op => isStore op
  | _ => false

/-- The directory after a transaction that records no new copy: what its snoops left (R85, R97, R114). `tSnoop` is 0 for
a transaction that snooped nobody. A requester that is recorded already and answered with poison stays as it was recorded (log 102). -/
def dirAfter (j : Job) (p : Plane) : Plane :=
  match j.was, dirFind p j.line with
  | some e, some x =>
    if j.tSnoop = 0 then p
    else if e.owned then
      if j.kept.isEmpty then dirFree p j.line
      else dirPut p j.line x.1 { x.2 with owned := false, ptrs := j.kept }
    else if j.shared then p
    else
      let left := if e.coarse || jobStore j then [] else x.2.ptrs.filter fun a => a == whoAgent j.who
      if left.isEmpty then dirFree p j.line else dirPut p j.line x.1 { x.2 with ptrs := left }
  | _, _ => p

/-- The data a transaction has gathered (R113): dirty, else clean, which may serve in place of the fetch and does (log 93), else
fetched. -/
def gathered (j : Job) : Option Line := j.dirty.orElse fun _ => j.clean.orElse fun _ => j.fetched
/-- The gathered data is poisoned (R113, R114): clean data from an agent does not undo the poison of a fetch (log 93). -/
def gPoison (j : Job) : Bool := j.poison || (j.dirty.isNone && j.fpoison)

/-- Data an agent returned, dirty or poisoned, installed as the home copy (R113, R114). -/
def installReturned (j : Job) (p : Plane) : Plane :=
  if j.poison then writeHome j false 0 true p
  else match j.dirty with
    | none => p
    | some d => writeHome j false d false p

/-- A read miss's line allocated (R123, R126). -/
def fillRead (j : Job) (p : Plane) : Plane :=
  if j.hit || j.dirty.isSome || j.poison then p
  else match j.fetched with
    | none => p
    | some d => (allocate j (readAge j.cls) false j.fpoison d p).1

/-- An upgrade answered without data: the requester is recorded in precise SHARED (Table 04.7). -/
def isUpgrade (j : Job) : Bool :=
  j.kind == .req .cleanUnique && (match j.was with
    | some e => !e.owned && !e.coarse && e.ptrs.contains (whoAgent j.who)
    | none => false)

/-- The grant a line request ends with (Table 04.7). -/
def grantOf (j : Job) (op : ReqOp) : BitVec 2 :=
  match op, j.was with
  | .rdShared, some e =>
    if e.owned then (if j.kept.isEmpty then 2 else 1) else 1
  | _, _ => 2

/-- A job records what it has done with its snoops. -/
def markJob (p : Plane) (id : Nat) (f : Job → Job) : Plane :=
  { p with jobs := p.jobs.map fun x => if x.id == id then f x else x }

/-- A read-class transaction all of whose snoops are in goes on: it waits for its fetch and its claim, then answers
(Table 05.1). -/
def advanceRead (j : Job) (op : ReqOp) (p : Plane) : Plane :=
  if j.granted.isSome || j.mem || j.claim == .waiting then p
  else
    let q := fillRead j (installReturned j p)
    let data := (gathered j).getD 0
    if j.noCopy then finish j.id (dirAfter j q)
    else if gPoison j && !isUpgrade j then finish j.id (dirAfter j (data0To j 0 true q))
    else
      match op with
      | .rdOnce => finish j.id (dirAfter j (data0To j data false q))
      | .ldRsv => finish j.id (dirAfter j (rsvMake j.line j.who (data0To j data false q)))
      | _ =>
        let g := if isUpgrade j then 2 else grantOf j op
        let q := if g = 2 then rsvLose j.line (whoAgent j.who) q else q
        grantTo j g (if isUpgrade j then none else some data) (markJob q j.id fun x => { x with granted := some g })

/-- RSP.COMP_ACK: the directory written as the grant gives, and the transaction finished (R86, Table 05.2). -/
def ackJob (j : Job) (p : Plane) : Plane :=
  match j.granted with
  | none => p
  | some g =>
    let a := whoAgent j.who
    let cur := dirFind p j.line
    let q :=
      if g = 2 then
        match cur, j.claim with
        | some x, _ => dirPut p j.line x.1 (newDir j.line true [a] j.cls)
        | none, .way w => dirPut p j.line w (newDir j.line true [a] j.cls)
        | none, _ => p
      else
        match cur with
        | none => p
        | some x =>
          if x.2.owned then dirPut p j.line x.1 (newDir j.line false (j.kept ++ [a]) j.cls)
          else dirPut p j.line x.1 { addSharer x.2 a with cls := j.cls }
    finish j.id q

/-! ### Stores at the home (R161 to R165, R175, R179) -/

/-- The early release held for a store of a node, port and RSN, taken out of its tile's buffer (R165). -/
def takeHeldRel (w : Who) (p : Plane) : Plane × Option HeldRel :=
  match p.relBuf.find? fun r => r.node == w.node && r.port == w.port && r.rsn == w.rsn with
  | none => (p, none)
  | some r => ({ p with relBuf := p.relBuf.filter fun x =>
      !(x.node == w.node && x.port == w.port && x.rsn == w.rsn) }, some r)

/-- A store is accepted into the siding: its hopper is told, and a release held for it is applied (R161, R165). -/
def acceptStore (j : Job) (phase : Phase) (p : Plane) : Plane :=
  let x := takeHeldRel j.who p
  notify j 1 0 none (markJob x.1 j.id fun y =>
    { y with accepted := true, phase := phase, release := y.release.orElse fun _ => x.2.map (·.withdraw),
             panic := match x.2 with
               | some r => if y.who.remote then r.panic else y.panic
               | none => y.panic })

/-- A store of another module that ends in a failure or a refusal is remembered, until a withdrawal that crossed the report comes or its
RSN is used again (R179, log 96). -/
def noteEnded (j : Job) (p : Plane) : Plane :=
  if j.who.remote then { p with ended := (j.who.node, j.who.port, j.who.rsn) :: p.ended } else p

/-- A REQ.ST_COND decided (R175): success removes the reservation; failure is reported and the job ends. -/
def failCond (j : Job) (p : Plane) : Plane :=
  finish j.id (noteEnded j (notify j 3 0 none (occur (portTile j.who.port) 0x3004 (jobOcc p j) p)))

/-- A queued store taken into the siding chain (R164): other agents' reservations are lost, a REQ.ST_COND is decided. -/
def chainStore (j : Job) (p : Plane) : Plane :=
  match j.kind with
  | .req .stCond =>
    if rsvStands p j.line j.who then
      acceptStore { j with scOk := true } .chained
        (markJob (rsvDrop j.line (whoAgent j.who) (rsvLose j.line (whoAgent j.who) p)) j.id fun y => { y with scOk := true })
    else failCond j (rsvDrop j.line (whoAgent j.who) p)
  | .req _ => acceptStore j .chained (rsvLose j.line (whoAgent j.who) p)
  | _ => p

/-- The chain forms: every store in the line's conflict queue joins it in order, but for another agent's under a hold (R164, R176). -/
def formChain (line : Nat) (p : Plane) : Plane :=
  (p.jobs.filter fun j => j.line == line && j.phase == .queued && (match j.kind with
    | .req op => isStore op
    | _ => false)).foldl (fun q j => if heldByOther q line (whoAgent j.who) then q else chainStore j q) p

/-- A store writes the whole line. -/
def isFullWrite (j : Job) (op : ReqOp) : Bool := op == .wrFull || (op == .wrPartial && j.mask == fullMask)

/-- The corrected base of a store that writes no merged line is written back (R224, R227). -/
def repairBase (j : Job) (p : Plane) : Plane :=
  if j.found = 1 ∧ j.dirty.isNone ∧ j.poison = false then
    match j.fetched with
    | none => p
    | some d => jobWrite j false d false p
  else p

/-- A store performed or withdrawn in its release cycle (R163, R179, R222, R104, R105): what the line then holds, for the
next store of the chain, and the plane. -/
def perform (j : Job) (op : ReqOp) (withdraw : Bool) (p : Plane) : Plane × Option (Line × Bool) :=
  let base := gathered j
  let poison := gPoison j
  let stays : Option (Line × Bool) := if poison then some (0, true) else base.map fun l => (l, false)
  if withdraw then (notify j 2 0 none (installReturned j (repairBase j p)), stays)
  else if isAtomic op then
    if poison then (notify j 2 0 (some (0, true)) (installReturned j p), some (0, true))
    else
      let l := base.getD 0
      match atomicNew op l j.data j.off j.size16 with
      | none => (notify j 2 0 (some (l, false)) (installReturned j (repairBase j p)), some (l, false))
      | some v =>
        let l' := putOperand l j.off j.size16 v
        (notify j 2 0 (some (l, false)) (writeHome j true l' false p), some (l', false))
  else if isFullWrite j op then (notify j 2 0 none (writeHome j true j.data false p), some (j.data, false))
  else if poison then
    let q := installReturned j p
    let q := if j.ack = 0 ∧ op ≠ .stCond then
        raise (tileSrc (lineTile j.line) 52) 0 0
          (payOf (homeSpa p j.line).toNat (whoAgent j.who) j.who.inst) q
      else q
    (notify j 2 rPoison none q, some (0, true))
  else
    let l := merge (base.getD 0) j.data j.mask
    (notify j 2 0 none (writeHome j true l false p), some (l, false))

/-- The next store of a line's chain, in order. -/
def nextChained (p : Plane) (line : Nat) : Option Job := p.jobs.find? fun j => j.line == line && j.phase == .chained

/-- A store narrower than a line needs a merge base (R224). -/
def needsBase (j : Job) (op : ReqOp) : Bool := !isFullWrite j op

/-- Stores of a line become visible in chain order, each once it has its release and its merge base (R163, R164). -/
def runChain : Nat → Nat → Plane → Plane
  | 0, _, p => p
  | fuel + 1, id, p =>
    match job? p id with
    | none => p
    | some j =>
      match j.kind, j.release with
      | .req op, some wd =>
        if j.mem || !j.accepted || j.done then p
        else
          let r := perform j op wd p
          let q := dirAfter j r.1
          let q := finish j.id q
          match nextChained q j.line with
          | none => q
          | some k =>
            let q := match r.2 with
              | some b => markJob q k.id fun y => { y with phase := .running, fetched := some b.1, fpoison := b.2, t0 := q.clock }
              | none =>
                let q := markJob q k.id fun y => { y with phase := .running, t0 := q.clock }
                match k.kind with
                | .req o => if needsBase k o then fetch { k with phase := .running } false q else q
                | _ => q
            runChain fuel k.id q
      | _, _ => p

/-- A store all of whose snoops are in goes on: accepted, then visible once released with its merge base in. -/
def advanceStore (j : Job) (p : Plane) : Plane :=
  let q := if j.accepted then p else formChain j.line (acceptStore j .running p)
  runChain (q.jobs.length + 1) j.id q

/-! ### The common step of every transaction -/

/-- No wait of H_TOKEN, H_SNP or H_WB remains. -/
def snoopsDone (j : Job) : Bool := !j.token && j.snoops.isEmpty && j.nodes.isEmpty && j.wb.isEmpty

/-- A request's transaction examined after a change (R96, R116). -/
def advanceReq (id : Nat) (p : Plane) : Plane :=
  match job? p id with
  | none => p
  | some j =>
    if j.phase = .running ∧ j.done = false ∧ snoopsDone j = true then
      match j.kind with
      | .req op => if isStore op then advanceStore j p else advanceRead j op p
      | _ => p
    else p

/-- A back-invalidation with every answer in: the victim's data installed under the entry's class, its entry freed and
given to the waiting transaction (R89). -/
def endBinv (j : Job) (forJob : Option Nat) (p : Plane) : Plane :=
  let w := (dirFind p j.line).map (·.1)
  let q := finish j.id (dirFree (installReturned j p) j.line)
  match forJob, w with
  | some i, some w => advanceReq i (markJob q i fun y => if y.claim == .waiting then { y with claim := .way w } else y)
  | _, _ => q

/-- The end of one line of a recall walk: pointers to other nodes removed (R268). -/
def endRecall (j : Job) (p : Plane) : Plane :=
  let q := installReturned j p
  let q := match dirFind q j.line with
    | none => q
    | some x =>
      let left := if x.2.coarse || x.2.owned && (x.2.ptrs.any fun a => a / 256 != p.dw.node) then []
        else x.2.ptrs.filter fun a => a / 256 == p.dw.node
      if left.isEmpty then dirFree q j.line else dirPut q j.line x.1 { x.2 with ptrs := left }
  finish j.id q

/-- A transaction examined after a change (R96, R116). -/
def advance (id : Nat) (p : Plane) : Plane :=
  match job? p id with
  | none => p
  | some j =>
    if j.phase = .running ∧ j.done = false ∧ snoopsDone j = true then
      match j.kind with
      | .req _ => advanceReq id p
      | .binv f => endBinv j f p
      | .recall _ => endRecall j p
      | .intern w => if j.mem = false ∧ j.fetched.isSome then finish j.id (internData j w p) else p
      | .evict _ => p
    else p

/-- The back-invalidation a job waits for, examined: it may have nobody to wait for. -/
def kickBinv (id : Nat) (p : Plane) : Plane :=
  match p.jobs.find? fun b => b.kind == .binv (some id) with
  | none => p
  | some b => advance b.id p

/-! ### Starting (Table 05.1) -/

/-- One directory word read at a lookup (Table 09.2). Word 1 is bits [127:64]. -/
def readDirWord (line w : Nat) (word : Nat) (p : Plane) : Plane :=
  let t := lineTile line
  let k := dKey t (dSet line) w
  let n := flipCount (tget 0 p.dirFlips (2 * k + word))
  if n = 0 then p
  else
    let q := { p with dirFlips := tdel p.dirFlips (2 * k + word) }
    let q := if 3 ≤ n then draw1 q else q
    if secded p n = 1 then { q with dirCe := tput 0 q.dirCe t (min (2 ^ 32 - 1) (tget 0 q.dirCe t + 1)) }
    else
      let q := { q with dirUe := tput 0 q.dirUe t (min (2 ^ 32 - 1) (tget 0 q.dirUe t + 1)) }
      if word = 1 then
        raise (tileSrc t 50) 3 0 (payWay t 0xFF (dSet line) w) (dirFree q line)
      else
        match dirFind q line with
        | none => q
        | some x =>
          let e := { x.2 with owned := false, coarse := true, ptrs := [], groups := BitVec.allOnes 64 }
          startBinv line e none (dirPut (raise (tileSrc t 50) 4 0 (payOf (homeSpa p line).toNat 0 0) q) line x.1 e)

/-- The directory entry of a line read, both words. -/
def readDir (line : Nat) (p : Plane) : Plane :=
  match dirFind p line with
  | none => p
  | some x =>
    let q := readDirWord line x.1 1 p
    if (dirFind q line).isSome then readDirWord line x.1 0 q else q

/-- A transaction counted as started at its home. -/
def countStart (j : Job) (p : Plane) : Plane :=
  let t := lineTile j.line
  takeSample t (jobOcc p j) (occur t 0x1001 (jobOcc p j) p)

/-- A line request takes its place in the queue of its directory set (R88, R95). -/
def joinSetq (j : Job) (p : Plane) : Plane :=
  if j.setSeq = 0 then
    occur (lineTile j.line) 0x1004 (jobOcc p j)
      (setJob { p with nextJob := p.nextJob + 1 } { j with phase := .setq, setSeq := p.nextJob })
  else setJob p { j with phase := .setq }

/-- A line request starts (Table 05.1). -/
def startRead (j : Job) (op : ReqOp) (p : Plane) : Plane :=
  let me := whoAgent j.who
  let e := (dirFind p j.line).map (·.2)
  let j := { j with phase := .running, t0 := p.clock, was := e }
  let self : Bool := match e with
    | some x => x.owned && x.ptrs == [me]
    | none => false
  let claims : Bool := match op with
    | .rdOnce | .ldRsv => false
    | _ => e.isNone
  if op = .cleanUnique ∧ self = true then
    let q := raise (tileSrc (lineTile j.line) 13) 3 0 (payOf (homeSpa p j.line).toNat me 0) p
    finish j.id (setJob q j)
  else
    let c := if claims then claimFor j p else some (.no, p)
    match c with
    | none => joinSetq j p
    | some c =>
      let j := { j with claim := c.1 }
      let q := countStart j c.2
      let targets : List Nat := match e with
        | none => []
        | some x =>
          if self then []
          else if x.owned then x.ptrs
          else match op with
            | .rdUnique | .cleanUnique => if x.coarse then [] else x.ptrs.filter fun a => a != me
            | _ => []
      let bcast : Bool := match e, op with
        | some x, .rdUnique | some x, .cleanUnique => !x.owned && x.coarse
        | _, _ => false
      let shared : Bool := match op with
        | .rdShared | .rdOnce | .ldRsv => true
        | _ => false
      let j := { j with shared := shared, tSnoop := if targets.isEmpty && !bcast then 0 else max 1 p.clock }
      let s := snoopAll j shared targets q
      let j := { j with snoops := s.2 }
      let q := setJob s.1 j
      let q := if isUpgrade j then q else fetch j true q
      let q := if bcast then (match job? q j.id with
        | none => q
        | some j => askToken j q) else q
      advance j.id (kickBinv j.id q)

/-- A store, REQ.ST_COND or home atomic starts (Table 05.1). -/
def startStore (j : Job) (op : ReqOp) (p : Plane) : Plane :=
  let me := whoAgent j.who
  let e := (dirFind p j.line).map (·.2)
  let j := { j with phase := .running, t0 := p.clock, was := e }
  if op = .stCond ∧ rsvStands p j.line j.who = false then
    failCond j (countStart j (setJob (rsvDrop j.line me p) j))
  else
    let p := if op = .stCond then rsvDrop j.line me p else p
    let j := { j with scOk := op == .stCond }
    let q := countStart j (setJob (rsvLose j.line me p) j)
    let targets : List Nat := match e with
      | none => []
      | some x => if x.coarse then [] else x.ptrs
    let bcast : Bool := match e with
      | none => false
      | some x => x.coarse
    let j := { j with tSnoop := if targets.isEmpty && !bcast then 0 else max 1 p.clock }
    let s := snoopAll j false targets q
    let j := { j with snoops := s.2 }
    let q := setJob s.1 j
    let q := if needsBase j op then fetch j false q else q
    let q := if bcast then (match job? q j.id with
      | none => q
      | some j => askToken j q) else q
    advance j.id q

/-- An eviction at an idle home: an ordinary write-back from the recorded owner, else stray (R98, Table 05.1). -/
def startEvict (j : Job) (poison : Bool) (p : Plane) : Plane :=
  let a := whoAgent j.who
  let own := match dirFind p j.line with
    | none => none
    | some x => if x.2.owned && x.2.ptrs == [a] then some x.2 else none
  match own with
  | some e =>
    let j := { j with phase := .running, cls := e.cls, t0 := p.clock }
    let q := countStart j (setJob p j)
    let q := writeHome j false (if poison then 0 else j.data) poison q
    finish j.id (wbAck j.who j.who.tag j.line (dirFree q j.line))
  | none =>
    let q := raise (tileSrc (lineTile j.line) 12) 0 0 (payOf (homeSpa p j.line).toNat a 0) p
    wbAck j.who j.who.tag j.line (dropJob q j.id)

/-- An entry of the directory that names an agent on another node, or may (R268). -/
def foreign (p : Plane) (e : DirEntry) : Bool := e.coarse || e.ptrs.any fun a => a / 256 != p.dw.node

/-- The recall of one line: every pointer to another node snooped with SNP.INV, a coarse entry broadcast (R268). -/
def startRecall (j : Job) (p : Plane) : Plane :=
  match dirFind p j.line with
  | none => finish j.id p
  | some x =>
    if foreign p x.2 then
      let j := { j with phase := .running, cls := x.2.cls, was := some x.2, t0 := p.clock, tSnoop := max 1 p.clock }
      let q := setJob p j
      if x.2.coarse then advance j.id (askToken j q)
      else
        let y := snoopAll j false (x.2.ptrs.filter fun a => a / 256 != p.dw.node) q
        advance j.id (setJob y.1 { j with snoops := y.2 })
    else finish j.id p

/-- An internal operation starts: its line is busy until its finish point (Table 04.5). -/
def startIntern (j : Job) (w : Intern) (p : Plane) : Plane :=
  let j := { j with phase := .running, t0 := p.clock }
  let r := internAct j w (setJob p j)
  if r.2 then finish j.id r.1 else r.1

/-- The event that accompanies a reason or status INTERNAL; its fault class is free (Tables 12.6, 14.3). -/
def internalFault (p : Plane) : Plane := raise 8 (BitVec.ofNat 16 (1 + Config.freeNat p.draw % 255)) 0 0 (draw1 p)

/-- The home refuses a request before it starts: RSP.COMP_ERR, or for a store a notice with the reason (R163). -/
def refuse (j : Job) (reason : BitVec 8) (p : Plane) : Plane :=
  let p := if reason = rInternal then internalFault p else p
  match j.kind with
  | .req op =>
    if isStore op then finish j.id (noteEnded j (notify j 2 reason none (setJob p j)))
    else finish j.id (errTo j reason (setJob p j))
  | _ => p

/-- The job may start now: line free, no hold in its way, and room for its reservation (R91, R173, R176). -/
def canStart (j : Job) (p : Plane) : Bool :=
  !busy p j.line && !holdBlocks p j && (j.kind != .req .ldRsv || rsvRoom p)

/-- A job starts. A line whose channel is DOWN and which no slice holds is refused with INTERNAL (R200). -/
def startJob (j : Job) (p : Plane) : Plane :=
  match j.kind with
  | .intern w => startIntern j w p
  | kind =>
    let p := readDir j.line p
    if busy p j.line then p
    else match kind with
      | .evict poison => startEvict j poison p
      | .req op =>
        if chanDown p j.line && (isStore op || (lookup p j.line).isNone) then refuse j rInternal p
        else if isStore op then startStore j op p else startRead j op p
      | .recall _ => startRecall j p
      | .binv _ | .intern _ => p

/-- A source's place in the count upward from P (R94). -/
def fromP (base src : Nat) : Nat := (src + 48 - base) % 48

/-- A job put in a list before the first that it goes ahead of. -/
def insertAhead (ahead : Job → Bool) (j : Job) : List Job → List Job
  | [] => [j]
  | x :: t => if ahead x then j :: x :: t else x :: insertAhead ahead j t

/-- A job joins its line's conflict queue: at the tail, new requests of one cycle in the order of the count from P (R91, R94, R117). -/
def enqueueJob (j : Job) (p : Plane) : Plane :=
  let h := htile p (lineTile j.line)
  let ahead := fun (x : Job) => x.line == j.line && x.phase == .queued && decide (h.first ≤ x.id) &&
    (match j.src, x.src with
      | some s, some s' => decide (fromP h.base s < fromP h.base s')
      | _, _ => false)
  let q := { p with jobs := insertAhead ahead { j with phase := .queued } p.jobs }
  match j.kind with
  | .req _ => occur (lineTile j.line) 0x1004 (jobOcc p j) q
  | _ => q

/-- A siding chain exists on the line: the running store is accepted, and waits for its release or its base (R164). -/
def chainOn (p : Plane) (line : Nat) : Bool :=
  p.jobs.any fun j => j.line == line && j.phase == .running && j.accepted && !j.done && (match j.kind with
    | .req op => isStore op
    | _ => false)

/-- A job reaches its line: taken into a chain, queued behind others, or started. Requests that wait only because of a hold
do not stop a later one that the hold lets pass (R91, R93, R164, R176). -/
def reachLine (j : Job) (p : Plane) : Plane :=
  let q := { p with jobs := p.jobs ++ [{ j with phase := .queued }] }
  let store := match j.kind with
    | .req op => isStore op
    | _ => false
  if store && chainOn p j.line && !heldByOther p j.line (whoAgent j.who) then chainStore j q
  else if (p.jobs.any fun x => x.line == j.line && (x.phase == .queued || x.phase == .setq) && !holdBlocks p x) ||
      !canStart j p then enqueueJob j p
  else startJob j q

/-- The winner of each line with one more new request of the cycle: the source met first in the count from P (R94). -/
def winsWith (base line src : Nat) (ws : List (Nat × Nat)) : List (Nat × Nat) :=
  match ws.find? fun x => x.1 == line with
  | none => ws ++ [(line, src)]
  | some w => if fromP base src < fromP base w.2 then ws.map fun x => if x.1 == line then (line, src) else x else ws

/-- A new request of a source reaches a tile: it shares the cycle of those that came at the same clock, until a source comes a second
time; P is one past the last winner of the cycle, in the count from P as it stood before (R93, R94, log 17). -/
def rotate (src : Nat) (j : Job) (p : Plane) : Plane :=
  let t := lineTile j.line
  let h := htile p t
  let h : HomeTile := if h.cyc = some p.clock ∧ h.srcs.contains src = false then { h with srcs := src :: h.srcs }
    else { h with cyc := some p.clock, first := j.id, base := h.rotP, srcs := [src], wins := [] }
  let ws := winsWith h.base j.line src h.wins
  setTile p t { h with wins := ws, rotP := (h.base + ws.foldl (fun m x => max m (fromP h.base x.2)) 0 + 1) % 48 }

/-- Epoch e is newer than epoch c (R264). -/
def newer (e c : Nat) : Bool := let d := (e + 65536 - c) % 65536; decide (1 ≤ d ∧ d ≤ 32767)

/-- A request arrives at its home (R27, R93, R94, R266, R269). `src` is 0 to 31 for AP0 to AP31, 32 to 47 for JL0 to
JL15. -/
def arrive (src : Nat) (j : Job) (p : Plane) : Plane :=
  let j := { j with id := p.nextJob, src := some src }
  let p := { rotate src j p with nextJob := p.nextJob + 1, ended := p.ended.filter fun x => x != (j.who.node, j.who.port, j.who.rsn) }
  if j.who.remote && newer j.epoch p.dw.curEp then
    let q := { p with jobs := p.jobs ++ [{ j with phase := .epoch }] }
    if p.dw.heldRep then q
    else raise 26 0 (BitVec.ofNat 32 (q.jobs.filter fun x => x.phase == .epoch).length) 0
      { q with dw := { q.dw with heldRep := true } }
  else if j.who.remote && !present p.dw.cur p.dw.node then
    refuse j rNodeAbsent { p with jobs := p.jobs ++ [j] }
  else if reserveEn p && inReserve j.line then refuse j rBadParam { p with jobs := p.jobs ++ [j] }
  else
    let q := match j.kind with
      | .req op => if isReadClass op && !j.who.remote then seeRequest j.line j.who.inst p else p
      | _ => p
    reachLine j q

/-! ### Answers and evictions (R111 to R115) -/

/-- Sunk evictions of an agent acknowledged once its answer is in (R112). -/
def ackSunk (id a : Nat) (p : Plane) : Plane :=
  match job? p id with
  | none => p
  | some j =>
    let mine := j.sunk.filter fun x => whoAgent x.1 == a
    mine.foldl (fun q x => wbAck x.1 x.2 j.line q)
      (setJob p { j with sunk := j.sunk.filter fun x => !(whoAgent x.1 == a) })

/-- An eviction sunk into a busy transaction's buffer: its data serves as the owner's data (R111, R113). -/
def sink (id : Nat) (w : Who) (tag : BitVec 16) (data : Line) (poison : Bool) (p : Plane) : Plane :=
  let a := whoAgent w
  let q := markJob p id fun y =>
    { y with dirty := if poison then none else some data, poison := y.poison || poison,
             wb := y.wb.filter fun x => x != a, sunk := y.sunk ++ [(w, tag)] }
  match job? q id with
  | none => q
  | some j =>
    let owed := j.snoops.contains a || j.nodes.contains w.node
    advance id (if owed then q else ackSunk id a q)

/-- The busy transaction waits for this eviction (R111). -/
def sinkable (j : Job) (a : Nat) : Bool :=
  j.wb.contains a || j.snoops.contains a && (match j.was with
    | some e => e.owned && e.ptrs == [a]
    | none => false) || j.nodes.contains (a / 256)

/-- An EVN.WB_DATA reaches the home (R91, R98, R111). -/
def arriveEvict (line : Nat) (w : Who) (data : Line) (poison : Bool) (p : Plane) : Plane :=
  match p.jobs.find? fun j => j.line == line && j.phase == .running with
  | some j =>
    if sinkable j (whoAgent w) then sink j.id w w.tag data poison p
    else enqueueJob { id := p.nextJob, kind := .evict poison, line := line, who := w, data := data }
      { p with nextJob := p.nextJob + 1 }
  | none => reachLine { id := p.nextJob, kind := .evict poison, line := line, who := w, data := data }
      { p with nextJob := p.nextJob + 1 }

/-- Kinds of answer to a snoop, in the order in which a gathered answer is chosen (R261). -/
inductive Ans where
  | i
  | s
  | wbpend
  | data (dirty keep : Bool) (d : Line)
  | poison
deriving DecidableEq, Repr

/-- An answer counted in a transaction (Table 05.2, R113 to R115). `agent` is the sub-agent that answered. -/
def countAnswer (j : Job) (agent : Nat) (x : Ans) : Job :=
  match x with
  | .i => j
  | .s => if j.shared then { j with kept := j.kept ++ [agent] } else j
  | .wbpend =>
    if j.sunk.any fun y => whoAgent y.1 == agent then j else { j with wb := j.wb ++ [agent] }
  | .data dirty keep d =>
    let j := if dirty then { j with dirty := some d } else { j with clean := some d }
    if keep && j.shared then { j with kept := j.kept ++ [agent] } else j
  | .poison => { j with poison := true }

/-- An answer to a transaction's snoop (Table 05.2): from `node` under a broadcast, from `agent` under precise snoops. -/
def answer (id node agent : Nat) (x : Ans) (p : Plane) : Plane :=
  match job? p id with
  | none => p
  | some j =>
    let q := measure (lineTile j.line) 0x0004 (p.clock - j.tSnoop) (jobOcc p j) p
    let q := if x = .s ∧ j.shared = false then
        raise (tileSrc (lineTile j.line) 13) 0x81 0 (payOf (homeSpa p j.line).toNat agent 0) q
      else q
    let j := countAnswer j agent x
    let j := { j with snoops := j.snoops.filter fun a => a != agent, nodes := j.nodes.filter fun n => n != node }
    advance id (ackSunk id agent (setJob q j))

/-! ### Gathered answers (R101, R261) -/

/-- The rank of an answer among a node's (R261). -/
def ansRank : Ans → Nat
  | .i => 0
  | .s => 1
  | .wbpend => 2
  | .data _ _ _ => 3
  | .poison => 4

/-- The answer a gathering has chosen. -/
def gatherAns (g : Gather) : Ans :=
  match g.rank with
  | 0 => .i
  | 1 => .s
  | 2 => .wbpend
  | 3 => .data (dirtyBit g.info) (keepS g.info) g.data
  | _ => .poison

/-- A sub-agent's answer taken into a gathering: the highest rank, then the lowest port and sub-agent (R261). -/
def intoGather (g : Gather) (pt sub : Nat) (x : Ans) : Gather :=
  let g := { g with wait := g.wait.filter fun y => y != (pt, sub) }
  let better := g.rank < ansRank x ∨ (g.rank = ansRank x ∧ (pt * 8 + sub < g.port * 8 + g.sub ∨ g.fresh))
  if better then
    { g with rank := ansRank x, fresh := false, port := pt, sub := sub,
             info := match x with
               | .data d k _ => (BitVec.ofBool k ++ BitVec.ofBool d : BitVec 2).setWidth 18
               | _ => 0,
             data := match x with
               | .data _ _ l => l
               | _ => 0 }
  else g

/-- MCLASS and OPCODE of an answer. -/
def ansCode : Ans → BitVec 3 × BitVec 5
  | .i => (4, 0)
  | .s => (4, 1)
  | .wbpend => (4, 2)
  | .data _ _ _ => (3, 0)
  | .poison => (3, 1)

/-- A gathering with every answer in: counted at the home here, or sent to the home that asked (R261). -/
def endGather (g : Gather) (p : Plane) : Plane :=
  let p := { p with gathers := p.gathers.filter fun x => !(x.id == g.id) }
  let x := gatherAns g
  match g.job, g.route with
  | some id, _ => answer id p.dw.node (agentId p.dw.node g.port g.sub) x p
  | none, some r =>
    let c := ansCode x
    let d := if x = .poison then Config.freeLine p.draw else g.data
    toNode (baseRoute p r.src.toNat r.xtag g.port) c.1 c.2
      { mkBody 0 g.sub g.info g.spa with data := d, mask := if 3 ≤ g.rank then fullMask else 0 }
      (if x = .poison then draw1 p else p)
  | none, none => p

/-- An eviction in a conflict queue that the line's transaction waits for: the transaction, the eviction and its POISON (R111). -/
def queuedSink (p : Plane) : Option (Job × Job × Bool) :=
  p.jobs.findSome? fun y =>
    match y.kind, y.phase with
    | .evict poison, .queued =>
      (p.jobs.find? fun j => j.line == y.line && j.phase == .running && sinkable j (whoAgent y.who)).map fun j => (j, y, poison)
    | _, _ => none

/-- Every gathering that waits for nobody ends, and every queued eviction that its line's transaction waits for is sunk (R111). -/
def settleN : Nat → Plane → Plane
  | 0, p => p
  | n + 1, p =>
    match p.gathers.find? fun g => g.wait.isEmpty with
    | some g => settleN n (endGather g p)
    | none =>
      match queuedSink p with
      | none => p
      | some x => settleN n (sink x.1.id x.2.1.who x.2.1.who.tag x.2.1.data x.2.2 (dropJob p x.2.1.id))

/-- Everything that can end at once has ended. -/
def settle (p : Plane) : Plane := settleN (p.gathers.length + p.jobs.length + 2) p

/-! ### Queue heads (R95) -/

/-- The head of a line's conflict queue, or of its set's queue: the oldest job that no other agent's hold makes wait (R176). -/
def queueHead (p : Plane) (line : Nat) : Option Job :=
  p.jobs.find? fun j => j.line == line && (j.phase == .queued || j.phase == .setq) && !holdBlocks p j

/-- The head of a line's queue starts once the line is free (R95). -/
def startHead (line : Nat) (p : Plane) : Plane :=
  match queueHead p line with
  | none => p
  | some j => if canStart j p then startJob j p else p

/-! ### Releases (R163, R165) -/

/-- A release or withdrawal reaches its home: applied to the store's transaction, kept in it until acceptance, or held in
the tile's buffer while the store has not arrived (R165). A store of this module has always arrived; a withdrawal of one that has ended
in a failure or a refusal does nothing (R179, log 96). A store of another module carries the PANIC bit of its release
(R196). Node, port and RSN name the store (R246); `line` gives the tile. -/
def applyRelease (node pt rsn line : Nat) (withdraw panic : Bool) (p : Plane) : Plane :=
  match p.jobs.find? fun j => j.who.node == node && j.who.port == pt && j.who.rsn == rsn &&
      (match j.kind with
        | .req op => isStore op
        | _ => false) with
  | some j => advance j.id (markJob p j.id fun y =>
      { y with release := some withdraw, panic := if y.who.remote then panic else y.panic })
  | none =>
    if node = p.dw.node then p
    else if withdraw ∧ p.ended.contains (node, pt, rsn) then { p with ended := p.ended.filter fun x => x != (node, pt, rsn) }
    else { p with relBuf := p.relBuf ++ [{ tile := lineTile line, node := node, port := pt, rsn := rsn, withdraw := withdraw, panic := panic }] }

end Sys2Proof.Machine
end

