-- ==== Sys2Proof/Machine/Ism.lean ====
section
/-! DEFINITION. The ISM: the checks of R40 in their order, translation, the counter page, entitlements, and which waiting
request takes the next transaction entry (chapters 02 and 11, R346). -/
namespace Sys2Proof.Machine
open Sys2Proof

/-! ### Windows and regions (R37, R39, R29, R36) -/

/-- The IRA of a request's ADDR field. -/
def iraOf (a : Spa) : Ira := a.extractLsb' 0 48
/-- IRA[47:12]. -/
def pageOf (a : Ira) : BitVec 36 := a.extractLsb' 12 36
/-- The counter page (R346). -/
def isCounterPage (a : Ira) : Bool := pageOf a == BitVec.allOnes 36

/-- The valid window of an instance that covers an IRA. -/
def windowAt (p : Plane) (i : Nat) (a : Ira) : Option Window :=
  (p.windows.find? fun x => x.1 / 64 == i && x.2.valid && decide (x.2.base ≤ pageOf a) &&
    decide (pageOf a ≤ x.2.limit)).map (·.2)

/-- SPA[52:12] is IRA[47:12] + OFFSET modulo 2⁴¹ (Table 02.4). -/
def translate (w : Window) (a : Ira) : Spa := ((pageOf a).setWidth 41 + w.offset) ++ a.extractLsb' 0 12

/-- Table 02.5 with PRIV_ONLY (R39). -/
def permitted (w : Window) (op : ReqOp) (priv : Bool) : Bool :=
  (!w.privOnly || priv) && (match op with
    | .rdShared | .rdOnce | .ldRsv | .ioRd => w.read
    | .rdUnique | .cleanUnique => w.read && w.write
    | .wrFull | .wrPartial | .stCond | .ioWr => w.write
    | .atAdd | .atSwap | .atCas => w.read && w.write && w.atomic
    | .fence => true)

/-- REQ.IO_RD and REQ.IO_WR. -/
def isIo : ReqOp → Bool
  | .ioRd | .ioWr => true
  | _ => false

/-! ### Routes (R22, R253 to R255) -/

/-- The routing entry of a destination node. -/
def routeOf (p : Plane) (n : Nat) : Reg := tget 0 p.dw.routes n

/-- The node is this one, or has a valid routing entry and is in the current map (R22, R255). -/
def reachable (p : Plane) (n : Nat) : Bool :=
  n == p.dw.node || (rtValid (routeOf p n) && present p.dw.cur n)

/-- The link chosen for a node at admission: PRIMARY, or ALTERNATE where PRIMARY is not ACTIVE and it may be used
(R254). -/
def linkFor (p : Plane) (n : Nat) : Nat :=
  let r := routeOf p n
  if (link p (rtPrim r)).state ≠ .active ∧ rtAltEn r = true ∧ (link p (rtAlt r)).state = .active then rtAlt r else rtPrim r

/-! ### The checks (R40) -/

/-- SIZE16 of an atomic (Table 03.7). -/
def size16Of (info : BitVec 18) : Bool := info.getLsbD 0
/-- SIZE of a REQ.IO_RD (Table 03.7). -/
def ioSize (info : BitVec 18) : Nat := (info.extractLsb' 0 3).toNat
/-- Bytes of an atomic's operand. -/
def operandBytes (info : BitVec 18) : Nat := if size16Of info then 16 else 8

/-- The form check of R40. -/
def formOk (p : Plane) (i : Nat) (op : ReqOp) (b : Body) : Bool :=
  match op with
  | .stCond | .ioWr => !crosses b.addr b.mask
  | .atAdd | .atSwap | .atCas => b.addr.toNat % operandBytes b.info == 0
  | .rdShared | .rdUnique | .cleanUnique => (port p i).caching.getLsbD b.sub.toNat
  | .ioRd => ioSize b.info != 7 && b.addr.toNat % 2 ^ ioSize b.info == 0
  | _ => true

/-- The pieces of a request: the IRA of each with its mask and data in that line, lower line first (R60, R61, R170). A
REQ.IO_WR keeps its mask and data as they are sent on. A write whose masked bytes all lie in the line after ADDR's is one piece of that
line, checked and sent on with that line's address (R170; DESIGN CHOICE, log 94). -/
def piecesOf (op : ReqOp) (b : Body) : List (Ira × Mask × Line) :=
  let a := iraOf b.addr
  let next : Ira := (a.extractLsb' 6 42 + 1) ++ (0 : BitVec 6)
  match op with
  | .wrPartial | .stCond =>
    let lo := lowPiece b.addr b.mask b.data
    let hi := highPiece b.addr b.mask b.data
    (if lo.1 != 0 || hi.1 == 0 then [(a, lo.1, lo.2)] else []) ++ (if hi.1 != 0 then [(next, hi.1, hi.2)] else [])
  | .ioWr =>
    if (lowPiece b.addr b.mask 0).1 = 0 ∧ b.mask ≠ 0 then
      let hi := highPiece b.addr b.mask b.data
      [(next, hi.1, hi.2)]
    else [(a, b.mask, b.data)]
  | .wrFull => [(a, fullMask, b.data)]
  | .atAdd | .atSwap | .atCas =>
    [(a, BitVec.ofNat 64 ((2 ^ operandBytes b.info - 1) * 2 ^ (a.toNat % 64)), b.data)]
  | _ => [(a, 0, b.data)]

/-- One piece translated and checked: its SPA and attributes, or a reason with the SPA where translated. -/
def checkPiece (p : Plane) (op : ReqOp) (b : Body) (a : Ira) : Except (BitVec 8 × Option Spa) (Spa × Region) :=
  if isCounterPage a then .error (rDenied, none)
  else
    match windowAt p b.inst.toNat a with
    | none => .error (rWindow, none)
    | some w =>
      if permitted w op b.priv = false then .error (rDenied, none)
      else
        let s := translate w a
        let g := attrsOf p s
        if (g.cls == 3) != isIo op then .error (rBadParam, some s)
        else if reachable p (spaNode s) = false then .error (rNodeAbsent, some s)
        else if g.cls = 3 ∧ reachable p (g.target.toNat / 256) = false then .error (rNodeAbsent, some s)
        else .ok (s, g)

/-- What the checks make of a request: a reason, a read of the counter page, or a request with all its attributes. -/
inductive Checked where
  | fail (reason : BitVec 8) (spa : Option Spa)
  | page
  | pass (r : Req)

/-- The node a request is sent to: its home's, or its target agent's. -/
def destNode (r : Req) : Nat := if isIo r.op then r.target.toNat / 256 else spaNode r.spa

/-- The request, or one piece of it, goes to another node. -/
def leavesNode (p : Plane) (r : Req) : Bool :=
  destNode r != p.dw.node || r.upper.any fun u => spaNode u.spa != p.dw.node

/-- The tile a request is admitted on: that of its home, or of the join link that carries it out (R90). -/
def admitTile (p : Plane) (r : Req) : Nat :=
  if destNode r = p.dw.node then lineTile (spaLine r.spa) else linkTile (linkFor p (destNode r))

/-- A request with what its checks attach to it. -/
def mkReq (p : Plane) (i : Nat) (op : ReqOp) (b : Body) (s : Spa) (g : Region) (m : Mask) (d : Line)
    (up : Option Piece) : Req :=
  let r : Req := { op := op, port := i, sub := b.sub.toNat, tag := b.tag, inst := b.inst.toNat, gen := b.gen, priv := b.priv,
                   info := b.info, spa := s, mask := m, data := d, cls := g.cls, ack := g.ack, rt := g.rt,
                   meter := g.meter && (op == .wrFull || op == .wrPartial), owner := g.owner.toNat, target := g.target,
                   upper := up, t0 := p.clock }
  { r with tile := admitTile p r }

/-- A FENCE with the fields of its message. -/
def fenceReq (p : Plane) (i : Nat) (b : Body) : Req :=
  { op := .fence, port := i, sub := b.sub.toNat, tag := b.tag, inst := b.inst.toNat, gen := b.gen, priv := b.priv,
    t0 := p.clock, tile := portTile i }

/-- The binding check of R272. -/
def boundOk (p : Plane) (i : Nat) (b : Body) : Bool :=
  tget 0 p.binds (8 * i + b.sub.toNat) == b.inst.toNat &&
    ((inst p b.inst.toNat).state == .active || (inst p b.inst.toNat).state == .resetting)

/-- The generation check: after the stop of a reset every request fails until the squash (R285). -/
def genOk (p : Plane) (b : Body) : Bool :=
  !(inst p b.inst.toNat).stopped && (inst p b.inst.toNat).gen == b.gen

/-- The checks of R40, in order. -/
def checkReq (p : Plane) (i : Nat) (op : ReqOp) (b : Body) : Checked :=
  if boundOk p i b = false then .fail rDenied none
  else if genOk p b = false then .fail rGeneration none
  else if op = .fence then .pass (fenceReq p i b)
  else if formOk p i op b = false then .fail rBadParam none
  else if isCounterPage (iraOf b.addr) then
    match op with
    | .rdOnce | .ioRd => .page
    | _ => .fail rDenied none
  else
    match piecesOf op b with
    | [(a, m, d)] =>
      match checkPiece p op b a with
      | .error e => .fail e.1 e.2
      | .ok x => .pass (mkReq p i op b x.1 x.2 m d none)
    | (a, m, d) :: (a', m', d') :: _ =>
      match checkPiece p op b a, checkPiece p op b a' with
      | .error e, _ => .fail e.1 e.2
      | _, .error e => .fail e.1 e.2
      | .ok x, .ok y => .pass (mkReq p i op b x.1 x.2 m d
          (some { spa := y.1, mask := m', data := d', cls := y.2.cls, ack := y.2.ack, rt := y.2.rt, meter := y.2.meter,
                  owner := y.2.owner.toNat }))
    | [] => .fail rBadParam none

/-- The SPA that a message of an agent names: a REQ names the one its IRA is translated to, if a window covers it (log 106). -/
def spaOf (p : Plane) (cls op : Nat) (b : Body) : Option Spa :=
  if hasAddr cls op = false then none
  else if cls = 0 then
    if isCounterPage (iraOf b.addr) then none
    else (windowAt p b.inst.toNat (iraOf b.addr)).map fun w => translate w (iraOf b.addr)
  else some b.addr

/-- The attributes of a message as an agent sent it; PRIV means something in a REQ only (R57). -/
def bodyOcc (p : Plane) (i cls op : Nat) (b : Body) : Occ :=
  { msgOcc p i cls op b (spaOf p cls op b) with priv := if cls = 0 then some b.priv else none }

/-- A request that failed a check: counted, with the event of a WINDOW or DENIED outcome (R40, Table 14.3). The event's IRA is that of
ADDR, whichever piece of a split write failed, and for a REQ.FENCE, whose ADDR is reserved, zero (DESIGN CHOICE, log 95). -/
def checkFailed (i : Nat) (op : ReqOp) (b : Body) (reason : BitVec 8) (s : Option Spa) (p : Plane) : Plane :=
  let q := occur (portTile i) 0x7003 { msgOcc p i 0 (reqCode op) b s with priv := some b.priv } p
  if reason = rWindow ∨ reason = rDenied then
    let a := if op = .fence then 0 else (iraOf b.addr).toNat
    raise (tileSrc (portTile i) 14) (reason.setWidth 16) (BitVec.ofNat 32 (a / 65536))
      (payOf (a % 65536) (ownAgent p i b.sub.toNat) b.inst.toNat) q
  else q

/-! ### The counter page (R346) -/

/-- The counters assigned to an instance, in ascending number. -/
def userCounters (p : Plane) (i : Nat) : List (BitVec 64) :=
  (p.counters.filter fun x => x.2.userEn && x.2.user == i).map (·.2.value)

/-- Eight slots from slot `k` on. -/
def pageLine (vs : List (BitVec 64)) (k : Nat) : Line :=
  (List.range 8).foldl (fun l j => l ||| (((vs[k + j]?).getD 0).setWidth 512 <<< (64 * j))) 0

/-- The answer to a read of the counter page. The address it carries, and a REQ.IO_RD's other bytes, are free values. -/
def answerPage (i : Nat) (op : ReqOp) (b : Body) (p : Plane) : Plane :=
  let off := (iraOf b.addr).toNat % 4096
  let l := pageLine (userCounters p b.inst.toNat) (off / 64 * 8)
  let m : Mask := if op = .ioRd then BitVec.ofNat 64 ((2 ^ 2 ^ ioSize b.info - 1) * 2 ^ (off % 64)) else fullMask
  let r : Req := { op := op, port := i, sub := b.sub.toNat, tag := b.tag, inst := b.inst.toNat, gen := b.gen, priv := b.priv,
                   spa := BitVec.ofNat 53 (Config.freeNat p.draw), t0 := p.clock }
  sendData0 r (merge (Config.freeLine p.draw) l m) false (draw1 p)

/-! ### Hopper room (R156, R157) -/

/-- The request takes a hopper entry. -/
def hopNeed (op : ReqOp) : Bool := isStore op || op == .fence

/-- General entries in use. -/
def hopGeneral (h : Hopper) : Nat := (h.entries.filter fun e => !e.reserve).length
/-- A sub-agent's REQ.ST_COND reserve entry is in use. -/
def hopReserve (h : Hopper) (sub : Nat) : Bool := h.entries.any fun e => e.reserve && e.req.sub == sub

/-- A suitable hopper entry is free for a request, or two for a split write. -/
def hopRoom (p : Plane) (r : Req) : Bool :=
  let h := (port p r.port).hop
  if hopNeed r.op then
    if r.op = .stCond then decide (hopGeneral h < 1016) || !hopReserve h r.sub
    else decide (hopGeneral h + (if r.upper.isSome then 2 else 1) ≤ 1016)
  else true

/-- Two SPAs lie in one line. -/
def sameLine (a b : Spa) : Bool := a.extractLsb' 6 47 == b.extractLsb' 6 47

/-- A request's pieces name the line. -/
def reqOnLine (r : Req) (s : Spa) : Bool :=
  isStore r.op && (sameLine r.spa s || (match r.upper with
    | none => false
    | some u => sameLine u.spa s))

/-- Entries of a sub-agent for the line (R159). -/
def subEntries (p : Plane) (pt sub : Nat) (s : Spa) : List HopEntry :=
  (port p pt).hop.entries.filter fun e => e.req.op != .fence && e.req.sub == sub && sameLine e.spa s

/-- FENCEs of a sub-agent in the hopper. -/
def subFences (p : Plane) (pt sub : Nat) : List HopEntry :=
  (port p pt).hop.entries.filter fun e => e.req.op == .fence && e.req.sub == sub

/-- A REQ.RD_ONCE the hopper forwards: no FENCE of its sub-agent before it, no atomic or REQ.ST_COND among the entries, and
every byte covered (R159, R160). -/
def covered (p : Plane) (r : Req) : Bool :=
  let es := subEntries p r.port r.sub r.spa
  r.op == .rdOnce && (subFences p r.port r.sub).isEmpty && !es.any (fun e => isAtomic e.req.op || e.req.op == .stCond) &&
    es.foldl (fun m e => m ||| e.mask) (0 : Mask) == fullMask

/-- The forwarded line: each byte from the youngest entry that writes it. -/
def forwarded (p : Plane) (r : Req) : Line :=
  (subEntries p r.port r.sub r.spa).foldl (fun l e => merge l e.data e.mask) 0

/-! ### Admission (R276 to R278) -/

/-- The request takes no transaction entry (R90). -/
def noEntry (p : Plane) (r : Req) : Bool :=
  r.op == .fence || ((r.op == .wrPartial || r.op == .ioWr) && r.mask == 0 && r.upper.isNone) || covered p r

/-- An older waiting request of the same sub-agent stands in the way: a read passes a write that waits for a hopper entry,
but not a write of its line, nor a FENCE (R157). -/
def blocksYounger (p : Plane) (r x : Req) : Bool :=
  x.port == r.port && x.sub == r.sub &&
    (hopNeed r.op || hopRoom p x || x.op == .fence || reqOnLine x r.spa)

/-- The waiting requests that could be admitted, oldest first: none of its sub-agent's in the way, and hopper room. -/
def eligible (p : Plane) : List Req → List Req → List Req
  | _, [] => []
  | older, r :: t =>
    if !(older.any fun x => blocksYounger p r x) && hopRoom p r && !((port p r.port).hop.draining && hopNeed r.op)
    then r :: eligible p (older ++ [r]) t
    else eligible p (older ++ [r]) t

/-- Pool entries a party holds on a tile. -/
def poolUse (p : Plane) (t party : Nat) : Nat :=
  (p.entries.filter fun x => x.1 / 16384 == t && x.2.party == some party).length
/-- Pool entries in use on a tile. -/
def poolUsed (p : Plane) (t : Nat) : Nat :=
  (p.entries.filter fun x => x.1 / 16384 == t && x.2.party.isSome).length

/-- Parties with a request waiting for a pool entry on a tile. -/
def poolWaiters (p : Plane) (t : Nat) : List Nat :=
  ((p.waits.filter fun (r : Req) => r.tile == t && !noEntry p r && hopRoom p r).map (fun (r : Req) => r.inst) ++
    (if p.joinWait.any fun x => lineTile (spaLine x.2.2.2.1.addr) == t then [128] else [])).dedup

/-- A party's weight (R277). -/
def poolWeight (p : Plane) (t party : Nat) : Nat :=
  if party = 128 then clampF (fld (rg p (aJoin t)) 0 8) 255 else max 1 (inst p party).share.poolW.toNat

/-- A party's entitlement on a tile (R277). -/
def entitlement (p : Plane) (t party : Nat) : Nat :=
  let act := (List.range 129).filter fun x => (poolWaiters p t).contains x || 0 < poolUse p t x
  max 1 (12288 * poolWeight p t party / max 1 ((act.map (poolWeight p t)).sum))

/-- Party `a` goes before party `b` (R278). -/
def partyBefore (p : Plane) (t a b : Nat) : Bool :=
  let rt := fun x => x != 128 && (inst p x).share.rt
  if rt a != rt b then rt a
  else
    let x := poolUse p t a * poolWeight p t b
    let y := poolUse p t b * poolWeight p t a
    decide (x < y) || (x == y && decide (a < b))

/-- The party that goes first. -/
def firstParty (p : Plane) (t : Nat) : List Nat → Option Nat
  | [] => none
  | a :: l => match firstParty p t l with
    | none => some a
    | some b => if partyBefore p t b a then some b else some a

/-- The lowest free entry of a tile from index `lo` on, of `n`. -/
def freeIndex (p : Plane) (t lo n : Nat) : Option Nat :=
  ((List.range n).find? fun k => (entry? p (t * 16384 + lo + k)).isNone).map fun k => t * 16384 + lo + k

/-- A grant of a transaction entry: to a waiting request, with its entry and party, or to a join link's request. -/
inductive Grant where
  | own (r : Req) (ent : Option Nat) (party : Option Nat)
  | join (ent : Nat)

/-- The party has taken a pool entry of the tile in this cycle (R278). -/
def hasTaken (p : Plane) (t party : Nat) : Bool := (htile p t).tookAt == some p.clock && (htile p t).took.contains party

/-- A party takes a pool entry of a tile in this cycle. -/
def takePool (t party : Nat) (p : Plane) : Plane :=
  let h := htile p t
  setTile p t { h with tookAt := some p.clock, took := if h.tookAt = some p.clock then party :: h.took else [party] }

/-- The request that the tile admits next: one that takes no entry, one that takes a reserved entry of its port, or one
that takes a pool entry (R276 to R278). -/
def pickAdmit (p : Plane) (t : Nat) : Option Grant :=
  let es := (eligible p [] p.waits).filter fun r => r.tile == t
  match es.find? (noEntry p) with
  | some r => some (.own r none none)
  | none =>
    match es.findSome? fun r => (freeIndex p t (128 * r.port) 128).map fun n => (r, n) with
    | some x => some (.own x.1 (some x.2) none)
    | none =>
      if 12288 ≤ poolUsed p t then none
      else
        let js := p.joinWait.any fun x => lineTile (spaLine x.2.2.2.1.addr) == t
        let ps := ((es.map (fun (r : Req) => r.inst)).dedup ++ (if js then [128] else [])).filter fun x =>
          decide (poolUse p t x < entitlement p t x) && !hasTaken p t x
        match firstParty p t ps, freeIndex p t 4096 12288 with
        | some x, some n =>
          if x = 128 then some (.join n)
          else (es.find? fun r => r.inst == x).map fun r => .own r (some n) (some x)
        | _, _ => none

end Sys2Proof.Machine
end

