-- ==== Sys2Proof/Machine/Tap.lean ====
section
/-! DEFINITION. The Sagger's taps on the tiles: commit timestamps, frames, buckets and records (R18, R19, R364 to
R369). Times are half-nanoseconds of Sagger time. -/
namespace Sys2Proof.Machine
open Sys2Proof

def tap (p : Plane) (t : Nat) : Tap := tget {} p.taps t
def setTap (p : Plane) (t : Nat) (x : Tap) : Plane := { p with taps := tput {} p.taps t x }

/-- The tile stamps meter-flagged writes: an MS module with the tile's time link up (R19, R365). -/
def stamping (p : Plane) (t : Nat) : Bool := p.variant == .ms && !(tap p t).down

/-- A count folded into the bucket of an instance and window (R369). -/
def intoBucket (i w : Nat) (f : Bucket → Bucket) : List Bucket → List Bucket
  | [] => [f { inst := i, win := w }]
  | b :: t => if b.inst = i ∧ b.win = w then f b :: t else b :: intoBucket i w f t

/-- The window a timestamp belongs to: the running one, or the one before it (R371). -/
def winOf (p : Plane) (ts : Nat) : Nat := if ts < p.winStart then p.winSeq - 1 else p.winSeq

/-- A timestamp lies within 1 ns of a boundary (R371). -/
def adjacent (p : Plane) (ts : Nat) : Bool :=
  decide (ts ≤ p.winStart + 2 ∧ p.winStart ≤ ts + 2) || decide (ts ≤ p.winEnd + 2 ∧ p.winEnd ≤ ts + 2)

/-- A frame closes: its bytes and one event attributed by a timestamp (R367). -/
def closeFrame (t i bytes ts : Nat) (orphan : Bool) (p : Plane) : Plane :=
  let x := tap p t
  setTap p t { x with buckets := intoBucket i (winOf p ts) (fun b =>
    { b with bytes := b.bytes + bytes, events := b.events + 1,
             adjBytes := b.adjBytes + (if adjacent p ts then bytes else 0),
             adjEvents := b.adjEvents + (if adjacent p ts then 1 else 0),
             orphans := b.orphans + (if orphan then 1 else 0) }) x.buckets }

/-- The open frame of a sub-agent position closes as an orphan, by the commit of its last write (R367). -/
def orphanFrame (pos : Nat) (p : Plane) : Plane :=
  match tfind p.frames pos with
  | none => p
  | some f => closeFrame (pos / 64) f.inst f.bytes f.last true { p with frames := tdel p.frames pos }

/-- Every open frame of the positions that satisfy a test closes as an orphan. -/
def orphanAll (test : Nat → Frame → Bool) (p : Plane) : Plane :=
  (p.frames.filter fun x => test x.1 x.2).foldl (fun q x => orphanFrame x.1 q) p

/-- A meter-flagged write accepted by the hopper of a port: stamped and counted in its sub-agent's frame, or counted as
unmetered while the tile's time link is down (R18, R365 to R367). `ending` is an EVENT_END write. -/
def meterWrite (pt sub i bytes : Nat) (ending : Bool) (p : Plane) : Plane :=
  let t := pt / 8
  if p.variant = .ma then p
  else if stamping p t = false then
    let x := tap p t
    setTap p t { x with unmet := x.unmet + bytes }
  else
    let pos := 8 * pt + sub
    let ts := p.tapTime
    if ending then
      match tfind p.frames pos with
      | none => closeFrame t i 0 ts false p
      | some f => closeFrame t f.inst f.bytes ts false { p with frames := tdel p.frames pos }
    else
      let f := match tfind p.frames pos with
        | none => { inst := i, start := ts, last := ts, bytes := bytes }
        | some f => { f with last := ts, bytes := f.bytes + bytes }
      { p with frames := tset p.frames pos f }

/-- A metered write is withdrawn: its bytes counted as withdrawn by the time of the withdrawal (R368). -/
def meterWithdraw (pt i bytes : Nat) (p : Plane) : Plane :=
  let t := pt / 8
  if stamping p t = false then p
  else
    let x := tap p t
    setTap p t { x with buckets := intoBucket i (winOf p p.tapTime) (fun b =>
      { b with withdrawn := b.withdrawn + bytes }) x.buckets }

/-- A record queued for the Sagger: dropped without room among 256, its number used all the same (R369). -/
def queueRec (t : Nat) (r : TapRec) (p : Plane) : Plane :=
  let x := tap p t
  let r := { r with seq := x.seq, tile := t, start := !x.started }
  setTap p t { x with seq := (x.seq + 1) % 2 ^ 32, started := true,
                      recs := if x.recs.length < 256 then x.recs ++ [r] else x.recs }

/-- A bucket ends on a tile: one record for each instance with something in it, and the unmetered bytes after the time
stream has returned (R365, R369). -/
def endBucket (t : Nat) (p : Plane) : Plane :=
  let x := tap p t
  if p.variant = .ma ∨ x.down then p
  else
    let q := setTap p t { x with buckets := [], unmet := 0 }
    let q := if x.unmet = 0 then q
      else queueRec t { seq := 0, tile := t, win := p.winSeq % 256, unmet := true, withdrawn := x.unmet } q
    x.buckets.foldl (fun q b => queueRec t
      { seq := 0, tile := t, inst := b.inst, win := b.win % 256, bytes := b.bytes, events := b.events,
        adjBytes := b.adjBytes, adjEvents := b.adjEvents, withdrawn := b.withdrawn, orphans := b.orphans } q) q

/-- A window ends on a tile: its last bucket, then the END record (R369). -/
def endWindow (t : Nat) (p : Plane) : Plane :=
  if p.variant = .ma ∨ (tap p t).down then p
  else queueRec t { seq := 0, tile := t, win := p.winSeq % 256, isEnd := true } (endBucket t p)

end Sys2Proof.Machine
end

