-- ==== Sys2Proof/Machine/Hopper.lean ====
section
/-! DEFINITION. The hoppers: acceptance, forwarding, ordered release, the three notices, withdrawal, forwarded I/O, FENCE,
and what an admitted request does next (chapter 07, R72). -/
namespace Sys2Proof.Machine
open Sys2Proof

/-! ### Hopper access -/

def hopOf (p : Plane) (i : Nat) : Hopper := (port p i).hop
def setHop (p : Plane) (i : Nat) (h : Hopper) : Plane := setPort p i { port p i with hop := h }
/-- A hopper changed, with the port's panic brought up to date (R195). -/
def onHop (i : Nat) (f : Hopper → Hopper) (p : Plane) : Plane := updPanic i (setHop p i (f (hopOf p i)))
/-- The entry of a port with an RSN. -/
def hopEntry (p : Plane) (i rsn : Nat) : Option HopEntry := (hopOf p i).entries.find? fun e => e.rsn == rsn
/-- One entry changed. -/
def onEntry (i rsn : Nat) (f : HopEntry → HopEntry) (p : Plane) : Plane :=
  setHop p i { hopOf p i with entries := (hopOf p i).entries.map fun e => if e.rsn == rsn then f e else e }

/-- The entry freed: out of the hopper and of what held reads wait for; the transaction entry of a store with a home or
target elsewhere is freed with its last hopper entry (R90). -/
def freeHop (i rsn : Nat) (p : Plane) : Plane :=
  match hopEntry p i rsn with
  | none => p
  | some e =>
    let q := measure (portTile i) 0x0006 (p.clock - e.t0) (reqOcc p e.req) p
    let q := onHop i (fun h =>
      { h with entries := h.entries.filter (fun x => !(x.rsn == rsn)),
               held := h.held.map fun x => (x.1, x.2.filter fun k => k != rsn) }) q
    match e.ent with
    | none => q
    | some n =>
      if ((hopOf q i).entries.any fun x => x.ent == some n) || !((entry? q n).any (·.remote)) then q else dropEntry q n

/-! ### Final responses (R167, R170, Table 07.1) -/

/-- The final response of a store: an error, or what its opcode gives. The bytes beside an atomic's old operand are a
free value (R61); the mask kept with that answer names the operand. -/
def finalOf (e : HopEntry) (reason : Option (BitVec 8)) (fail : Bool) (p : Plane) : Plane :=
  let r := e.req
  match reason with
  | some x => sendErr r x p
  | none =>
    if isAtomic r.op then
      let o := e.old.getD (0, false)
      let off := r.spa.toNat % 64
      let l := if o.2 then Config.freeLine p.draw
        else putOperand (Config.freeLine p.draw) off (size16Of r.info) (operandAt o.1 off (size16Of r.info))
      let q := freeTag r.port r.tag (measureReq r (draw1 p))
      toPort r.port (.msg 3 (if o.2 then 1 else 0) { mkBody r.tag r.sub 0 r.spa with data := l, mask := r.mask }) q
    else sendComp r fail p

/-- The event of an error that cannot reach the agent (R163, R172). -/
def lostError (i : Nat) (e : HopEntry) (reason : BitVec 8) (p : Plane) : Plane :=
  raise (tileSrc (portTile i) (i % 8)) 7 (reason.setWidth 32) (payOf e.spa.toNat (ownAgent p i e.req.sub) 0) p

/-- The RSN of the lower piece of an entry's split write (R170). -/
def lowRsn (e : HopEntry) : Nat := if e.piece = 2 then (e.rsn + 65535) % 65536 else e.rsn

/-- The split write that an entry is a piece of, while its final response is still to come. -/
def splitOf (h : Hopper) (e : HopEntry) : Option Split :=
  if e.piece = 0 then none else h.splits.find? fun s => s.rsn == lowRsn e

/-- The hopper with a piece's outcome in its split write. -/
def setSplit (h : Hopper) (s : Split) : Hopper := { h with splits := h.splits.map fun x => if x.rsn == s.rsn then s else x }

/-- An entry reaches its acknowledge point; a split write answers at the later of its two (R170). -/
def ackEntry (i rsn : Nat) (reason : Option (BitVec 8)) (fail : Bool) (p : Plane) : Plane :=
  match hopEntry p i rsn with
  | none => p
  | some e =>
    if e.acked then p
    else
      let q := onEntry i rsn (fun x => { x with acked := true }) p
      if e.piece = 0 then finalOf e reason fail q
      else
        match splitOf (hopOf q i) e with
        | none => q
        | some s =>
          let s := if e.piece = 1 then { s with left := s.left - 1, lo := reason } else { s with left := s.left - 1, hi := reason }
          if s.left = 0 then
            finalOf e (s.lo.orElse fun _ => s.hi) false
              (setHop q i { hopOf q i with splits := (hopOf q i).splits.filter fun x => !(x.rsn == s.rsn) })
          else setHop q i (setSplit (hopOf q i) s)

/-- An acknowledged entry ends in error: in its split write's final response while that is still to come, else by the event of R163; the
home has reported poison itself (R170, R222). -/
def ackedError (i : Nat) (e : HopEntry) (reason : BitVec 8) (p : Plane) : Plane :=
  match splitOf (hopOf p i) e with
  | some s => setHop p i (setSplit (hopOf p i) (if e.piece = 1 then { s with lo := some reason } else { s with hi := some reason }))
  | none => if reason = rPoison then p else lostError i e reason p

/-! ### Sending to a home -/

/-- The requester of a request. -/
def whoOf (p : Plane) (r : Req) (rsn : Nat) : Who :=
  { node := p.dw.node, port := r.port, sub := r.sub, tag := r.tag, rsn := rsn, attach := (port p r.port).attach,
    inst := r.inst, gen := r.gen, priv := r.priv }

/-- The route slot of a request for another node (Table 10.1). -/
def reqRoute (p : Plane) (r : Req) (node ent rsn : Nat) (cls ack : BitVec 2) (rt : Bool) : Route :=
  { baseRoute p node (BitVec.ofNat 16 ent) r.port with
    panic := inPanic (port p r.port), inst := BitVec.ofNat 7 r.inst, gen := r.gen, priv := r.priv,
    attach := (match r.op with
      | .ldRsv | .stCond => (port p r.port).attach
      | _ => 0),
    cls := cls, ack := ack, rt := rt, rsn := BitVec.ofNat 16 rsn }

/-- A request or piece sent to its home: as a job on this module, or over the Drayway. -/
def sendHome (r : Req) (ent : Option Nat) (rsn : Nat) (s : Spa) (m : Mask) (d : Line) (cls ack : BitVec 2) (rt : Bool)
    (owner : Nat) (p : Plane) : Plane :=
  if spaNode s = p.dw.node then
    arrive r.port
      { id := 0, kind := .req r.op, line := spaLine s, who := whoOf p r rsn, cls := cls, ack := ack, rt := rt, owner := owner,
        mask := m, data := d, off := s.toNat % 64, size16 := size16Of r.info, ent := ent, epoch := p.dw.curEp } p
  else
    let a : Spa := if isAtomic r.op then s else (s.extractLsb' 6 47) ++ (0 : BitVec 6)
    toNode (reqRoute p r (spaNode s) (ent.getD 0) rsn cls ack rt) 0 (BitVec.ofNat 5 (reqCode r.op))
      { mkBody 0 r.sub r.info a with mask := m, data := d } p

/-- A line request or read sent to its home (R110). -/
def sendLine (r : Req) (ent : Nat) (p : Plane) : Plane :=
  let q := match entry? p ent with
    | none => p
    | some e => if spaNode r.spa = p.dw.node then p else setEntry p ent { e with remote := true }
  sendHome r (some ent) 0 r.spa 0 0 r.cls r.ack r.rt r.owner q

/-! ### Ordered release (R162, R163) -/

/-- The entry meets a condition of R162. -/
def meets (e : HopEntry) : Bool := e.st != .sent || e.req.op == .fence || e.withdrawn

/-- The entry takes no REL.RELEASE: zero MASK, ended in error, or a REQ.IO_WR. -/
def noRelease (e : HopEntry) : Bool :=
  e.req.op == .ioWr || (e.req.op == .wrPartial && e.mask == 0 && e.piece == 0) || e.reason.isSome

/-- REL.RELEASE sent for an entry, with WITHDRAW for a withdrawal (R162, R179). -/
def sendRelease (i : Nat) (e : HopEntry) (withdraw : Bool) (p : Plane) : Plane :=
  let q := onEntry i e.rsn (fun x => { x with st := .released, withdrawn := x.withdrawn || withdraw }) p
  if spaNode e.spa = p.dw.node then
    { q with notices := q.notices ++ [{ kind := 0, port := i, rsn := e.rsn, withdraw := withdraw }] }
  else
    toNode { baseRoute q (spaNode e.spa) 0 i with rsn := BitVec.ofNat 16 e.rsn, panic := inPanic (port q i) } 5 0
      (mkBody 0 e.req.sub ((BitVec.ofBool withdraw).setWidth 18) e.spa) q

/-- What R162 does with one entry whose turn has come. -/
def releaseOne (i : Nat) (e : HopEntry) (p : Plane) : Plane :=
  if e.st ≠ .accepted ∨ e.req.op = .fence then p
  else if noRelease e then freeHop i e.rsn (ackEntry i e.rsn e.reason false p)
  else sendRelease i e false p

/-- Every entry whose turn has come: it and every older entry meet a condition of R162. -/
def releaseSweep (i : Nat) (p : Plane) : Plane :=
  ((hopOf p i).entries.takeWhile meets).foldl (fun q e => releaseOne i e q) p

/-! ### Acceptance (R157, R158, R167, R168) -/

/-- The instance share of a metered piece. -/
def meterPiece (r : Req) (meter : Bool) (m : Mask) (p : Plane) : Plane :=
  if meter then
    meterWrite r.port r.sub r.inst (countBits m 64) (r.op == .wrPartial && m == 0 && r.upper.isNone) p
  else p

/-- One entry accepted: numbered, counted, stamped, acknowledged where EARLY, and sent to its home; a write with a zero MASK is freed at
once where its turn has come (R168). -/
def acceptOne (r : Req) (ent : Option Nat) (piece : Nat) (s : Spa) (m : Mask) (d : Line) (cls ack : BitVec 2) (rt meter : Bool)
    (owner : Nat) (p : Plane) : Plane :=
  let i := r.port
  let h := hopOf p i
  let rsn := h.nextRsn
  let zero := r.op == .fence || ((r.op == .wrPartial || r.op == .ioWr) && m == 0 && piece == 0)
  let remote := isStore r.op && !zero && r.op != .ioWr && spaNode s != p.dw.node
  let e : HopEntry :=
    { rsn := rsn, st := if zero then .accepted else .sent, req := { r with ack := ack, cls := cls }, spa := s, mask := m,
      data := d, piece := piece, reserve := r.op == .stCond && decide (1016 ≤ hopGeneral h), ent := ent,
      stamped := meter && stamping p (portTile i), t0 := p.clock }
  let q := onHop i (fun h => { h with entries := h.entries ++ [e], nextRsn := (rsn + 1) % 65536 }) p
  let q := meterPiece r meter m (occur (portTile i) 0x3001 (reqOcc p r) q)
  let q := match ent with
    | none => q
    | some n => match entry? q n with
      | none => q
      | some x => setEntry q n { x with rsn := some rsn, remote := x.remote || remote || r.op == .ioWr }
  let q := if ack = 0 ∧ (r.op = .wrFull ∨ r.op = .wrPartial) then ackEntry i rsn none false q else q
  if zero then releaseSweep i q
  else if r.op = .ioWr then q
  else sendHome r ent rsn s m d cls ack rt owner q

/-- A request accepted into its port's hopper; both pieces of a split write in one cycle (R170). -/
def accept (r : Req) (ent : Option Nat) (p : Plane) : Plane :=
  match r.upper with
  | none => acceptOne r ent 0 r.spa r.mask r.data r.cls r.ack r.rt r.meter r.owner p
  | some u =>
    let q := setHop p r.port { hopOf p r.port with splits := (hopOf p r.port).splits ++ [{ tag := r.tag, rsn := (hopOf p r.port).nextRsn }] }
    acceptOne r ent 2 u.spa u.mask u.data u.cls u.ack u.rt u.meter u.owner
      (acceptOne r ent 1 r.spa r.mask r.data r.cls r.ack r.rt r.meter r.owner q)

/-! ### The notices (R161, R163, R175) -/

/-- An acceptance notice reaches the hopper (R161). -/
def noteAccepted (i rsn : Nat) (p : Plane) : Plane :=
  releaseSweep i (onEntry i rsn (fun e => if e.st = .sent then { e with st := .accepted } else e) p)

/-- A visibility notice, or one of an error at the home, reaches the hopper (R163). An atomic whose old operand has not come
yet keeps its entry until it comes. -/
def noteVisible (i rsn : Nat) (reason : BitVec 8) (old : Option (Line × Bool)) (p : Plane) : Plane :=
  match hopEntry p i rsn with
  | none => p
  | some e =>
    let q := match old with
      | none => p
      | some o => onEntry i rsn (fun x => { x with old := some o }) p
    if reason ≠ 0 then
      let q := if e.acked then ackedError i e reason q else ackEntry i rsn (some reason) false q
      if e.st = .released then releaseSweep i (freeHop i rsn q)
      else releaseSweep i (onEntry i rsn (fun x => { x with st := .accepted, reason := some reason }) q)
    else if isAtomic e.req.op ∧ e.withdrawn = false ∧ e.acked = false ∧ (old.orElse fun _ => e.old).isNone then
      onEntry i rsn (fun x => { x with reason := some 0 }) q
    else releaseSweep i (freeHop i rsn (ackEntry i rsn none false q))

/-- The old operand of an atomic comes from another module (Table 07.1). -/
def noteOld (i rsn : Nat) (line : Line) (poison : Bool) (p : Plane) : Plane :=
  match hopEntry p i rsn with
  | none => p
  | some e =>
    let q := ackEntry i rsn none false (onEntry i rsn (fun x => { x with old := some (line, poison) }) p)
    if e.reason = some 0 then releaseSweep i (freeHop i rsn q) else q

/-- A failure report of a REQ.ST_COND reaches the hopper (R175). -/
def noteFailed (i rsn : Nat) (p : Plane) : Plane :=
  releaseSweep i (freeHop i rsn (ackEntry i rsn none true p))

/-! ### Withdrawal (R179, R368) -/

/-- A store withdrawn: its agent told, its home told, the bytes it was stamped for counted as withdrawn. -/
def withdraw (i : Nat) (e : HopEntry) (reason : BitVec 8) (p : Plane) : Plane :=
  let q := ackEntry i e.rsn (some reason) false p
  let q := if e.stamped then meterWithdraw i e.req.inst (countBits e.mask 64) q else q
  if noRelease e ∧ e.req.op ≠ .ioWr then onEntry i e.rsn (fun x => { x with withdrawn := true, st := .accepted }) q
  else sendRelease i e true q

/-! ### Forwarded I/O (R72, R172) -/

/-- The entry is counted as accepted. -/
def isAccepted (e : HopEntry) : Bool := meets e

/-- A forwarded REQ.IO_WR has ended: with the target's answer, TIMEOUT or ABORTED (R172). Under policy HOME the requester has
RSP.COMP whatever the outcome, and an error is raised as an event (R72). -/
def ioWrEnd (i rsn : Nat) (reason : Option (BitVec 8)) (p : Plane) : Plane :=
  match hopEntry p i rsn with
  | none => p
  | some e =>
    let q := match reason with
      | none => ackEntry i rsn none false p
      | some x =>
        if e.acked then lostError i e x p
        else if e.req.ack = 1 then lostError i e x (ackEntry i rsn none false p)
        else ackEntry i rsn (some x) false p
    releaseSweep i (onEntry i rsn (fun x => { x with st := .accepted }) q)

/-- A forwarded request of this module's agents ends: `res` is the data of a REQ.IO_RD or nothing, or a reason. The requester of
one marked aborted has been answered already (R75). -/
def ioEnd (ent : Nat) (res : Except (BitVec 8) (Option (Line × Bool))) (p : Plane) : Plane :=
  match entry? p ent with
  | none => p
  | some e =>
    if e.req.op = .ioWr then
      match e.rsn with
      | none => dropEntry p ent
      | some k => dropEntry (ioWrEnd e.req.port k (match res with
        | .ok _ => none
        | .error x => some x) p) ent
    else if e.aborted then dropEntry p ent
    else
      dropEntry (match res with
        | .ok (some d) => sendData0 e.req d.1 d.2 p
        | .ok none => sendData0 e.req 0 false p
        | .error x => sendErr e.req x p) ent

/-- MCLASS and OPCODE of the answer that ends a forwarded request. -/
def ioCode : Except (BitVec 8) (Option (Line × Bool)) → Nat × Nat
  | .ok (some d) => (3, if d.2 then 1 else 0)
  | .ok none => (4, 8)
  | .error _ => (4, 9)

/-- The target's answer to a forwarded request: that of an aborted REQ.IO_RD is discarded and counted (R75). -/
def ioAnswered (ent : Nat) (res : Except (BitVec 8) (Option (Line × Bool))) (p : Plane) : Plane :=
  match entry? p ent with
  | none => p
  | some e =>
    if e.aborted ∧ e.req.op ≠ .ioWr then
      occur (portTile e.req.port) 0x0005 { agent := some (ownAgent p e.req.port e.req.sub), msg := some (ioCode res) }
        (dropEntry p ent)
    else ioEnd ent res p

/-- The address, mask and data with which a request is forwarded. -/
def ioBody (r : Req) (sub : Nat) : Body := { mkBody 0 sub r.info r.spa with mask := r.mask, data := r.data }

/-- A forwarded request reaches its target port on this module (R72). -/
def ioToPort (t sub : Nat) (use : TagFor) (op : ReqOp) (b : Body) (p : Plane) : Option Plane :=
  if (port p t).state = .active then some (sendTagged t use 0 (BitVec.ofNat 5 (reqCode op)) { b with sub := BitVec.ofNat 3 sub } p)
  else none

/-- A request of this module's agents sent towards its target (R72, R172). -/
def ioSend (ent : Nat) (r : Req) (rsn : Nat) (p : Plane) : Plane :=
  let a := r.target.toNat
  if a / 256 = p.dw.node then
    match ioToPort (a / 8 % 32) (a % 8) (.io ent) r.op (ioBody r (a % 8)) p with
    | some q => q
    | none => ioEnd ent (.error rAborted) p
  else
    let rt : Route := { reqRoute p r (a / 256) ent rsn r.cls r.ack r.rt with port := BitVec.ofNat 5 (a / 8 % 32) }
    { p with dw := { p.dw with out := p.dw.out ++
      [{ route := rt, cls := 0, op := BitVec.ofNat 5 (reqCode r.op), body := ioBody r (a % 8),
         io := if r.op = .ioWr then some (r.port, rsn) else none }] } }

/-- The first REQ.IO_WR not yet sent whose older entries are all accepted. -/
def ioReady : List HopEntry → Option HopEntry
  | [] => none
  | e :: t =>
    if e.req.op = .ioWr ∧ e.st = .sent ∧ e.ioSent = false ∧ e.withdrawn = false then some e
    else if isAccepted e then ioReady t else none

/-- A message under a module tag has not yet left its port. -/
def unsentAt (pt : Port) (u : TagFor) : Bool :=
  pt.tagWait.any (fun m => m.use == u) || pt.mtags.any fun x => x.2.use == u && !x.2.sent

/-- The message of a forwarded request still waits at its target's port. -/
def ioWaits (p : Plane) (t ent : Nat) : Bool := unsentAt (port p t) (.io ent)

/-- A REQ.IO_WR of policy HOME for a target here is acknowledged once it has left the target's port (R172). -/
def ioLeft (i : Nat) (p : Plane) : Plane :=
  ((hopOf p i).entries.filter fun e => e.req.op == .ioWr && e.ioSent && !e.acked && e.req.ack == 1).foldl (fun q e =>
    let a := e.req.target.toNat
    match e.ent with
    | none => q
    | some n => if a / 256 = q.dw.node ∧ ioWaits q (a / 8 % 32) n = false then ackEntry i e.rsn none false q else q) p

/-! ### Reads (R159, R160, R172) -/

/-- The RSNs of the entries a read waits for. -/
def waitsFor (p : Plane) (r : Req) : List Nat :=
  if r.op = .ioRd then (hopOf p r.port).entries.map (·.rsn)
  else ((subEntries p r.port r.sub r.spa) ++ (subFences p r.port r.sub)).map (·.rsn)

/-- What a held read waits for has come: its entries freed; for a REQ.IO_RD every older entry accepted and every FENCE of
its sub-agent completed. -/
def heldReady (p : Plane) (i : Nat) (x : Nat × List Nat) : Bool :=
  match entry? p x.1 with
  | none => true
  | some e =>
    if e.req.op = .ioRd then
      x.2.all fun k => match hopEntry p i k with
        | none => true
        | some h => isAccepted h && !(h.req.op == .fence && h.req.sub == e.req.sub)
    else x.2.isEmpty

/-- A read that nothing holds goes on: to its home, or towards its target. -/
def readGo (ent : Nat) (r : Req) (p : Plane) : Plane :=
  if r.op = .ioRd then
    ioSend ent r 0 (match entry? p ent with
      | none => p
      | some e => setEntry p ent { e with remote := true })
  else sendLine r ent p

/-- A read admitted: held in the hopper, or sent on at once. -/
def launchRead (ent : Nat) (r : Req) (p : Plane) : Plane :=
  let ws := waitsFor p r
  if heldReady p r.port (ent, ws) then readGo ent r p
  else setHop p r.port { hopOf p r.port with held := (hopOf p r.port).held ++ [(ent, ws)] }

/-! ### Admission (R276, R157) -/

/-- A waiting request admitted. A request for another node is refused there after STOP_OUTBOUND (Table 10.9). -/
def takeIn (r : Req) (ent : Option Nat) (party : Option Nat) (p : Plane) : Plane :=
  let q := { p with waits := p.waits.filter fun (x : Req) => !(x.port == r.port && x.tag == r.tag) }
  let q := giveCredit r.port 0 q
  if q.dw.stopOut ∧ r.op ≠ .fence ∧ leavesNode q r = true then sendErr r rNodeAbsent q
  else if covered q r then
    let q := if spaNode r.spa = q.dw.node then seeRequest (spaLine r.spa) r.inst q else q
    sendData0 r (forwarded q r) false (occur (portTile r.port) 0x3002 (reqOcc q r) q)
  else
    let q := occur r.tile 0x7001 (reqOcc q r) q
    let q := match r.tPool with
      | none => q
      | some t => measure r.tile 0x0007 (q.clock - t) (reqOcc q r) q
    let q := takeSample (portTile r.port) (reqOcc q r) q
    match ent with
    | none => accept r none q
    | some n =>
      let q := match party with
        | none => q
        | some x => takePool r.tile x q
      let q := { q with entries := tset q.entries n { req := r, party := party } }
      if hopNeed r.op then accept r (some n) q else launchRead n r q

/-- The request begins to wait for a pool entry (Table 14.5). -/
def markPool (r : Req) (p : Plane) : Plane :=
  if r.tPool.isSome ∨ noEntry p r ∨ hopRoom p r = false then p
  else
    occur r.tile 0x7002 (reqOcc p r)
      { p with waits := p.waits.map fun (x : Req) => if x.port == r.port && x.tag == r.tag then { x with tPool := some p.clock } else x }

/-- A request that has passed its checks: admitted in this cycle if it is the one its tile admits next, else it waits in
its port's receive buffer. -/
def offerReq (r : Req) (p : Plane) : Plane :=
  let q := { p with waits := p.waits ++ [r] }
  match pickAdmit q r.tile with
  | some (.own x ent party) => if x.port = r.port ∧ x.tag = r.tag then takeIn x ent party q else markPool r q
  | _ => markPool r q

/-! ### Requests of other modules (R93, R251, R266) -/

/-- The requester behind a join link's request. -/
def whoJoin (r : Route) (b : Body) : Who :=
  { node := r.src.toNat, port := r.port.toNat, sub := b.sub.toNat, remote := true, tag := r.xtag, rsn := r.rsn.toNat,
    attach := r.attach, hops := r.hops.toNat, inst := r.inst.toNat, gen := r.gen, priv := r.priv }

/-- The attributes of a join link's request. -/
def joinOcc (r : Route) (op : ReqOp) (b : Body) : Occ :=
  { agent := some (agentId r.src.toNat r.port.toNat b.sub.toNat), priv := some r.priv, spa := some b.addr.toNat,
    cls := some r.cls.toNat, msg := some (0, reqCode op), inst := r.inst.toNat }

/-- A join link's request with its pool entry arrives at its home tile. -/
def joinArrive (j : Nat) (r : Route) (op : ReqOp) (b : Body) (ent : Nat) (p : Plane) : Plane :=
  arrive (32 + j)
    { id := 0, kind := .req op, line := spaLine b.addr, who := whoJoin r b, cls := r.cls, ack := r.ack, rt := r.rt,
      panic := r.panic, mask := b.mask, data := b.data, off := b.addr.toNat % 64, size16 := size16Of b.info, ent := some ent,
      epoch := r.epoch.toNat }
    { p with entries := tset p.entries ent { req := { op := op, spa := b.addr }, party := some 128, join := true } }

/-- The credit-return fields that freed credits of a join link take: five, because a count holds at most 31 (Table 10.3). -/
def joinCredFields (vcb : Bool) (c : Credits) : List (BitVec 32) :=
  ((List.range 5).map fun k => ({ req := c.req - 31 * k, snp := c.snp - 31 * k, evn := c.evn - 31 * k, dat := c.dat - 31 * k,
                                  rsp := c.rsp - 31 * k, rel := c.rel - 31 * k } : Credits)).filterMap fun x =>
    if x = {} then none else some (joinCredField vcb x)

/-- Freed credits of a VC go back in IDLE flits while the link is ACTIVE; otherwise they wait until it is (R249, log 78). -/
def returnJoin (vcb : Bool) (c : Credits) (l : JLink) : JLink :=
  let all := sumCredits (if vcb then l.owedB else l.owedA) c
  if l.state == .active then
    let l := { l with retry := (joinCredFields vcb all).foldl (fun r f => sendIdle f r) l.retry }
    if vcb then { l with givenB := sumCredits l.givenB all, owedB := {} }
    else { l with givenA := sumCredits l.givenA all, owedA := {} }
  else if vcb then { l with owedB := all } else { l with owedA := all }

/-- Credit of a class and VC back to a join link's peer (R251). -/
def giveJoin (j cls : Nat) (vcb : Bool) (p : Plane) : Plane :=
  let l := link p j
  setLink p j (returnJoin vcb (addCredit {} cls 1) l)

/-- The request of a join link that has waited longest on a tile takes a pool entry. -/
def admitJoin (t ent : Nat) (p : Plane) : Plane :=
  match p.joinWait.find? fun x => lineTile (spaLine x.2.2.2.1.addr) == t with
  | none => p
  | some x =>
    let o := joinOcc x.2.1 x.2.2.1 x.2.2.2.1
    let q := occur t 0x7001 o { p with joinWait := p.joinWait.erase x }
    let q := match x.2.2.2.2 with
      | none => q
      | some c => measure t 0x0007 (q.clock - c) o q
    joinArrive x.1 x.2.1 x.2.2.1 x.2.2.2.1 ent (giveJoin x.1 0 x.2.1.vcb (takePool t 128 q))

/-- A drain holds back requests (R180, R419). -/
def drainOn (p : Plane) : Bool := p.ports.any fun x => x.2.hop.draining

/-- A tile admits its next request (R276 to R278). -/
def admitNext (t : Nat) (p : Plane) : Plane :=
  if drainOn p then p else match pickAdmit p t with
  | none => p
  | some (.own r ent party) => takeIn r ent party p
  | some (.join ent) => admitJoin t ent p

/-- A store of a port that waits for a hopper entry is accepted, if its tile admits it next (R157). -/
def acceptNext (i : Nat) (p : Plane) : Plane :=
  match (List.range 4).findSome? fun t => match pickAdmit p t with
    | some (.own r ent party) => if r.port = i ∧ hopNeed r.op then some (r, ent, party) else none
    | _ => none with
  | none => p
  | some x => takeIn x.1 x.2.1 x.2.2 p

/-- Credits of queued evictions that have started or been sunk go back (R251). -/
def evictCredits (p : Plane) : Plane :=
  let gone := fun (x : Nat × Nat × Bool) => match job? p x.1 with
    | none => true
    | some j => j.phase != .queued
  (p.evHeld.filter gone).foldl (fun q x => giveJoin x.2.1 2 x.2.2 q)
    { p with evHeld := p.evHeld.filter fun x => !(gone x) }

/-- A delivery of a join link's message has not yet left: at a port, or, of a multicast copy, on its way to other nodes. -/
def unsentUse (p : Plane) (u : TagFor) : Bool :=
  p.ports.any (fun y => unsentAt y.2 u) || match u with
    | .remote r => r.mcast && p.dw.out.any fun f => f.link.isSome && f.route.src == r.src && f.route.xtag == r.xtag
    | _ => false

/-- Credits of snoops and forwarded I/O of join links go back once their last delivery has left (R251). -/
def joinCredits (p : Plane) : Plane :=
  let gone := fun (x : Nat × Nat × Bool × List TagFor) => !x.2.2.2.any (unsentUse p)
  (p.joinHeld.filter gone).foldl (fun q x => giveJoin x.1 x.2.1 x.2.2.1 q)
    { p with joinHeld := p.joinHeld.filter fun x => !(gone x) }

/-- Requests that now wait for a pool entry, though they did not on arrival (R289, Table 14.5). -/
def markPools (p : Plane) : Plane := p.waits.foldl (fun q r => markPool r q) p

/-- Everything that can end at once has ended: gathered answers, queued evictions that are awaited, forwarded writes that have left,
eviction credits, credits of deliveries. -/
def tidy (p : Plane) : Plane :=
  markPools (joinCredits (evictCredits ((settle p).ports.foldl (fun q x => ioLeft x.1 q) (settle p))))

end Sys2Proof.Machine
end

