-- ==== Sys2Proof/Machine/Answers.lean ====
section
/-! DEFINITION. What agents answer: snoop answers, answers to forwarded I/O, acknowledgements of grants, evictions; and
their counterparts over the Drayway (R68, R72, R75, R245, R251, R283). -/
namespace Sys2Proof.Machine
open Sys2Proof

/-- A late message counted (Table 14.5, code 0x0005). -/
def countLate (t : Nat) (agent : Nat) (cls op : Nat) (p : Plane) : Plane :=
  occur t 0x0005 { agent := some agent, msg := some (cls, op) } p
/-- A late message of another module counted as well in ISM_LATE (R245, R283). -/
def countLateJoin (t : Nat) (agent : Nat) (cls op : Nat) (p : Plane) : Plane :=
  let q := countLate t agent cls op p
  setTile q t { htile q t with late := min (2 ^ 32 - 1) ((htile q t).late + 1) }

/-- What an agent's message answers a module tag with. -/
inductive Reply where
  | snoop (x : Ans)
  | data (line : Line) (poison : Bool)
  | comp
  | err (reason : BitVec 8)

/-- MCLASS and OPCODE of a reply. -/
def replyCode : Reply → Nat × Nat
  | .snoop x => ((ansCode x).1.toNat, (ansCode x).2.toNat)
  | .data _ p => (3, if p then 1 else 0)
  | .comp => (4, 8)
  | .err _ => (4, 9)

/-- A reply read as the answer to a snoop: data as it stands, poison as such. -/
def asAns (info : BitVec 18) : Reply → Option Ans
  | .snoop x => some x
  | .data l p => some (if p then .poison else .data (dirtyBit info) (keepS info) l)
  | _ => none

/-- A reply read as the end of a forwarded request of an opcode. -/
def asIo (op : BitVec 5) : Reply → Option (Except (BitVec 8) (Option (Line × Bool)))
  | .data l p => if op = 0x18 then some (.ok (some (l, p))) else none
  | .comp => if op = 0x19 then some (.ok none) else none
  | .err x => some (.error x)
  | .snoop _ => none

/-- A route back to the node that awaits an answer (R245). -/
def backRoute (p : Plane) (r : Route) (pt : Nat) : Route :=
  { baseRoute p r.src.toNat r.xtag pt with inst := r.inst, gen := r.gen }

/-- An answer to a snoop of another module's home, sent there. -/
def answerOver (r : Route) (pt sub : Nat) (info : BitVec 18) (spa : Spa) (x : Ans) (p : Plane) : Plane :=
  let c := ansCode x
  let d := match x with
    | .data _ _ l => l
    | .poison => Config.freeLine p.draw
    | _ => 0
  toNode (backRoute p r pt) c.1 c.2
    { mkBody 0 sub (match x with
        | .data _ _ _ => info
        | _ => 0) spa with data := d, mask := if ansRank x < 3 then 0 else fullMask }
    (if x = .poison then draw1 p else p)

/-- The end of a forwarded request of another module, sent there (R72). -/
def ioOver (r : Route) (pt sub : Nat) (spa : Spa) (res : Except (BitVec 8) (Option (Line × Bool))) (p : Plane) : Plane :=
  let back := backRoute p r pt
  match res with
  | .ok (some d) =>
    toNode back 3 (if d.2 then 1 else 0)
      { mkBody 0 sub 0 spa with data := if d.2 then Config.freeLine p.draw else d.1, mask := fullMask }
      (if d.2 then draw1 p else p)
  | .ok none => toNode back 4 8 (mkBody 0 sub 0 spa) p
  | .error x => toNode back 4 9 (mkBody 0 sub (infoReason x) spa) p

/-- What an answer does for the module tag's use; nothing where the answer does not fit it. -/
def useReply (i : Nat) (m : ModTag) (sub : Nat) (info : BitVec 18) (x : Reply) (p : Plane) : Option Plane :=
  let a := ownAgent p i sub
  match m.use with
  | .snoop id => (asAns info x).map fun y => answer id p.dw.node a y p
  | .gather id => (asAns info x).map fun y =>
      { p with gathers := p.gathers.map fun g => if g.id == id then intoGather g i sub y else g }
  | .remote r => (asAns info x).map fun y => answerOver r i sub info m.body.addr y p
  | .flush => match x with
    | .snoop .i => some p
    | _ => none
  | .io ent => (asIo m.op x).map fun y => ioAnswered ent y p
  | .ioRemote r => (asIo m.op x).map fun y => ioOver r i sub m.body.addr y p

/-- A late answer to a request that has timed out or was squashed: discarded and counted (R72, R75); `none` where none is
awaited. -/
def takeLate (i : Nat) (tag : BitVec 16) (sub : Nat) (x : Reply) (p : Plane) : Option Plane :=
  let pt := port p i
  if pt.lateTags.contains tag.toNat then
    some (countLate (portTile i) (ownAgent p i sub) (replyCode x).1 (replyCode x).2
      (setPort p i { pt with lateTags := pt.lateTags.erase tag.toNat }))
  else none

/-- An agent's answer to a module tag: `none` where it names no outstanding tag of its sub-agent, or does not fit, and no late
answer is awaited (Table 03.11, R72). -/
def takeReply (i : Nat) (tag : BitVec 16) (sub : Nat) (info : BitVec 18) (x : Reply) (p : Plane) : Option Plane :=
  match tfind (port p i).mtags tag.toNat with
  | none => takeLate i tag sub x p
  | some m =>
    if m.body.sub.toNat ≠ sub then takeLate i tag sub x p
    else (useReply i m sub info x (freeModTag i tag.toNat p)).orElse fun _ => takeLate i tag sub x p

/-- RSP.COMP_ACK sent to the home of a grant on another module, and the origin's entry freed (R243, R245). -/
def ackOver (i sub : Nat) (node : Nat) (xtag : BitVec 16) (p : Plane) : Plane :=
  let spa := match entry? p xtag.toNat with
    | none => 0
    | some e => e.req.spa
  toNode (baseRoute p node xtag i) 4 0xA (mkBody 0 sub 0 (lineBase spa)) (dropEntry p xtag.toNat)

/-- An RSP.COMP_ACK that names an outstanding tag under which no grant has been made: discarded, with an HCE protocol event (R106,
Table 14.3). -/
def strayAck (i : Nat) (tag : BitVec 16) (sub : Nat) (p : Plane) : Plane :=
  let spa := match p.entries.find? fun x => !x.2.join && x.2.req.port == i && x.2.req.tag == tag with
    | some x => x.2.req.spa
    | none => 0
  let t := if spaNode spa = p.dw.node then lineTile (spaLine spa) else portTile i
  raise (tileSrc t 13) 0x8A 0 (payOf spa.toNat (ownAgent p i sub) 0) p

/-- An agent's RSP.COMP_ACK: `none` where it names no outstanding tag of its sub-agent (R67, R106). -/
def takeAck (i : Nat) (tag : BitVec 16) (sub : Nat) (p : Plane) : Option Plane :=
  let pt := port p i
  match tfind pt.tags tag.toNat with
  | none => none
  | some u =>
    if u.sub ≠ sub then none
    else if u.ackDue = false then some (strayAck i tag sub p)
    else
      let q := setPort p i { pt with tags := tdel pt.tags tag.toNat }
      match u.home with
      | some h => some (ackOver i sub h.1 h.2 q)
      | none => match u.job.bind (job? q) with
        | some j => some (ackJob j q)
        | none => some q

/-- An agent's eviction reaches the per-agent reserve of its home, its credit returned at once (R65, R91). -/
def takeEvict (i : Nat) (b : Body) (p : Plane) : Plane :=
  let pt := port p i
  let q := setPort p i { pt with tags := tset pt.tags b.tag.toNat { sub := b.sub.toNat, evn := true } }
  let q := giveCredit i 2 q
  let poison := b.info.getLsbD 0
  if spaNode b.addr = q.dw.node then
    arriveEvict (spaLine b.addr) { node := q.dw.node, port := i, sub := b.sub.toNat, tag := b.tag } b.data poison q
  else
    toNode (baseRoute q (spaNode b.addr) b.tag i) 2 0
      { mkBody 0 b.sub.toNat b.info ((b.addr.extractLsb' 6 47) ++ (0 : BitVec 6)) with data := b.data, mask := fullMask } q

/-! ### Answers of other modules to this module's requests (R245, R283) -/

/-- The GRANT of a DAT.DATA or RSP.COMP. -/
def grantIn (cls op : Nat) (info : BitVec 18) : BitVec 2 :=
  if cls = 3 ∧ op = 0 then info.extractLsb' 0 2 else if cls = 4 ∧ op = 8 then info.extractLsb' 1 2 else 0

/-- An answer of a home or target on another module discarded: a grant is acknowledged in the agent's place (R75, R283). -/
def discardGrant (r : Route) (cls op : Nat) (b : Body) (p : Plane) : Plane :=
  let g := grantIn cls op b.info
  if g = 1 ∨ g = 2 then
    toNode (baseRoute p r.src.toNat r.xtag r.port.toNat) 4 0xA (mkBody 0 b.sub.toNat 0 b.addr) p
  else p

/-- The answer of a home to a line request, passed to the agent. -/
def deliverLine (e : Entry) (n : Nat) (r : Route) (cls op : Nat) (b : Body) (p : Plane) : Plane :=
  let g := grantIn cls op b.info
  if cls = 4 ∧ op = 9 then dropEntry (sendErr e.req (infoLow8 b.info) p) n
  else if g = 1 ∨ g = 2 then
    sendGrant e.req g (if cls = 3 then some b.data else none) none (some (r.src.toNat, r.xtag))
      (setEntry p n { e with sent := true })
  else dropEntry (sendData0 e.req b.data (cls == 3 && op == 1) p) n

/-- The agent a returning message names, for the late count. -/
def lateAgent (p : Plane) (r : Route) (b : Body) : Nat := ownAgent p r.port.toNat b.sub.toNat

/-- RSP.WB_ACK of another module's home ends an eviction of this module: XTAG is its agent tag (R112, R245). -/
def originWbAck (t : Nat) (r : Route) (b : Body) (p : Plane) : Plane :=
  let i := r.port.toNat
  match tfind (port p i).tags r.xtag.toNat with
  | some u =>
    if u.evn ∧ u.sub = b.sub.toNat then
      toPort i (.msg 4 0xB (mkBody r.xtag u.sub 0 0)) (freeTag i r.xtag p)
    else countLateJoin t (lateAgent p r b) 4 0xB p
  | none => countLateJoin t (lateAgent p r b) 4 0xB p

/-- An answer of an old generation: discarded and counted at the tile of the request's port, a grant acknowledged (R283). -/
def oldAnswer (r : Route) (cls op : Nat) (b : Body) (p : Plane) : Plane :=
  countLateJoin (portTile r.port.toNat) (lateAgent p r b) cls op (discardGrant r cls op b p)

/-- A DAT or RSP of another module's home or target reaches this module (R245). The data of an atomic that proceeded past a reset is
still its own (R286). -/
def originAnswer (t : Nat) (r : Route) (cls op : Nat) (b : Body) (p : Plane) : Plane :=
  let n := r.xtag.toNat
  let late := countLateJoin t (lateAgent p r b) cls op
  let old : Bool := (inst p r.inst.toNat).gen != r.gen
  if cls = 4 ∧ op = 0xB then originWbAck t r b p
  else match entry? p n with
  | none => if old then oldAnswer r cls op b p else late p
  | some e =>
    if isAtomic e.req.op ∧ cls = 3 ∧ grantIn cls op b.info = 0 ∧ e.req.port = r.port.toNat ∧ e.rsn = some r.rsn.toNat then
      noteOld e.req.port r.rsn.toNat b.data (op == 1) p
    else if old then oldAnswer r cls op b p
    else if isAtomic e.req.op then late p
    else if e.remote = false ∨ e.sent then late p
    else if e.req.op = .ioRd ∨ e.req.op = .ioWr then
      if cls = 3 then ioAnswered n (.ok (some (b.data, op == 1))) p
      else if op = 9 then ioAnswered n (.error (infoLow8 b.info)) p
      else ioAnswered n (.ok none) p
    else if e.aborted then
      countLate t (lateAgent p r b) cls op (dropEntry (discardGrant r cls op b p) n)
    else if isLineReq e.req.op then deliverLine e n r cls op b p
    else late p

/-- RSP.COMP_ACK of another module's agent: matched by SRC and XTAG (R245); before any grant it is discarded, with the event (R106). -/
def joinAck (t : Nat) (r : Route) (b : Body) (p : Plane) : Plane :=
  match p.jobs.find? fun j => j.who.remote && j.who.node == r.src.toNat && j.who.tag == r.xtag with
  | some j =>
    if j.granted.isSome then ackJob j p
    else raise (tileSrc (lineTile j.line) 13) 0x8A 0 (payOf (homeSpa p j.line).toNat (whoAgent j.who) 0) p
  | none => countLateJoin t (lateAgent p r b) 4 0xA p

/-- A snoop answer of another module's agent reaches the home that asked: the transaction that XTAG names, which awaits that agent,
or under a broadcast that node (R245). -/
def joinSnoopAnswer (r : Route) (b : Body) (x : Ans) (p : Plane) : Option Plane :=
  let a := agentId r.src.toNat r.port.toNat b.sub.toNat
  if spaNode b.addr = p.dw.node then
    (p.jobs.find? fun j => BitVec.ofNat 16 (j.ent.getD j.id) == r.xtag && j.line == spaLine b.addr && j.phase == .running &&
      (j.snoops.contains a || j.nodes.contains r.src.toNat)).map fun j => answer j.id r.src.toNat a x p
  else none

end Sys2Proof.Machine
end

