-- ==== Sys2Proof/Machine/Contain.lean ====
section
/-! DEFINITION. Containment of an agent port, its resume and its detachment, the failure of a join link, and the training of
both (R47, R48, R55, R64, R74 to R77, R178, R240 to R242, R250, R257, R258, R354, R445). -/
namespace Sys2Proof.Machine
open Sys2Proof

/-! ### Clearing perturbation (R354) -/

/-- What engine 3 of a port holds, delivered: a held answer that no longer fits is dropped. -/
def deliverAnswer (i : Nat) (o : Out) (p : Plane) : Plane :=
  match o with
  | .msg 4 0 b => (takeReply i b.tag b.sub.toNat b.info (.snoop .i) p).getD p
  | .msg 4 1 b => (takeReply i b.tag b.sub.toNat b.info (.snoop .s) p).getD p
  | .msg 4 2 b => (takeReply i b.tag b.sub.toNat b.info (.snoop .wbpend) p).getD p
  | .msg 3 0 b => giveCredit i 3 ((takeReply i b.tag b.sub.toNat b.info (.data b.data false) p).getD p)
  | .msg 3 1 b => giveCredit i 3 ((takeReply i b.tag b.sub.toNat b.info (.data b.data true) p).getD p)
  | _ => p

/-- A port's engine cleared: all it holds goes on in arrival order, withheld credits are returned (R354). -/
def clearEngine (i n : Nat) (p : Plane) : Plane :=
  let e := engineOf (port p i) n
  let q := setPort p i (setEngine (port p i) n {})
  if n = 1 then
    setPort q i (returnCredits (port q i) { req := e.keptReq, dat := e.keptDat })
  else if n = 3 then e.held.foldl (fun q x => deliverAnswer i x.2 q) q
  else if n = 0 then
    pump i (e.held.foldl (fun q x => setPort q i (reorder (port q i) x.2)) q)
  else pump i (setPort q i { port q i with txq := (port q i).txq ++ e.held.map (·.2) })

/-- Every engine of a port cleared, and its injection of KIND 3 (R356). -/
def clearPort (i : Nat) (p : Plane) : Plane :=
  let q := [0, 1, 2, 3].foldl (fun q n => clearEngine i n q) p
  setPort q i { port q i with retry := { (port q i).retry with inject := 0 } }

/-- A channel's engine cleared. -/
def clearChan (c : Nat) (p : Plane) : Plane :=
  let x := chan p c
  setChan p c { x with engine := {}, heldRet := [], ret := x.ret ++ x.heldRet.map (·.2) }

/-- A join link's engine cleared: what it holds enters the replay buffer. -/
def clearLink (j : Nat) (p : Plane) : Plane :=
  let l := link p j
  setLink p j { l with engine := {},
                       retry := l.engine.held.foldl (fun r x => sendFlit r x.2) { l.retry with inject := 0 } }

/-- Every engine cleared (R354). -/
def clearAll (p : Plane) : Plane :=
  let q := p.ports.foldl (fun q x => clearPort x.1 q) p
  let q := q.chans.foldl (fun q x => clearChan x.1 q) q
  q.links.foldl (fun q x => clearLink x.1 q) q

/-! ### Containment (R74, R75, R178) -/

/-- A response held for the resume sequence. -/
def holdRsp (i : Nat) (o : Out) (p : Plane) : Plane :=
  setPort p i { port p i with heldRsp := (port p i).heldRsp ++ [o] }

/-- Reason ABORTED for an agent tag. -/
def abortTag (i : Nat) (tag : BitVec 16) (sub : Nat) (p : Plane) : Plane :=
  holdRsp i (.msg 4 9 (mkBody tag sub (infoReason rAborted) 0)) (freeTag i tag p)

/-- A message not yet sent at containment (R75): RSPs and the answers of performed atomics are held, the data of a read
is not; grants, snoops and forwarded requests are settled with their tags. -/
def settleOut (i : Nat) (o : Out) (p : Plane) : Plane :=
  match o with
  | .msg c op b =>
    if c = 4 then (if op = 8 ∧ grantIn 4 8 b.info ≠ 0 then p else holdRsp i o p)
    else if c = 3 then
      if b.mask ≠ fullMask then holdRsp i o p
      else if op = 0 ∧ grantIn 3 0 b.info ≠ 0 then p
      else abortTag i b.tag b.sub.toNat p
    else p
  | _ => p

/-- A message received and not yet taken on (R75): evictions and answers count as received, requests are aborted. -/
def settleRx (i : Nat) (m : BitVec 3 × BitVec 5 × Body) (p : Plane) : Plane :=
  match m.1.toNat, m.2.1.toNat with
  | 0, _ => abortTag i m.2.2.tag m.2.2.sub.toNat p
  | 2, _ => takeEvict i m.2.2 p
  | 4, 8 => (takeReply i m.2.2.tag m.2.2.sub.toNat m.2.2.info .comp p).getD p
  | 4, 9 => (takeReply i m.2.2.tag m.2.2.sub.toNat m.2.2.info (.err (infoLow8 m.2.2.info)) p).getD p
  | 4, 0xA => (takeAck i m.2.2.tag m.2.2.sub.toNat p).getD p
  | _, _ => deliverAnswer i (.msg m.1 m.2.1 m.2.2) p

/-- One hopper entry at containment (Table 07.9). -/
def settleEntry (i : Nat) (e : HopEntry) (p : Plane) : Plane :=
  match e.req.op with
  | .fence =>
    if (hopOf p i).entries.any fun x => x.withdrawn && x.rsn != e.rsn &&
        decide ((x.rsn + 65536 - (hopOf p i).nextRsn) % 65536 < (e.rsn + 65536 - (hopOf p i).nextRsn) % 65536)
    then freeHop i e.rsn (ackEntry i e.rsn (some rAborted) false p) else p
  | .ioWr =>
    if e.ioSent ∨ e.acked then p
    else
      let q := onEntry i e.rsn (fun x => { x with withdrawn := true, st := .accepted })
        (ackEntry i e.rsn (some rAborted) false p)
      match e.ent with
      | none => q
      | some n => dropEntry (onEntry i e.rsn (fun x => { x with ent := none }) q) n
  | _ => if e.acked ∨ e.st = .released then p else withdraw i e rAborted p

/-- A read of the port at containment (R75): held in the hopper, at a home here, at a home elsewhere, or forwarded. -/
def settleRead (i : Nat) (held : List Nat) (n : Nat) (e : Entry) (p : Plane) : Plane :=
  let q := abortTag i e.req.tag e.req.sub p
  if held.contains n then dropEntry q n
  else if e.remote then
    if e.sent then
      let u := (tfind (port p i).tags e.req.tag.toNat).bind (·.home)
      match u with
      | some h => ackOver i e.req.sub h.1 h.2 q
      | none => dropEntry q n
    else setEntry q n { e with aborted := true }
  else
    match q.jobs.find? fun j => j.ent == some n && (match j.kind with
      | .req _ => true
      | _ => false) with
    | none => dropEntry q n
    | some j =>
      let q := setEntry q n { e with aborted := true }
      if j.granted.isSome then finish j.id (dirAfter j (setJob q { j with noCopy := true }))
      else setJob q { j with noCopy := true }

/-- The port's requests with a transaction entry that are no stores. -/
def readEntries (p : Plane) (i : Nat) : List (Nat × Entry) :=
  p.entries.filter fun x => !x.2.join && x.2.req.port == i && !hopNeed x.2.req.op

/-- A port enters CONTAINED (R74, R75, R173, R178, R354, R367). -/
def contain (i : Nat) (reason : BitVec 8) (p : Plane) : Plane :=
  let p0 := clearPort i p
  let pt := port p0 i
  if pt.state ≠ .active ∧ pt.state ≠ .retraining then p
  else
    let held := pt.hop.held.map (·.1)
    let blank : Retry := { freshRetry pt.retry with txSeq := pt.retry.txSeq, rxSeq := pt.retry.rxSeq, rxAny := pt.retry.rxAny,
                                                    wire := pt.retry.wire }
    let q := setPort p0 i
      { pt with state := .contained, step := 1, width := 0, attach := pt.attach + 1, reason := reason,
                contains := pt.contains + 1, levels := [], rx := [], txq := [], tContain := p.clock,
                retry := if reason = cLinkFault then blank else sendFlit blank (.ctrl (containNotice reason)) }
    let q := pt.txq.foldl (fun q o => settleOut i o q) q
    let q := pt.rx.foldl (fun q m => settleRx i m q) q
    let ws := q.waits.filter fun (r : Req) => r.port == i
    let q := ws.foldl (fun q (r : Req) => abortTag i r.tag r.sub q)
      { q with waits := q.waits.filter fun (r : Req) => !(r.port == i) }
    let q := (hopOf q i).entries.foldl (fun q e => settleEntry i e q) q
    let q := releaseSweep i (setHop q i { hopOf q i with held := [] })
    let q := (readEntries q i).foldl (fun q x => settleRead i held x.1 x.2 q) q
    let q := setPort q i { port q i with tags := (port q i).tags.filter fun x => x.2.evn || (port q i).hop.entries.any fun e =>
      e.req.tag.toNat == x.1 && !e.acked }
    let q := orphanAll (fun pos _ => pos / 8 == i) q
    raise (tileSrc (portTile i) (i % 8)) 4 (reason.setWidth 32) 0 (updPanic i q)

/-- Containment after which only the full training that LINK_TRAIN asked for remains: reason HOST (R444). -/
def containHost (i : Nat) (p : Plane) : Plane := contain i cHost p

/-! ### Detachment (R77) -/

/-- A module tag of a port that has gone: its snoops answered RSP.I, its forwarded I/O ABORTED. -/
def detachTag (i : Nat) (m : ModTag) (p : Plane) : Plane :=
  match m.use with
  | .flush => p
  | .io ent => ioEnd ent (.error rAborted) p
  | .ioRemote r => ioOver r i m.body.sub.toNat m.body.addr (.error rAborted) p
  | _ => (useReply i m m.body.sub.toNat 0 (.snoop .i) p).getD p

/-- Poison written into the home copy of a line whose owner is gone (R77); a running transaction carries it instead. -/
def poisonHome (line : Nat) (cls : BitVec 2) (p : Plane) : Plane :=
  match p.jobs.find? fun j => j.line == line && j.phase == .running with
  | some j => setJob p { j with poison := true }
  | none => writeHome { id := 0, kind := .binv none, line := line, cls := cls } false 0 true p

/-- A directory entry without a port's sub-agents. Under a running transaction an entry left empty stays that transaction's. -/
def stripDir (p : Plane) (i : Nat) (k : Nat) (e : DirEntry) (q : Plane) : Plane :=
  let mine := fun a => a / 256 == p.dw.node && a / 8 % 32 == i
  if e.coarse ∨ !(e.ptrs.any mine) then q
  else
    let line := dLine (k / 16 / 131072) (k / 16 % 131072) e
    let left := if e.owned then [] else e.ptrs.filter fun a => !(mine a)
    let q := if e.owned then poisonHome line e.cls q else q
    if left.isEmpty && !(q.jobs.any fun j => j.line == line && j.phase == .running) then dirFree q line
    else dirPut q line (k % 16) { e with owned := false, ptrs := left }

/-- A port becomes DETACHED (R77): its held responses, pointers and owned lines are gone. -/
def detach (i : Nat) (p : Plane) : Plane :=
  let pt := port p i
  let q := setPort p i { pt with state := .detached, step := 0, heldRsp := [], txq := [], rx := [], tags := [], mtags := [],
                                 tagWait := [], lateTags := [], retry := freshRetry pt.retry }
  let q := q.dir.foldl (fun r x => stripDir q i x.1 x.2 r) { q with lats := q.lats.filter fun x => x.1 != i }
  let q := (pt.mtags.map (·.2) ++ pt.tagWait).foldl (fun q m => detachTag i m q) q
  raise (tileSrc (portTile i) (i % 8)) 5 0 0 (updPanic i q)

/-! ### Resume (R76) -/

/-- The snoops and forwarded requests not yet answered, as they are sent again. -/
def unanswered (pt : Port) : List Out := pt.mtags.map fun x => .msg x.2.cls x.2.op x.2.body

/-- A full training ends: an ordinary start, the resume sequence of a CONTAINED port, or FRESH 1 of a DETACHED one. -/
def startPort (i width : Nat) (p : Plane) : Plane :=
  let pt := port p i
  let base := { pt with state := .active, step := 0, width := width, retry := { pt.retry with badCw := 0, failed := 0 } }
  match pt.state with
  | .contained =>
    raise (tileSrc (portTile i) (i % 8)) 6 0 0
      (pump i (setPort p i { base with heldRsp := [], tags := [],
                                       txq := pt.heldRsp ++ [.ctrl (resumeDone false)] ++ unanswered pt }))
  | .detached =>
    raise (tileSrc (portTile i) (i % 8)) 6 0 0
      (pump i (setPort p i { base with tags := [], mtags := [], heldRsp := [], txq := [.ctrl (resumeDone true)] }))
  | _ => setPort p i { base with tags := [], mtags := [], heldRsp := [], txq := [], rx := [] }

/-! ### Join links: failure and start (R241, R242, R257, R258) -/

/-- The messages of a replay buffer that come after a sequence number, sent afresh with ALT set (R259). -/
def resent (dst : Nat) (seq : Nat) (rs : List (Nat × Out)) : List Fwd :=
  let after := if rs.any (fun x => x.1 == seq) then (rs.dropWhile fun x => x.1 != seq).drop 1 else rs
  after.filterMap fun x => match x.2 with
    | .join r g cls op b =>
      some { route := { r with alt := true, hops := r.hops - 1, dst := if r.mcast then BitVec.ofNat 14 dst else r.dst },
             groups := g, cls := cls, op := op, body := b }
    | _ => none

/-- The peer's notice is in: what the peer has not accepted leaves again on other links (R258, R259). -/
def resendStale (j seq : Nat) (p : Plane) : Plane :=
  let l := link p j
  let q := setLink p j { l with failPend := false, stale := [], early := none }
  { q with dw := { q.dw with out := q.dw.out ++ resent l.peerNode seq l.stale } }

/-- The event of a FAILED link (Table 14.3). -/
def failEvent (j : Nat) (p : Plane) : Plane :=
  raise (tileSrc (linkTile j) (8 + j % 4)) 4 (BitVec.ofNat 32 (link p j).peerNode) 0 p

/-- A join link becomes FAILED: its perturbation cleared, the failover notice on its way to the peer, whose own notice may have
come already. A link in TRAINING has nothing to move to another link. -/
def failLink (j : Nat) (p : Plane) : Plane :=
  let q := clearLink j p
  let l := link q j
  match l.state with
  | .training => failEvent j (setLink q j { l with state := .failed, step := 0, width := 0 })
  | .active | .retraining =>
    let last := (l.retry.rxSeq + 1023) % 1024
    let q := setLink q j { l with state := .failed, step := 0, width := 0, failPend := true, lastSeq := last,
                                  stale := l.stale ++ l.retry.replay, retry := { l.retry with replay := [] } }
    let q := toNode (baseRoute q l.peerNode 0 0) 4 0x1B (mkBody 0 0 (BitVec.ofNat 18 (j + 16 * last)) 0) q
    failEvent j (match l.early with
      | none => q
      | some seq => resendStale j seq q)
  | _ => p

/-! ### Training (R47, R48, R64, R240, R445) -/

/-- A training of a port starts at step 1: its replay buffers, numbers and engines cleared (R48, R354). -/
def trainPort (i : Nat) (p : Plane) : Plane :=
  let q := clearPort i p
  setPort q i { port q i with step := 1 }

/-- Signal found on lane 0 of a port that waits at step 1: a full training runs. -/
def detectPort (i : Nat) (p : Plane) : Plane :=
  let pt := port p i
  if pt.step ≠ 1 then p
  else setPort p i { pt with step := 2, state := if pt.state = .down then .training else pt.state,
                             retry := sendSyncs (freshRetry pt.retry) }

/-- A training of a port begins again at step 1 (R445); a failed retrain is made again, and the third in succession is a
link fault (R55). -/
def stepFailPort (i : Nat) (p : Plane) : Plane :=
  let pt := port p i
  match pt.state with
  | .retraining =>
    if 2 ≤ pt.retry.failed then contain i cLinkFault p
    else setPort p i { pt with retry := { pt.retry with failed := pt.retry.failed + 1 } }
  | .active => p
  | _ =>
    if pt.step = 2 ∨ pt.step = 6 ∨ pt.step = 7 then
      setPort p i { pt with step := 1, state := if pt.state = .training then .down else pt.state }
    else p

/-- The same of a join link, which stays in TRAINING (R241). -/
def stepFailLink (j : Nat) (p : Plane) : Plane :=
  let l := link p j
  match l.state with
  | .retraining =>
    if 2 ≤ l.retry.failed then failLink j p
    else setLink p j { l with retry := { l.retry with failed := l.retry.failed + 1 } }
  | .training => if l.step = 2 ∨ l.step = 7 then setLink p j { l with step := 1 } else p
  | _ => p

/-- The agent's PARAM (R64, R70): VERSION, presence and credits. The module's own PARAM, whose EVN credits depend on the presence,
goes out with the first. A PARAM at any other time is ignored: the spec says nothing of one (log 86). -/
def takeParam (i : Nat) (w : Slot) (p : Plane) : Plane :=
  let pt := port p i
  let pres : BitVec 8 := w.extractLsb' 104 8
  let cach : BitVec 8 := w.extractLsb' 96 8
  let have_ : Credits := { req := (w.extractLsb' 48 16).toNat, snp := (w.extractLsb' 32 16).toNat,
                           evn := (w.extractLsb' 16 16).toNat, dat := (w.extractLsb' 0 16).toNat }
  if pt.step ≠ 2 ∧ pt.step ≠ 6 then p
  else if w.extractLsb' 112 8 ≠ (1 : BitVec 8) then
    raise (tileSrc (portTile i) (i % 8)) 3 0 0
      (setPort p i { pt with step := 0, state := if pt.state = .training then .down else pt.state })
  else
    let retry := if pt.step = 2 then sendFlit pt.retry (.ctrl (moduleParam pres)) else pt.retry
    if have_.snp < 8 * countBits cach 8 ∨ have_.dat < 16 ∨ have_.req < 4 then
      raise (tileSrc (portTile i) (i % 8)) 2 0 0 (setPort p i { pt with step := 6, retry := retry })
    else
      setPort p i { pt with step := 7, present := pres, caching := cach, levels := [], have_ := have_, owed := {},
                            given := { req := 192, evn := 8 * countBits pres 8, dat := 64 }, retry := retry }

/-- The peer's JPARAM (R242, R250). -/
def takeJparam (j : Nat) (w : Slot) (p : Plane) : Plane :=
  let l := link p j
  let node := (w.extractLsb' 98 14).toNat
  let c : Credits := { req := (w.extractLsb' 60 12).toNat, snp := (w.extractLsb' 48 12).toNat,
                       evn := (w.extractLsb' 36 12).toNat, dat := (w.extractLsb' 24 12).toNat,
                       rsp := (w.extractLsb' 12 12).toNat, rel := (w.extractLsb' 0 12).toNat }
  let g : Credits := { req := 64, snp := 64, evn := 64, dat := 64, rsp := 128, rel := 128 }
  let src := tileSrc (linkTile j) (8 + j % 4)
  if l.state ≠ .training ∨ l.step ≠ 2 then p
  else if node = p.dw.node then raise src 1 (BitVec.ofNat 32 node) 0 p
  else if l.expect.isSome ∧ l.expect ≠ some node then raise src 2 (BitVec.ofNat 32 node) 0 p
  else if w.extractLsb' 112 8 ≠ (1 : BitVec 8) ∨ c.req < 16 ∨ c.snp < 16 ∨ c.evn < 16 ∨ c.dat < 16 ∨ c.rsp < 16 ∨ c.rel < 16
  then raise src 3 (BitVec.ofNat 32 node) 0 p
  else
    setLink p j { l with step := 7, peerNode := node, peerLink := (w.extractLsb' 94 4).toNat, haveA := c, haveB := c,
                         givenA := g, givenB := g,
                         owedA := {}, owedB := {} }

/-- Retry after a retrain resumes from the first unacknowledged flit (R48); RETRY_REQs that name one number go on being counted
(R55). -/
def afterRetrain (r : Retry) : Retry :=
  resendAll r.replay (repeatSyncs { r with badCw := 0, failed := 0, waiting := false })

/-- The width that step 3 chooses (R47): the widest of Table 03.1 whose lanes all passed step 2, capped by the peer's maximum and
the module's own 8; 0 where lane 0 has failed. -/
def chosenWidth (lanes : BitVec 8) (peerMax : Nat) : Nat :=
  (([8, 4, 2, 1].filter fun w => decide (w ≤ peerMax) && (List.range w).all fun k => lanes.getLsbD k).head?).getD 0

/-- A port's training or retrain ends at a width; width 0 is a failure of lane 0 at step 3 (R47, R48). -/
def endTrainPort (i width : Nat) (p : Plane) : Plane :=
  let pt := port p i
  match pt.state with
  | .retraining =>
    if width = 0 then stepFailPort i p
    else pump i (setPort p i (returnCredits { pt with state := .active, width := width, retrains := pt.retrains + 1,
                                                      retry := afterRetrain pt.retry } {}))
  | .active => p
  | _ =>
    if width = 0 then
      if pt.step = 2 then setPort p i { pt with step := 8, state := if pt.state = .training then .down else pt.state } else p
    else if pt.step = 7 then startPort i width p else p

/-- A join link's training or retrain ends. -/
def endTrainLink (j width : Nat) (p : Plane) : Plane :=
  let l := link p j
  match l.state with
  | .retraining =>
    if width = 0 then stepFailLink j p
    else setLink p j (returnJoin true {} (returnJoin false {} { l with state := .active, width := width,
                                                                       retrains := l.retrains + 1,
                                                                       retry := afterRetrain l.retry }))
  | .training =>
    if width = 0 then (if l.step = 2 then setLink p j { l with step := 8 } else p)
    else if l.step = 7 then setLink p j { l with state := .active, step := 0, width := width }
    else p
  | _ => p

/-- A retrain starts on an ACTIVE port or link (R48). -/
def retrainPort (i : Nat) (p : Plane) : Plane :=
  let pt := port p i
  if pt.state = .active then setPort p i { pt with state := .retraining, width := 0 } else p
def retrainLink (j : Nat) (p : Plane) : Plane :=
  let l := link p j
  if l.state = .active then setLink p j { l with state := .retraining, width := 0 } else p

end Sys2Proof.Machine
end

