-- ==== Sys2Proof/Machine/Join.lean ====
section
/-! DEFINITION. The Drayway: which link a message leaves on, sending on it, messages in transit, multicast copies, and
failover (R243 to R262). -/
namespace Sys2Proof.Machine
open Sys2Proof

/-! ### Sending (R248, R254) -/

/-- The link a message for a node leaves on, its dateline bit, and whether it is the alternate (R248, R254). -/
def chooseLink (p : Plane) (dst : Nat) (vcb : Bool) : Option (Nat × Bool × Bool) :=
  let r := routeOf p dst
  if rtValid r = false then none
  else if (link p (rtPrim r)).state = .active then some (rtPrim r, rtDlP r, false)
  else if rtAltEn r ∧ (link p (rtAlt r)).state = .active ∧ ¬(vcb ∧ rtDlA r) then some (rtAlt r, rtDlA r, true)
  else none

/-- The link of a message: that of a multicast copy while it is ACTIVE, else the one its destination gives. -/
def linkOf (p : Plane) (f : Fwd) : Option (Nat × Bool × Bool) :=
  match f.link with
  | some l =>
    if (link p l).state = .active then
      some (l, (tget 0 p.dw.mcast (mcastKey f.route.src.toNat l)).getLsbD 64, false)
    else chooseLink p f.route.dst.toNat f.route.vcb
  | none => chooseLink p f.route.dst.toNat f.route.vcb

/-- Credits held for a VC of a link. -/
def joinHave (l : JLink) (vcb : Bool) : Credits := if vcb then l.haveB else l.haveA

/-- The link can take a message of a class and VC now (R52, R249). -/
def joinReady (l : JLink) (cls : Nat) (vcb : Bool) : Bool :=
  l.state == .active && decide (l.retry.replay.length < 512) && decide (0 < credit (joinHave l vcb) cls)

/-- Engine 5 delays the message (R351). -/
def jittered (cls op : Nat) : Bool := !(cls == 1 || cls == 5 || (cls == 0 && (op == 0x18 || op == 0x19)))

/-- A message put on a link: its credit used, held by the jitter engine or numbered in the replay buffer. -/
def putOnLink (j : Nat) (o : Out) (cls op : Nat) (vcb : Bool) (p : Plane) : Plane :=
  let l := link p j
  let c := joinHave l vcb
  let c' := withCredit c cls (credit c cls - 1)
  let l := if vcb then { l with haveB := c' } else { l with haveA := c' }
  let d := if jittered cls op then delayE l.engine else (0, l.engine)
  let l := if d.1 = 0 then { l with engine := d.2, retry := sendFlit l.retry o }
    else { l with engine := { d.2 with held := d.2.held ++ [(d.1, o)] } }
  occur (linkTile j) 0x6001 (outOcc p 0 o) (setLink p j l)

/-- Outcome of an attempt to send a message onward. -/
inductive Sent where
  | no
  | unreachable
  | yes (p : Plane)

/-- The PANIC bit of a message that leaves (R196): on a request or release of this module, its port's panic as it leaves; on any other
the bit it carries. -/
def leavePanic (p : Plane) (f : Fwd) : Bool :=
  if f.route.src.toNat ≠ p.dw.node then f.route.panic
  else if f.cls = 0 then match entry? p f.route.xtag.toNat with
    | none => f.route.panic
    | some e => inPanic (port p e.req.port)
  else if f.cls = 5 then inPanic (port p f.route.port.toNat)
  else f.route.panic

/-- A message sent towards another node if its link can take it; discarded at the hop limit (R254). -/
def sendOn (f : Fwd) (p : Plane) : Sent :=
  match linkOf p f with
  | none => .unreachable
  | some (j, dl, alt) =>
    let vcb := f.route.vcb || dl
    let cls := f.cls.toNat
    if f.route.hops = 255 then
      let l := link p j
      .yes (raise 25 (BitVec.ofNat 16 (cls * 32 + f.op.toNat)) (BitVec.ofNat 32 j) (payOf f.body.addr.toNat 0 0)
        (setLink p j { l with hopDrops := min 65535 (l.hopDrops + 1) }))
    else if joinReady (link p j) cls vcb then
      let r := { f.route with hops := f.route.hops + 1, vcb := vcb, alt := f.route.alt || alt,
                              panic := leavePanic p f }
      let q := putOnLink j (.join r f.groups f.cls f.op (cleanBody true f.cls f.op f.body)) cls f.op.toNat vcb p
      let q := if alt then occur (linkTile j) 0x6003 { msg := some (cls, f.op.toNat) } q else q
      .yes (match f.io with
        | none => q
        | some x => match hopEntry q x.1 x.2 with
          | none => q
          | some e => if e.req.ack = 1 then ackEntry x.1 x.2 none false q else q)
    else .no

/-- The unreachable event, once for each destination and management epoch (R254). -/
def noteUnreach (dst : Nat) (p : Plane) : Plane :=
  if p.dw.unreach.contains dst then p
  else raise 24 0 (BitVec.ofNat 32 dst) 0 { p with dw := { p.dw with unreach := p.dw.unreach ++ [dst] } }

/-- Message `k` of those created here is sent if it can be. -/
def forwardOwn (k : Nat) (p : Plane) : Plane :=
  match p.dw.out[k]? with
  | none => p
  | some f =>
    match sendOn f { p with dw := { p.dw with out := p.dw.out.eraseIdx k } } with
    | .no => p
    | .unreachable => noteUnreach f.route.dst.toNat p
    | .yes q => q

/-- A received message is for another node. -/
def inTransit (p : Plane) : Out → Bool
  | .join r _ _ _ _ => r.dst.toNat != p.dw.node
  | _ => false

/-- The `k`-th message in transit in a link's receive buffer is sent on if it can be, and its credit returned (R251). -/
def forwardFrom (j k : Nat) (p : Plane) : Plane :=
  let l := link p j
  match (l.rx.filter (inTransit p))[k]? with
  | some (.join r g cls op b) =>
    let q := setLink p j { l with rx := l.rx.erase (.join r g cls op b) }
    match sendOn { route := r, groups := g, cls := cls, op := op, body := b } q with
    | .no => p
    | .unreachable => noteUnreach r.dst.toNat p
    | .yes q => giveJoin j cls.toNat r.vcb q
  | _ => p

/-! ### Receiving (R243, R249, R251) -/

/-- Credits given for a VC of a link. -/
def joinGiven (l : JLink) (vcb : Bool) : Credits := if vcb then l.givenB else l.givenA

/-- A message received on a link: a credit used, or a protocol error, which makes the link FAILED (R241). -/
def joinTake (j : Nat) (o : Out) (cls : Nat) (vcb : Bool) (p : Plane) : Option Plane :=
  let l := link p j
  if l.state ≠ .active then none
  else if credit (joinGiven l vcb) cls = 0 then none
  else
    let c := withCredit (joinGiven l vcb) cls (credit (joinGiven l vcb) cls - 1)
    some (occur (linkTile j) 0x6002 (outOcc p 0 o)
      (setLink p j (if vcb then { l with givenB := c } else { l with givenA := c })))

/-- A message of a link that a command names: taken from the receive buffer, or received now. One for another node stays
in the buffer until MESSAGE_FORWARD sends it on. -/
def recvJoin (j : Nat) (r : Route) (g : BitVec 64) (cls : BitVec 3) (op : BitVec 5) (b : Body) (k : Plane → Plane)
    (p : Plane) : Plane :=
  let o := Out.join r g cls op b
  let l := link p j
  if r.dst.toNat ≠ p.dw.node then
    if l.rx.contains o then p
    else match joinTake j o cls.toNat r.vcb p with
      | some q => setLink q j { link q j with rx := (link q j).rx ++ [o] }
      | none => failLink j p
  else if l.rx.contains o then k (setLink p j { l with rx := l.rx.erase o })
  else match joinTake j o cls.toNat r.vcb p with
    | some q => k q
    | none => failLink j p

/-! ### What messages of a link do here (R251, R266) -/

/-- A REQ for this node: forwarded I/O to its target, any other to its home through a pool entry. During
a drain it waits in the link buffer (R419). -/
def joinReq (j : Nat) (r : Route) (op : ReqOp) (b : Body) (p : Plane) : Plane :=
  if drainOn p then
    setLink p j { link p j with rx := (link p j).rx ++ [.join r 0 0 (BitVec.ofNat 5 (reqCode op)) b] }
  else if isIo op then
    if !present p.dw.cur p.dw.node then
      ioOver r r.port.toNat b.sub.toNat b.addr (.error rNodeAbsent) (giveJoin j 0 r.vcb p)
    else match ioToPort r.port.toNat b.sub.toNat (.ioRemote r) op b p with
      | some q => { q with joinHeld := q.joinHeld ++ [(j, 0, r.vcb, [.ioRemote r])] }
      | none => ioOver r r.port.toNat b.sub.toNat b.addr (.error rAborted) (giveJoin j 0 r.vcb p)
  else
    let t := lineTile (spaLine b.addr)
    let q := fun w => { p with joinWait := p.joinWait ++ [(j, r, op, b, w)] }
    match pickAdmit (q none) t with
    | some (.join ent) => admitJoin t ent (q none)
    | _ => occur t 0x7002 (joinOcc r op b) (q (some p.clock))

/-- An eviction for this node; a queued one keeps its credit until it starts or is sunk. -/
def joinEvict (j : Nat) (r : Route) (b : Body) (p : Plane) : Plane :=
  let id := p.nextJob
  let q := arriveEvict (spaLine b.addr)
    { node := r.src.toNat, port := r.port.toNat, sub := b.sub.toNat, remote := true, tag := r.xtag, hops := r.hops.toNat }
    b.data (b.info.getLsbD 0) p
  match job? q id with
  | some x => if x.phase = .queued then { q with evHeld := q.evHeld ++ [(id, j, r.vcb)] } else giveJoin j 2 r.vcb q
  | none => giveJoin j 2 r.vcb q

/-- A precise snoop for an agent of this node (R251). -/
def joinSnoop (j : Nat) (r : Route) (shared : Bool) (b : Body) (p : Plane) : Plane :=
  let pt := port p r.port.toNat
  if snoopable pt && pt.caching.getLsbD b.sub.toNat then
    let q := sendSnoop r.port.toNat b.sub.toNat shared b.addr (.remote r) p
    { q with joinHeld := q.joinHeld ++ [(j, 1, r.vcb, [.remote r])] }
  else answerOver r r.port.toNat b.sub.toNat 0 b.addr .i (giveJoin j 1 r.vcb p)

/-- This node is present in the map of an epoch (R261, R265). -/
def presentIn (p : Plane) (epoch : Nat) : Bool :=
  if epoch = p.dw.curEp then present p.dw.cur p.dw.node
  else if epoch = p.dw.prevEp then present p.dw.prev p.dw.node
  else match p.dw.pend with
    | some (_, ep, m) => if epoch = ep then present m p.dw.node else present p.dw.cur p.dw.node
    | none => present p.dw.cur p.dw.node

/-- A multicast copy: sent on down the tree, and delivered here where this node lies in a marked group (R261). -/
def joinCopy (j : Nat) (r : Route) (g : BitVec 64) (shared : Bool) (b : Body) (p : Plane) : Plane :=
  let q := copiesOut r g (if shared then 0 else 1) b p
  let here := g.getLsbD (q.dw.node / 256) && presentIn q r.epoch.toNat
  let q := { q with joinHeld := q.joinHeld ++ [(j, 1, r.vcb, .remote r :: if here then [.gather q.nextGather] else [])] }
  if here then deliverCoarse none (some r) shared b.addr q else q

/-- A DAT or RSP for this node: counted where it answers a snoop, else delivered to the request it answers. -/
def joinAnswer (j : Nat) (r : Route) (cls op : Nat) (b : Body) (x : Option Ans) (p : Plane) : Plane :=
  let q := giveJoin j cls r.vcb p
  match x.bind fun y => joinSnoopAnswer r b y q with
  | some q => q
  | none => originAnswer (linkTile j) r cls op b q

/-- REL.RELEASE for this node; while the tile's buffer is full one that would need it stays where it is (R165, R251). -/
def joinRelease (j : Nat) (r : Route) (b : Body) (p : Plane) : Plane :=
  applyRelease r.src.toNat r.port.toNat r.rsn.toNat (spaLine b.addr) (b.info.getLsbD 0) r.panic (giveJoin j 5 r.vcb p)

/-- The tile's release buffer has room, or the release needs none (R165). -/
def relRoom (p : Plane) (r : Route) (b : Body) : Bool :=
  decide ((p.relBuf.filter fun x => x.tile == lineTile (spaLine b.addr)).length < 4096) ||
    p.ended.contains (r.src.toNat, r.port.toNat, r.rsn.toNat) ||
    p.jobs.any fun j => j.who.node == r.src.toNat && j.who.port == r.port.toNat && j.who.rsn == r.rsn.toNat &&
      jobStore j

/-- A notice of Table 10.2 for a hopper entry of this node; one that names none is late (R245). -/
def joinNotice (j : Nat) (r : Route) (op : Nat) (b : Body) (f : Nat → Nat → Plane → Plane) (p : Plane) : Plane :=
  let q := giveJoin j 4 r.vcb p
  if (hopEntry q r.port.toNat r.rsn.toNat).isSome then f r.port.toNat r.rsn.toNat q
  else countLateJoin (linkTile j) (lateAgent q r b) 4 op q

/-- The peer's failover notice (R259). One that comes before this end has found the link FAILED is kept until it does (R258). -/
def joinFailover (j : Nat) (r : Route) (b : Body) (p : Plane) : Plane :=
  let q := giveJoin j 4 r.vcb p
  let k := (b.info.extractLsb' 0 4).toNat
  let seq := (b.info.extractLsb' 4 10).toNat
  match q.links.find? fun x => x.2.peerNode == r.src.toNat && x.2.peerLink == k &&
      (x.2.failPend || x.2.state == .active || x.2.state == .retraining) with
  | none => q
  | some x => if x.2.failPend then resendStale x.1 seq q else setLink q x.1 { x.2 with early := some seq }

/-! ### Notices of this module's own tile network (R165) -/

/-- The notice of a kind for a hopper entry, taken off the tile network. -/
def takeNotice (kind i rsn : Nat) (p : Plane) : Option (Notice × Plane) :=
  match p.notices.find? fun n => n.kind == kind && n.port == i && n.rsn == rsn with
  | none => none
  | some n => some (n, { p with notices := p.notices.erase n })

/-- REL.RELEASE of this module reaches its home here; a withdrawal whose store has failed meanwhile finds nothing (R179). -/
def ownRelease (i rsn : Nat) (p : Plane) : Plane :=
  match takeNotice 0 i rsn p, hopEntry p i rsn with
  | some x, some e => applyRelease p.dw.node i rsn (spaLine e.spa) x.1.withdraw false x.2
  | some x, none => x.2
  | none, _ => p

/-- An acceptance, visibility or failure notice of a home here reaches its hopper. -/
def ownNotice (kind i rsn : Nat) (p : Plane) : Plane :=
  match takeNotice kind i rsn p with
  | none => p
  | some x =>
    if kind = 1 then noteAccepted i rsn x.2
    else if kind = 2 then noteVisible i rsn x.1.reason x.1.old x.2
    else noteFailed i rsn x.2

end Sys2Proof.Machine
end

