-- ==== Sys2Proof/Machine/Flit.lean ====
section
/-! DEFINITION. The flit layer: which flits are accepted, link-level retry, retrain thresholds, and the messages an accepted
flit brings (R49 to R55, R65, R240, R241). -/
namespace Sys2Proof.Machine
open Sys2Proof

/-! ### Retry state of either kind of link -/

def retryOf (p : Plane) : LinkEnd → Retry
  | .port i => (port p i).retry
  | .join j => (link p j).retry
def setRetry (p : Plane) (e : LinkEnd) (r : Retry) : Plane :=
  match e with
  | .port i => setPort p i { port p i with retry := r }
  | .join j => setLink p j { link p j with retry := r }
/-- The tile of a link. -/
def endTile : LinkEnd → Nat
  | .port i => portTile i
  | .join j => linkTile j
/-- The link is ACTIVE. -/
def endActive (p : Plane) : LinkEnd → Bool
  | .port i => (port p i).state == .active
  | .join j => (link p j).state == .active
/-- A link fault: containment with LINK_FAULT, or FAILED (R55, R241). -/
def linkFault (e : LinkEnd) (p : Plane) : Plane :=
  match e with
  | .port i => contain i cLinkFault p
  | .join j => failLink j p

/-- A retry threshold of R55: the link retrains in hardware mode; in host-assisted mode a port raises its event. -/
def retryThreshold (e : LinkEnd) (p : Plane) : Plane :=
  match e with
  | .port i => if hostMode p fmLink then raise (tileSrc (portTile i) (i.val % 8)) 1 0 0 p else retrainPort i p
  | .join j =>
    if hostMode p fmLink then
      raise (tileSrc (linkTile j) (8 + j.val % 4)) (BitVec.ofNat 16 (Config.freeNat p.draw))
        (BitVec.ofNat 32 (link p j).peerNode) 0 (draw1 p)
    else retrainLink j p

/-- What a count of RETRY_REQs that name one number leads to: a link fault at 1,024; a retrain at each eighth in hardware mode, and
the event at the eighth in host-assisted mode, in which the link keeps retrying (R55). -/
def retryCount (e : LinkEnd) (n : Nat) (p : Plane) : Plane :=
  if n = 1024 then linkFault e p
  else if n = 8 ∨ (n % 8 = 0 ∧ hostMode p fmLink = false) then retryThreshold e p
  else p

/-- RETRY_REQ sent for the flit expected (R53). -/
def sendRetryReq (e : LinkEnd) (p : Plane) : Plane :=
  let r := retryOf p e
  let q := setRetry p e { sendRetryFlit r with waiting := true, rxReqs := r.rxReqs + 1, sentReqs := r.sentReqs + 1 }
  retryCount e (r.rxReqs + 1) (match e with
    | .port i => occur (portTile i) 0x0003 {} q
    | .join _ => q)

/-- The flit is discarded; RETRY_REQ is sent unless the awaited flit has been asked for already (R53). -/
def rejectFlit (e : LinkEnd) (p : Plane) : Plane := if (retryOf p e).waiting then p else sendRetryReq e p

/-- RETRY_REQ received: every flit from the number named is sent again; a number not in the replay buffer is a link fault
(R54). -/
def recvRetryReq (e : LinkEnd) (seq : Nat) (p : Plane) : Plane :=
  let r := retryOf p e
  if r.replay.any fun x => x.1 == seq then
    let n := if r.txReqs ≠ 0 ∧ r.txReqSeq = seq then r.txReqs + 1 else 1
    retryCount e n (setRetry p e { resendAll (replayFrom r seq) r with txReqSeq := seq, txReqs := n })
  else linkFault e p

/-- Uncorrectable codewords counted; more than 16 in a management epoch are a threshold (R55). -/
def badCodewords (e : LinkEnd) (n : Nat) (p : Plane) : Plane :=
  let r := retryOf p e
  let q := setRetry p e { r with badCw := r.badCw + n, cwTotal := min (2 ^ 32 - 1) (r.cwTotal + n) }
  let q := match e with
    | .port i => occurN (portTile i) 0x0004 {} n q
    | .join _ => q
  if r.badCw ≤ 16 ∧ 16 < r.badCw + n then retryThreshold e q else q

/-! ### Messages of an agent link (Table 03.11) -/

/-- What is wrong with a received message before its tag is looked at: its code, direction or sub-agent, or its credit. Where one message
breaks several conditions of Table 03.11, the first in this order gives the reason (log 101). -/
def badMessage (pt : Port) (cls : BitVec 3) (op : BitVec 5) (b : Body) : Option (BitVec 8) :=
  if (agentSlots cls op).isNone ∨ fromAgent cls op = false ∨ pt.present.getLsbD b.sub.toNat = false then some cBadMessage
  else if cls = 2 ∧ pt.caching.getLsbD b.sub.toNat = false then some cBadMessage
  else if (cls = 0 ∨ cls = 2 ∨ cls = 3) ∧ credit pt.given cls.toNat = 0 then some cCredit
  else none

/-- A received message counted and its credit used. -/
def takeMessage (i : Nat) (cls : BitVec 3) (op : BitVec 5) (b : Body) (p : Plane) : Plane :=
  let pt := port p i
  let q := occur (portTile i) 0x0001 (bodyOcc p i cls.toNat op.toNat b) p
  if 4 ≤ cls.toNat then q
  else setPort q i { port q i with given := withCredit pt.given cls.toNat (credit pt.given cls.toNat - 1) }

/-- A message of an agent that a command names: taken from the receive buffer, or received now; a port that is not ACTIVE
sinks nothing new (R74). -/
def recvPort (i : Nat) (cls : BitVec 3) (op : BitVec 5) (b : Body) (k : Plane → Plane) (p : Plane) : Plane :=
  let pt := port p i
  if pt.rx.contains (cls, op, b) then k (setPort p i { pt with rx := pt.rx.erase (cls, op, b) })
  else if pt.state ≠ .active then p
  else match badMessage pt cls op b with
    | some r => contain i r p
    | none => k (takeMessage i cls op b p)

/-! ### Messages of an accepted flit -/

/-- The message at slot `n` of an agent's MSG flit. One whose slots would run past slot 14 is a bad message: Table 03.11 does not list it
(log 100). -/
def flitMessage (i : Nat) (f : Flit) (p : Plane) (n : Nat) : Plane :=
  let pt := port p i
  if pt.state ≠ .active then p
  else match agentMsgAt f n with
    | none => contain i cBadMessage p
    | some m =>
      match badMessage pt m.1 m.2.1 m.2.2 with
      | some r => contain i r p
      | none =>
        let q := takeMessage i m.1 m.2.1 m.2.2 p
        setPort q i { port q i with rx := (port q i).rx ++ [m] }

/-- The control message at slot `n` of an agent's CTRL flit (Table 03.10): SYNC is ignored; a message that only the module
sends, or a reserved CTYPE, is a protocol error. -/
def flitControl (i : Nat) (f : Flit) (p : Plane) (n : Nat) : Plane :=
  let w := flitSlot f n
  match (w.extractLsb' 120 8).toNat with
  | 1 => p
  | 2 => takeParam i w p
  | _ => contain i cBadMessage p

/-- The message at slot `n` of a join link's MSG flit. -/
def flitJoin (j : Nat) (f : Flit) (p : Plane) (n : Nat) : Plane :=
  if (link p j).state ≠ .active then p
  else match joinMsgAt f n with
    | some (.join r g cls op b) =>
      match joinTake j (.join r g cls op b) cls.toNat r.vcb p with
      | none => failLink j p
      | some q => setLink q j { link q j with rx := (link q j).rx ++ [.join r g cls op b] }
    | _ => failLink j p

/-- The control message at slot `n` of a join link's CTRL flit. -/
def flitJoinControl (j : Nat) (f : Flit) (p : Plane) (n : Nat) : Plane :=
  let w := flitSlot f n
  match (w.extractLsb' 120 8).toNat with
  | 1 => p
  | 5 => takeJparam j w p
  | _ => failLink j p

/-- An accepted flit's messages, in slot order. -/
def flitContent (e : LinkEnd) (f : Flit) (p : Plane) : Plane :=
  match e with
  | .port i => (startSlots f).foldl (if flitType f = 0 then flitMessage i f else flitControl i f) p
  | .join j => (startSlots f).foldl (if flitType f = 0 then flitJoin j f else flitJoinControl j f) p

/-- Acknowledgement and credits that every good flit carries (R51, R52, R63, R249). -/
def flitReturns (e : LinkEnd) (f : Flit) (p : Plane) : Plane :=
  let q := if flitAckValid f then setRetry p e (ackTo (retryOf p e) (flitAck f)) else p
  match e with
  | .port i => pump i (setPort q i { port q i with have_ := takeCredits (port q i).have_ (flitCred f) })
  | .join j =>
    let l := link q j
    setLink q j (if (flitCred f).getLsbD 31 then { l with haveB := takeJoinCredits l.haveB (flitCred f) }
      else { l with haveA := takeJoinCredits l.haveA (flitCred f) })

/-- The link takes flits: ACTIVE, or in the steps of a training after signal detect. -/
def takesFlits (p : Plane) : LinkEnd → Bool
  | .port i => (port p i).state == .active || (port p i).step == 2 || (port p i).step == 6 || (port p i).step == 7
  | .join j => (link p j).state == .active || (link p j).step == 2 || (link p j).step == 7

/-- `seq` is among the 511 numbers before `next` (R53). -/
def isDuplicate (seq next : Nat) : Bool := let d := (next + 1024 - seq) % 1024; decide (1 ≤ d ∧ d ≤ 511)

/-- What a flit's codewords say (R46), with the bits of `cw` as `codewordFlags` gives them. The result: the
uncorrectable codewords met for the first time, whether a bit of the flit lies in one, and whether it ends in one. -/
def flitCodewords (r : Retry) (cw : BitVec 4) : Nat × Bool × Bool :=
  let first := if cw.getLsbD 0 then r.cwBad else cw.getLsbD 1
  let next := cw.getLsbD 2 && cw.getLsbD 3
  ((if !(cw.getLsbD 0) && cw.getLsbD 1 then 1 else 0) + (if next then 1 else 0), first || next,
    if cw.getLsbD 2 then cw.getLsbD 3 else first)

/-- A MSG or CTRL flit accepted: the next number is awaited, and the flit is reported in the ACK_SEQ of an IDLE flit at once (R52,
R53). -/
def acceptSeq (r : Retry) : Retry :=
  sendIdle 0 { r with rxSeq := (r.rxSeq + 1) % 1024, rxAny := true, waiting := false, rxReqs := 0 }

/-- A flit arrives, with what its codewords say (R53). What it acknowledges and returns counts only where it is accepted. -/
def recvFlit (e : LinkEnd) (f : Flit) (cw : BitVec 4) (p : Plane) : Plane :=
  if takesFlits p e = false then p
  else
    let x := flitCodewords (retryOf p e) cw
    let q := setRetry p e { retryOf p e with cwBad := x.2.2 }
    let q := if x.1 = 0 then q else badCodewords e x.1 q
    if takesFlits q e = false then q
    else if x.2.1 ∨ flitCrc f ≠ crcOf f then rejectFlit e q
    else
      match (flitType f).toNat with
      | 1 => flitReturns e f q
      | 2 => recvRetryReq e (flitSeq f) (flitReturns e f q)
      | 0 | 3 =>
        let r := retryOf q e
        if flitSeq f = r.rxSeq then flitContent e f (setRetry (flitReturns e f q) e (acceptSeq (retryOf (flitReturns e f q) e)))
        else if isDuplicate (flitSeq f) r.rxSeq then q
        else rejectFlit e q
      | _ => match e with
        | .port i => contain i cBadMessage q
        | .join j => failLink j q

/-- The awaited flit has not come within 256 flit times (R53). -/
def repeatRetryReq (e : LinkEnd) (p : Plane) : Plane :=
  if endActive p e && (retryOf p e).waiting then sendRetryReq e p else p

/-! ### Messages of an agent, by class -/

/-- A REQ of an agent: its tag taken, its checks made, then admission (R40, R67). During a drain it ends
ABORTED (R419). -/
def portReq (i : Nat) (op : ReqOp) (b : Body) (p : Plane) : Plane :=
  let pt := port p i
  if (tfind pt.tags b.tag.toNat).isSome then contain i cTag p
  else
    let q := setPort p i { pt with tags := tset pt.tags b.tag.toNat { sub := b.sub.toNat } }
    if pt.hop.draining then
      sendErr { op := op, port := i, sub := b.sub.toNat, tag := b.tag, t0 := q.clock } rAborted (giveCredit i 0 q)
    else match checkReq q i op b with
    | .fail reason s =>
      let r : Req := { op := op, port := i, sub := b.sub.toNat, tag := b.tag, inst := b.inst.toNat, priv := b.priv, t0 := q.clock }
      sendErr r reason (giveCredit i 0 (checkFailed i op b reason s q))
    | .page => answerPage i op b (giveCredit i 0 q)
    | .pass r => offerReq r q

/-- An EVN of an agent (R91, R111). -/
def portEvict (i : Nat) (b : Body) (p : Plane) : Plane :=
  if (tfind (port p i).tags b.tag.toNat).isSome then contain i cTag p else takeEvict i b p

/-- An answer of an agent enters the tile network: UNEXPECTED_RESPONSE where it names no outstanding tag. -/
def portReply (i : Nat) (b : Body) (x : Reply) (p : Plane) : Plane :=
  match takeReply i b.tag b.sub.toNat b.info x p with
  | some q => q
  | none => contain i cUnexpected p

/-- A module tag is that of an outstanding snoop. -/
def answersSnoop (pt : Port) (tag : Nat) : Bool :=
  match tfind pt.mtags tag with
  | some m => m.cls == 1
  | none => false

/-- A snoop answer of an agent passes engine 3 first (Table 15.1). -/
def stretched (i : Nat) (cls : BitVec 3) (op : BitVec 5) (b : Body) (x : Reply) (p : Plane) : Plane :=
  let pt := port p i
  let isSnoop := answersSnoop pt b.tag.toNat
  let d := delayE (engineOf pt 3)
  if isSnoop ∧ d.1 ≠ 0 then
    setPort p i (setEngine pt 3 { d.2 with held := d.2.held ++ [(d.1, .msg cls op b)] })
  else
    let q := if isSnoop then setPort p i (setEngine pt 3 d.2) else p
    portReply i b x (if cls = 3 then giveCredit i 3 q else q)

/-- An RSP.COMP_ACK of an agent. -/
def portAck (i : Nat) (b : Body) (p : Plane) : Plane :=
  match takeAck i b.tag b.sub.toNat p with
  | some q => q
  | none => contain i cUnexpected p

/-- An RSP.LEVEL of an agent (R71, R195). -/
def portLevel (i : Nat) (b : Body) (p : Plane) : Plane :=
  let pt := port p i
  updPanic i (setPort p i { pt with levels := tput 255 pt.levels b.sub.toNat (infoLow8 b.info) })

end Sys2Proof.Machine
end

