-- ==== Sys2Proof/Machine/Walk.lean ====
section
/-! DEFINITION. Internal operations on lines: maintenance, lock, pin, retirement and disable walks, replay prefetch, the
glaze and SRAM passes, range scrubs, evacuation and row copies (chapters 06, 08 and 09). Each takes a line in hand as an internal operation,
which waits in the line's conflict queue while the line is busy (R91, R93). -/
namespace Sys2Proof.Machine
open Sys2Proof

/-! ### Status codes (Table 12.6) -/

def sOk : BitVec 8 := 0x00
def sAccepted : BitVec 8 := 0x01
def sPartial : BitVec 8 := 0x02
def sBadOpcode : BitVec 8 := 0x10
def sBadParam : BitVec 8 := 0x11
def sBadState : BitVec 8 := 0x12
def sNeedsInvalidate : BitVec 8 := 0x13
def sDirtyPresent : BitVec 8 := 0x14
def sModeConflict : BitVec 8 := 0x15
def sDenied : BitVec 8 := 0x16
def sNoResource : BitVec 8 := 0x17
def sTimeout : BitVec 8 := 0x18
def sNodeAbsent : BitVec 8 := 0x19
def sEpochStale : BitVec 8 := 0x1A
def sAborted : BitVec 8 := 0x1B
def sInternal : BitVec 8 := 0x1F

/-! ### Reaching a line (R91, R93) -/

/-- An internal operation reaches its line: it starts, or waits in the line's conflict queue. -/
def reachIntern (w : Intern) (line i : Nat) (p : Plane) : Plane :=
  reachLine { id := p.nextJob, kind := .intern w, line := line, who := { inst := i }, t0 := p.clock } { p with nextJob := p.nextJob + 1 }

/-! ### Walks (R131, R139, R146, R149, R268) -/

/-- The lowest line of a range from an offset on that some way holds. -/
def nextInRange (p : Plane) (base lines from_ : Nat) : Option (Nat × WayLine) :=
  (p.ways.filter fun x => decide (base + from_ ≤ keyLine x.1 x.2 ∧ keyLine x.1 x.2 < base + lines)).foldl
    (fun best x => match best with
      | none => some x
      | some y => if keyLine x.1 x.2 < keyLine y.1 y.2 then some x else some y) none

/-- A walk of ways has still to examine a way: it lies at or past the cursor and has not been examined before its line moved there, or
its line moved there from ways not yet examined (R139). -/
def unexamined (o : LongOp) (k line : Nat) : Bool :=
  if k < o.cursor then o.extra.contains (k, line) else !o.seen.contains (k, line)

/-- The next way a walk has to act on, or whose tag it finds wrong. -/
def nextWayFor (p : Plane) (o : LongOp) : Option (Nat × WayLine) :=
  if walksWays o.work then
    p.ways.find? fun x => inWalk o.work x.1 x.2 && (actsOn o.work x.2 || tagWrong p x.1) && unexamined o x.1 (keyLine x.1 x.2)
  else match o.work with
    | .clean base lines | .inval base lines _ | .clinv base lines => nextInRange p base lines o.cursor
    | _ => none

/-- The operation with a way examined: its line in hand, and its cursor past it. -/
def pastWay (o : LongOp) (x : Nat × WayLine) : LongOp :=
  let line := keyLine x.1 x.2
  let cursor := if walksWays o.work then max o.cursor (x.1 + 1) else match o.work with
    | .clean base _ | .inval base _ _ | .clinv base _ => line - base + 1
    | _ => o.cursor
  { o with cursor := cursor, extra := o.extra.filter fun y => y != (x.1, line), inHand := o.inHand + 1 }

/-- The next directory entry NODE_LEAVE's recall walk has to act on, its line not in hand already: its key and line. -/
def nextForeign (p : Plane) (from_ : Nat) : Option (Nat × Nat × DirEntry) :=
  ((p.dir.filter fun x => decide (from_ ≤ x.1) && foreign p x.2).map fun x =>
    (x.1, dLine (x.1 / 16 / 131072) (x.1 / 16 % 131072) x.2, x.2)).find? fun x =>
      !(p.jobs.any fun j => j.line == x.2.1 && (match j.kind with
        | .recall _ => true
        | _ => false))

/-- One line of a maintenance, lock, pin, retirement, disable or recall walk taken in hand; but for the recall walk, one line at a time
(R139). -/
def walkOne (id : Nat) (p : Plane) : Plane :=
  match op? p id with
  | none => p
  | some o =>
    if o.ended.isSome then p
    else match o.work with
      | .pin _ base lines _ =>
        if lines ≤ o.cursor ∨ o.inHand ≠ 0 then p
        else reachIntern (.walk id) (base + o.cursor) 0 (setOp p { o with cursor := o.cursor + 1, inHand := 1 })
      | .leave 3 _ =>
        match nextForeign p o.cursor with
        | none => if o.inHand = 0 then p else setOp p { o with cursor := 0, inHand := 0 }
        | some x =>
          let q := setOp p { o with cursor := x.1 + 1, inHand := o.inHand + 1 }
          reachLine { id := q.nextJob, kind := .recall id, line := x.2.1, t0 := q.clock } { q with nextJob := q.nextJob + 1 }
      | _ =>
        if o.inHand ≠ 0 then p
        else match nextWayFor p o with
          | none => p
          | some x => reachIntern (.walk id) (keyLine x.1 x.2) 0 (setOp p (pastWay o x))

/-! ### Replay prefetch (R137) -/

/-- The line a descriptor prefetches next. -/
def prefetchLine (x : Desc) : Nat :=
  spaLine x.d.start + x.d.stride.toNat * (x.next % max 1 x.d.count.toNat)

/-- One prefetch of descriptor `n`. -/
def prefetchOne (n : Nat) (p : Plane) : Plane :=
  match tfind p.descs n with
  | none => p
  | some x =>
    if replayRuns p = false ∨ x.d.valid = false ∨ x.stop ≤ x.next then p
    else reachIntern (.prefetch n) (prefetchLine x) x.d.inst.toNat { p with descs := tset p.descs n { x with next := x.next + 1 } }

/-! ### Scrubbing (R229 to R232) -/

/-- One read of the glaze pass on a channel (R229, R232); a channel has one in hand at a time. -/
def glazeOne (ch : Nat) (p : Plane) : Plane :=
  let c := chan p ch
  if hostMode p fmScrub ∨ noGlaze p ch ∨ 2 ^ 27 ≤ c.glaze ∨ internRuns p (.glaze ch) then p
  else reachIntern (.glaze ch) (behind p ch c.glaze) 0 (setChan p ch { c with glaze := c.glaze + 1 })

/-- Positions of a tile's SRAM arrays: 16 slices of 98,304 ways, one directory of 2,097,152 entries. -/
def sramSize (a : Nat) : Nat := if a < 64 then 98304 else 2097152

/-- The tile's SRAM pass ends once all its arrays are walked; the way counts of R238 start again. -/
def sramPassEnd (t : Nat) (p : Plane) : Plane :=
  let arrays := (64 + t) :: (List.range 16).map fun n => 16 * t + n
  if arrays.all fun a => decide (sramSize a ≤ tget 0 p.sramPos a) then
    let n := tget 0 p.sramPasses t + 1
    let q := (List.range 16).foldl (fun q s => setSlice q (16 * t + s) { slice q (16 * t + s) with wayCe := [], told := 0 }) p
    passEvent t 2 n { q with sramPasses := tput 0 q.sramPasses t n,
                             sramPos := q.sramPos.filter fun x => !(arrays.contains x.1) }
  else p

/-- One position of the SRAM pass: a way's tag and data words (array 16 × tile + slice), or a directory entry (64 + tile). -/
def sramOne (a : Nat) (p : Plane) : Plane :=
  let k := tget 0 p.sramPos a
  if sramSize a ≤ k then p
  else
    let q := { p with sramPos := tput 0 p.sramPos a (k + 1) }
    if a < 64 then sramPassEnd (a / 16) (readData a (k / 24) (k % 24) (readTag a (k / 24) (k % 24) q))
    else
      let t := a - 64
      match tfind q.dir (t * 2097152 + k) with
      | none => sramPassEnd t q
      | some e =>
        let line := dLine t (k / 16) e
        if busy q line then p else sramPassEnd t (readDir line q)

/-- Lines of a RANGE scrub in hand on a channel. -/
def rangeReads (p : Plane) (id ch : Nat) : Nat :=
  (p.jobs.filter fun j => j.kind == .intern (.range id) && (place p j.line).1 == ch).length

/-- One line of a RANGE scrub taken in hand: its DRAM line and its slice copy are read, up to 16 lines at a time on a channel (R231). -/
def rangeOne (id : Nat) (p : Plane) : Plane :=
  match op? p id with
  | none => p
  | some o => match o.work with
    | .range base lines =>
      let line := base + o.cursor
      if lines ≤ o.cursor ∨ o.ended.isSome ∨ 16 ≤ rangeReads p id (place p line).1 then p
      else reachIntern (.range id) line 0 (setOp p { o with cursor := o.cursor + 1, inHand := o.inHand + 1 })
    | _ => p

/-! ### Evacuation (R206 to R211) -/

/-- The next line of an evacuating channel taken in hand, to be copied to its new place (R208). -/
def evacOne (ch : Nat) (p : Plane) : Plane :=
  let e := evacOf p (ch / 16)
  if e.state ≠ 1 ∨ e.chan ≠ ch % 16 ∨ internRuns p (.evac ch) then p
  else reachIntern (.evac ch) (evacLine p ch) 0 p

/-! ### Page retirement (R233 to R237) -/

/-- A row's copy to the next spare row of its bank begins; without a spare the condition of R207 is met. -/
def startRowCopy (ch bank row : Nat) (p : Plane) : Plane :=
  let c := chan p ch
  let used := tget 0 c.spares bank
  if p.rowCopies.any fun x => x.ch == ch && x.bank == bank && x.row == row then p
  else if 64 ≤ used then evacTrigger ch p
  else
    { setChan p ch { c with spares := tput 0 c.spares bank (used + 1) } with
      rowCopies := p.rowCopies ++ [{ ch := ch, bank := bank, row := row, spare := used }] }

/-- The row that a tracker row stands for: a spare row stands for the row remapped to it. -/
def trackedRow (p : Plane) (ch bank row : Nat) : Option Nat :=
  if row < 131072 then some row
  else (p.remaps.find? fun x => x.1 / 131072 == ch * 16 + bank && x.2 == row - 131072 + 1).map fun x => x.1 % 131072

/-- The channel is EVACUATING or EVACUATED. -/
def evacuating (p : Plane) (ch : Nat) : Bool :=
  (evacOf p (ch / 16)).state != 0 && (evacOf p (ch / 16)).chan == ch % 16

/-- A pending row of the tracker is retired in hardware mode of FM_PAGE_RETIRE (R235). -/
def retireRow (ch bank row : Nat) (p : Plane) : Plane :=
  let c := chan p ch
  if hostMode p fmPage ∨ c.pinFault ∨ c.state = .down ∨ evacuating p ch then p
  else if c.tracker.any fun x => x.bank == bank && x.row == row && x.pending then
    let q := setChan p ch { c with tracker := c.tracker.filter fun x => !(x.bank == bank && x.row == row) }
    match trackedRow q ch bank row with
    | none => q
    | some r => startRowCopy ch bank r q
  else p

/-- The next line of the channel's first row copy taken in hand (R234). -/
def rowCopyOne (ch : Nat) (p : Plane) : Plane :=
  match rowHere p ch with
  | none => p
  | some x => if internRuns p (.rowCopy ch) then p else reachIntern (.rowCopy ch) (behind p ch x.2) 0 p

/-- A row with no new correction for 24 h leaves the tracker (R235). -/
def trackerDrop (ch bank row : Nat) (p : Plane) : Plane :=
  let c := chan p ch
  setChan p ch { c with tracker := c.tracker.filter fun x => !(x.bank == bank && x.row == row && !x.pending) }

end Sys2Proof.Machine
end

