-- ==== Sys2Proof/Machine/Memory.lean ====
section
/-! DEFINITION. What happens at the homes and the DRAM channels by themselves: queue heads, tokens, holds, returned data,
queue grants, scheduler commands, refresh, timers, power-down and retraining (chapters 04, 05, 07 and 08). -/
namespace Sys2Proof.Machine
open Sys2Proof

/-! ### Homes -/

/-- The token bucket gains a token: the transaction that has waited longest takes it, else the bucket keeps it up to
BCAST_DEPTH (R102). -/
def gainToken (t : Nat) (p : Plane) : Plane :=
  let h := htile p t
  match h.tokq with
  | [] => setTile p t { h with tokens := min (max h.tokens (clampF (fld (rg p (aBcast t)) 16 8) 255)) (h.tokens + 1) }
  | id :: rest =>
    let q := setTile p t { h with tokq := rest }
    match job? q id with
    | none => q
    | some j => advance id (broadcast j q)

/-- Reservations without an agent's hold on a line; a hold that has outlasted its reservation leaves nothing. -/
def rsvUnhold (line a : Nat) (l : List Rsv) : List Rsv :=
  (l.filter fun r => !(r.agent == a && r.line == line && !r.live)).map fun r =>
    if r.agent == a && r.line == line then { r with hold := false } else r

/-- The hold of an agent's reservation of a line expires, and the head of the line's queue starts (R176). -/
def holdEnd (agent line : Nat) (p : Plane) : Plane :=
  if p.rsvs.any fun r => r.agent == agent && r.line == line && r.hold then
    startHead line { p with rsvs := rsvUnhold line agent p.rsvs }
  else p

/-- The oldest read whose data has come back from a channel reaches the DIU and the transaction that waits for it (R113). -/
def dataBack (ch : Nat) (p : Plane) : Plane :=
  let c := chan p ch
  match c.ret with
  | [] => p
  | (a, w) :: rest =>
    let q := setChan p ch { c with ret := rest }
    let q := measure (ch / 16) 0x0005 (p.clock - a.t0) (accOcc p a) q
    let r := diuRead ch a w q
    let found := if a.rmw && !mergeRepairs q a then 0 else foundIn w
    match a.job with
    | none => r.1
    | some id =>
      advance id (markJob r.1 id fun j => { j with fetched := some r.2.1, fpoison := r.2.2, mem := false, found := found })

/-- A freed queue entry of a channel goes to a waiting access; a transaction whose last write it was finishes (R189,
R279). -/
def queueGrant (ch : Nat) (wr : Bool) (p : Plane) : Plane :=
  let r := grantQueue ch wr p
  match r.2 with
  | none => r.1
  | some a =>
    match a.wr, a.job with
    | true, some id =>
      let q := markJob r.1 id fun j => { j with wpend := j.wpend - 1 }
      match job? q id with
      | some j => if j.done && j.wpend == 0 then finish id q else q
      | none => q
    | _, _ => r.1

/-! ### DRAM timers -/

/-- A bank's per-bank refresh falls due (R198, R199). -/
def refreshOwed (ch bank : Nat) (p : Plane) : Plane :=
  let c := chan p ch
  if c.state = .selfRefresh ∨ c.state = .down ∨ deepDown p ch then p
  else
    let b := tget {} c.banks bank
    setChan p ch (setBank c bank { b with owed := b.owed + 1 })

/-- A bank's idle timer runs out with no queued access to its open row: the bank is precharged (R190). -/
def pageIdle (ch bank : Nat) (p : Plane) : Plane :=
  let c := chan p ch
  let b := tget {} c.banks bank
  match b.openRow with
  | none => p
  | some r =>
    if fld (rg p (aChCfg ch)) 0 10 = 0 ∨ (c.rq ++ c.wq).any (fun a => rawBank a.raw == bank && rawRow a.raw == r) then p
    else setChan p ch (setBank c bank { b with openRow := none, hits := 0, idle := true })

/-- A channel with no queued access for PD_IDLE clocks enters power-down (R212). -/
def powerDownChan (ch : Nat) (p : Plane) : Plane :=
  let c := chan p ch
  if fld (rg p (aChCfg ch)) 16 10 = 0 ∨ c.rq ≠ [] ∨ c.wq ≠ [] ∨ c.state ≠ .normal then p
  else setChan p ch { c with pd := true }

/-- The `k`-th queued access of a channel has waited longer than STARVE (R193). -/
def starveAcc (ch k : Nat) (p : Plane) : Plane :=
  let c := chan p ch
  match (c.rq ++ c.wq)[k]? with
  | none => p
  | some a =>
    let f := fun (x : Access) => if x.seq == a.seq then { x with starved := true } else x
    setChan p ch { c with rq := c.rq.map f, wq := c.wq.map f }

/-- A channel meets the condition of R201: 2 °C, or 10 s, since its last training. -/
def wantsRetrain (p : Plane) (ch : Nat) : Bool :=
  let c := chan p ch
  let d := c.temp.toInt - c.lastTemp.toInt
  decide (d ≤ -2 ∨ 2 ≤ d) || decide (20000000000 ≤ p.clock - c.tTrain)

/-- A channel that meets the condition of R201 becomes due: in hardware mode it retrains, in host-assisted mode the event tells of
it. -/
def becomeDue (ch : Nat) (p : Plane) : Plane :=
  let c := chan p ch
  if c.state ≠ .normal ∨ deepDown p ch ∨ wantsRetrain p ch = false then p
  else if hostMode p fmDram then raise (tileSrc (ch / 16) (18 + ch % 16)) 2 0 0 p
  else startRetrains (ch / 16) (setChan p ch { c with due := true })

/-- RETRAIN_DUE on a channel: one between its two pauses goes on to the second (R202), any other becomes due (R201). -/
def retrainDue (ch : Nat) (p : Plane) : Plane :=
  let c := chan p ch
  if c.state = .normal ∧ deepDown p ch = false ∧ c.sc1Due = true then
    if pausing p (ch / 16) then p else startPause ch true (setChan p ch { c with sc1Due := false })
  else becomeDue ch p

/-- A retrain deferred for 1 ms runs regardless (R202). -/
def retrainForce (ch : Nat) (p : Plane) : Plane :=
  let c := chan p ch
  if c.deferred ∧ c.due ∧ c.state = .normal ∧ pausing p (ch / 16) = false then startPause ch false p else p

/-- A MEM_TRAIN that names the channel has done with it. -/
def trainDone (ch : Nat) (failed : Bool) (p : Plane) : Plane :=
  { p with ops := p.ops.map fun o => match o.work with
    | .train chs full =>
      if o.ended.isNone && (chs &&& ~~~o.mask).getLsbD ch then
        let o := { o with mask := o.mask ||| BitVec.ofNat 64 (2 ^ ch), a := o.a + (if failed then 2 ^ ch else 0) }
        if chs &&& ~~~o.mask = 0 then { o with work := .train chs full, ended := some (if o.a = 0 then sOk else sPartial) }
        else o
      else o
    | _ => o }

/-- A retrain pause, or a full training, of a channel ends (R200, R203, R204). -/
def pauseEnd (ch : Nat) (failed : Bool) (p : Plane) : Plane :=
  let c := chan p ch
  match c.state with
  | .pause0 => startRetrains (ch / 16) (setChan p ch { c with state := .normal, sc1Due := true })
  | .pause1 =>
    startRetrains (ch / 16) (trainDone ch false (setChan p ch
      { c with state := .normal, retrains := (c.retrains + 1) % 65536, due := false, deferred := false, sc1Due := false,
               forced := false, lastTemp := c.temp, tTrain := p.clock }))
  | .training =>
    if failed then
      dramPassEnd (ch / 16)
        (raise (tileSrc (ch / 16) (18 + ch % 16)) 1 0 0 (trainDone ch true (setChan p ch { c with state := .down })))
    else trainDone ch false (setChan p ch { c with state := .normal, lastTemp := c.temp, tTrain := p.clock })
  | _ => p

end Sys2Proof.Machine
end

