-- ==== Sys2Proof/Machine/Reset.lean ====
section
/-! DEFINITION. Instance reset and destroy: stop, squash, completion (R284 to R287), and the drain before a warm reset or a
power state (R180). -/
namespace Sys2Proof.Machine
open Sys2Proof

/-- A request named once: by its port and tag, or, in the hopper, by its port and the RSN of its only or lower piece, because an
acknowledged store's tag may be in use again (R67, R167). -/
def entryKey (e : Entry) : Nat × Nat :=
  match e.rsn with
  | none => (e.req.port, e.req.tag.toNat)
  | some k => (e.req.port, 65536 + (if e.req.upper.isSome then (k + 65535) % 65536 else k))
def hopKey (i : Nat) (e : HopEntry) : Nat × Nat := (i, 65536 + lowRsn e)

/-- The requests of an instance's generation that are admitted and not finished, each counted once; those that containment has ended
are finished (R75). -/
def ownWork (p : Plane) (i : Nat) (gen : BitVec 8) : List (Nat × Nat) :=
  ((p.entries.filterMap fun x =>
      if !x.2.join && !x.2.aborted && x.2.req.inst == i && x.2.req.gen == gen then some (entryKey x.2) else none) ++
    p.ports.flatMap fun x => x.2.hop.entries.filterMap fun e =>
      if e.req.inst == i && e.req.gen == gen then some (hopKey x.1 e) else none).dedup

/-- The stop (step 1 of R285): requests that still wait fail with GENERATION; the work admitted is counted. -/
def stopInst (i : Nat) (st : InstState) (p : Plane) : Plane :=
  let ws := p.waits.filter fun (r : Req) => r.inst == i
  let q := ws.foldl (fun q (r : Req) => sendErr r rGeneration (giveCredit r.port 0 q))
    { p with waits := p.waits.filter fun (r : Req) => !(r.inst == i) }
  let x := inst q i
  setInst q i { x with state := st, stopped := true, squashed := false, drained := (ownWork q i x.gen).length, nSquash := 0,
                       proceeded := 0, remain := 0 }

/-- One module tag of a forwarded request that no longer has an entry: freed, its message taken back if it has not left, else its
late answer to be discarded (R72). -/
def deadTag (i : Nat) (x : Nat × ModTag) (p : Plane) : Plane :=
  if x.2.sent then lateTag i x.1 p
  else freeModTag i x.1 (setPort p i { port p i with txq := (port p i).txq.erase (.msg x.2.cls x.2.op x.2.body) })

/-- Every module tag, held or waited for, of a forwarded request that no longer has an entry. -/
def deadTags (ent : Nat) (p : Plane) : Plane :=
  p.ports.foldl (fun q x =>
    (x.2.mtags.filter fun y => y.2.use == .io ent).foldl (fun q y => deadTag x.1 y q)
      (setPort q x.1 { port q x.1 with tagWait := x.2.tagWait.filter fun m => !(m.use == .io ent) })) p

/-- One hopper entry at the squash (R183, Table 11.4). The Bool says whether it was squashed. -/
def squashEntry (i : Nat) (e : HopEntry) (p : Plane) : Plane × Bool :=
  match e.req.op with
  | .fence => (freeHop i e.rsn (ackEntry i e.rsn (some rGeneration) false p), true)
  | .ioWr =>
    if e.acked then (p, false)
    else
      let q := onEntry i e.rsn (fun x => { x with withdrawn := true, st := .accepted, ent := none })
        (ackEntry i e.rsn (some rGeneration) false p)
      match e.ent with
      | none => (q, true)
      | some n => (deadTags n (dropEntry q n), true)
  | _ => if e.acked ∨ e.st = .released then (p, false) else (withdraw i e rGeneration p, true)

/-- One read at the squash (Table 11.4). The Bool says whether it was squashed. -/
def squashRead (n : Nat) (e : Entry) (p : Plane) : Plane × Bool :=
  if e.sent then (p, false)
  else if e.aborted then (if e.remote then deadTags n (dropEntry p n) else p, false)
  else
    let q := sendErr e.req rGeneration p
    let held := (hopOf p e.req.port).held.any fun x => x.1 == n
    let q := setHop q e.req.port { hopOf q e.req.port with held := (hopOf q e.req.port).held.filter fun x => !(x.1 == n) }
    if held ∨ e.remote then (deadTags n (dropEntry q n), true)
    else
      match q.jobs.find? fun j => j.ent == some n && (match j.kind with
        | .req _ => true
        | _ => false) with
      | none => (dropEntry q n, true)
      | some j => (setJob q { j with noCopy := true }, true)

/-- The squash (steps 3 and 4 of R285): all remaining work settled, the generation advanced. -/
def squash (i : Nat) (p : Plane) : Plane :=
  let x := inst p i
  if x.stopped = false then p
  else
    let before := (ownWork p i x.gen).length
    let mine : List (Nat × HopEntry) := p.ports.flatMap fun y =>
      (y.2.hop.entries.filter fun e => e.req.inst == i && e.req.gen == x.gen).map fun e => (y.1, e)
    let reads := p.entries.filter fun y => !y.2.join && y.2.req.inst == i && y.2.req.gen == x.gen && !hopNeed y.2.req.op
    let r := mine.foldl (fun (acc : Plane × List (Nat × Nat)) y =>
      let z := squashEntry y.1 y.2 acc.1
      (z.1, if z.2 then acc.2 ++ [hopKey y.1 y.2] else acc.2)) (p, [])
    let r := reads.foldl (fun (acc : Plane × List (Nat × Nat)) y =>
      let z := squashRead y.1 y.2 acc.1
      (z.1, if z.2 then acc.2 ++ [entryKey y.2] else acc.2)) r
    let gone := r.2.dedup.length
    let q := setInst r.1 i { x with gen := x.gen + 1, stopped := false, squashed := true, drained := x.drained - before,
                                    nSquash := gone, remain := before - gone }
    let q := orphanAll (fun _ f => f.inst == i) q
    q.ports.foldl (fun q y => releaseSweep y.1 q) q

/-- Old-generation work of an instance is left on this module (step 5 of R285). -/
def oldWork (p : Plane) (i : Nat) : Bool :=
  let g := (inst p i).gen
  (p.entries.any fun x => !x.2.join && x.2.req.inst == i && x.2.req.gen != g) ||
    p.ports.any fun x => x.2.hop.entries.any fun e => e.req.inst == i && e.req.gen != g

/-- The counts of R285 as a completion reports them. -/
def resetCounts (x : Inst) : Nat × Nat × Nat := (x.drained, x.nSquash, x.remain)

/-- The operation that resets or destroys an instance. -/
def resetOp (p : Plane) (i : Nat) : Option LongOp :=
  p.ops.find? fun o => o.ended.isNone && (o.work == .instReset i || o.work == .destroy i)

/-- The reset or destroy completes (R285, R287). -/
def resetDone (i : Nat) (p : Plane) : Plane :=
  let x := inst p i
  if x.squashed = false ∨ oldWork p i then p
  else
    let done : Inst := match x.state with
      | .destroying => { gen := x.gen }
      | _ => { x with state := .active, squashed := false, proceeded := x.remain }
    let q := setInst p i done
    match resetOp q i with
    | none => q
    | some o => setOp q { o with ended := some sOk, a := x.drained, b := x.nSquash, c := x.remain }

/-- A reset not complete 1 ms after its squash (R285). -/
def resetStall (i : Nat) (p : Plane) : Plane :=
  let x := inst p i
  if x.squashed then
    let left := (p.entries.filter fun y => !y.2.join && y.2.req.inst == i && y.2.req.gen != x.gen).length +
      (p.ports.map fun y => (y.2.hop.entries.filter fun e => e.req.inst == i && e.req.gen != x.gen && e.ent.isNone).length).sum
    raise (tileSrc 0 15) 0 (BitVec.ofNat 32 left) (payOf 0 0 i) p
  else p

/-! ### Binding (R272 to R274) -/

/-- The positions of a MEMBERS mask bound to an instance; their open frames close (R367). -/
def bindAll (i : Nat) (m : BitVec 256) (p : Plane) : Plane :=
  let ps := (List.range 256).filter fun k => m.getLsbD k
  let q := orphanAll (fun pos _ => ps.contains pos) p
  { q with binds := ps.foldl (fun t k => tput 0 t k i) q.binds }

/-- The positions bound to an instance. -/
def members (p : Plane) (i : Nat) : BitVec 256 :=
  (List.range 256).foldl (fun m k => if tget 0 p.binds k = i then m ||| BitVec.ofNat 256 (2 ^ k) else m) 0

/-- The ways of an instance unlocked: their lines stay valid with PIN cleared (R132). -/
def unlockWays (i : Nat) (slices : BitVec 64) (ways : BitVec 24) (p : Plane) : Plane :=
  let hit := fun (n w : Nat) => slices.getLsbD n && ways.getLsbD w && lockOwner p n w == some i
  let ws := p.ways.map fun x => if hit (keySlice x.1) (keyWay x.1) then (x.1, { x.2 with pin := false }) else x
  let sl := p.slices.map fun (x : Nat × Slice) => (x.1, { x.2 with locks := x.2.locks.filter fun y => !(hit x.1 y.1) })
  { p with ways := ws, slices := sl.filter fun (x : Nat × Slice) => decide (x.2 ≠ ({} : Slice)) }

/-- The stop of a destroy (R287): sub-agents bound to instance 0, its staged share given up, its ways unlocked, its replay
descriptors stopped. -/
def destroyStop (i : Nat) (p : Plane) : Plane :=
  let q := stopInst i .destroying p
  let q := bindAll 0 (members q i) q
  let q := setInst q i { inst q i with staged := none }
  let q := unlockWays i (BitVec.allOnes 64) (BitVec.allOnes 24) q
  { q with descs := q.descs.map fun x =>
      if x.2.d.inst.toNat = i then (x.1, { x.2 with d := { x.2.d with valid := false } }) else x }

/-! ### Drain (R180) -/

/-- A drain begins: every hopper holds back REQ credits, every request that still waits ends ABORTED, every frame closes as
an orphan (R180, R367, R419). -/
def startDrain (p : Plane) : Plane :=
  let q := orphanAll (fun _ _ => true) p
  let q := { q with ports := (List.range 32).foldl (fun t i =>
      let x : Port := tget {} t i
      tput {} t i { x with hop := { x.hop with draining := true } }) q.ports }
  q.waits.foldl (fun q (r : Req) => sendErr r rAborted (giveCredit r.port 0 q)) { q with waits := [] }

/-- The drain is over: every hopper and every siding of the module is empty. -/
def drained (p : Plane) : Bool :=
  p.ports.all (fun x => x.2.hop.entries.isEmpty) && !p.jobs.any fun j => jobStore j && j.accepted

/-- A drain has run longer than 50 µs (R180). -/
def drainStall (t : Nat) (p : Plane) : Plane :=
  let ps := (List.range 8).map fun k => 8 * t + k
  if ps.any (fun i => (hopOf p i).draining) && !drained p then
    let left := (ps.map fun i => (hopOf p i).entries.length).sum
    raise (tileSrc t 16) 0 (BitVec.ofNat 32 left) 0
      (ps.foldl (fun q i => setHop q i { hopOf q i with drainStall := true }) p)
  else p

/-- A drain is over and READY is 1: the credits held back go out (R419). -/
def endDrain (p : Plane) : Plane :=
  p.ports.foldl (fun q x =>
    setPort q x.1 (returnCredits { x.2 with hop := { x.2.hop with draining := false, drainStall := false, kept := 0 } }
      { req := x.2.hop.kept })) p

end Sys2Proof.Machine
end

