-- ==== Sys2Proof/Machine/Serve.lean ====
section
/-! DEFINITION. What else happens on the data plane by itself: reads, fences and I/O writes going on in a hopper, timeouts,
perturbation, hold-offs, the tiles' time links, gated clocks, and the data plane's part of an epoch boundary (R15, R72, R159,
R160, R172, R198, R265, R266, R280, R339, R351, R365, R367, R392). -/
namespace Sys2Proof.Machine
open Sys2Proof

/-! ### Hoppers -/

/-- The first read held in a hopper whose older entries are done goes on (R159, R160, R172). -/
def resumeRead (i : Nat) (p : Plane) : Plane :=
  match (hopOf p i).held.find? (heldReady p i) with
  | none => p
  | some x =>
    let q := setHop p i { hopOf p i with held := (hopOf p i).held.filter fun y => !(y.1 == x.1) }
    match entry? q x.1 with
    | none => q
    | some e => readGo x.1 e.req q

/-- A FENCE with no older entry left completes (R160). -/
def fenceDone (i : Nat) (p : Plane) : Plane :=
  match (hopOf p i).entries with
  | e :: _ => if e.req.op = .fence then releaseSweep i (freeHop i e.rsn (ackEntry i e.rsn none false p)) else p
  | [] => p

/-- The first REQ.IO_WR whose older entries are all accepted is sent to its target (R172). -/
def ioWrGo (i : Nat) (p : Plane) : Plane :=
  match ioReady (hopOf p i).entries with
  | none => p
  | some e =>
    let q := onEntry i e.rsn (fun x => { x with ioSent := true }) p
    match e.ent with
    | none => q
    | some n => ioSend n e.req e.rsn q

/-- A forwarded request not answered within IO_TIMEOUT of its sending ends with TIMEOUT; its module tag is freed, and a late answer
will be discarded (R72). -/
def ioExpire (i : Nat) (tag : BitVec 16) (p : Plane) : Plane :=
  let pt := port p i
  match tfind pt.mtags tag.toNat with
  | none => p
  | some m =>
    if m.sent = false then p
    else match m.use with
      | .io ent => ioEnd ent (.error rTimeout) (lateTag i tag.toNat p)
      | .ioRemote r => ioOver r i m.body.sub.toNat m.body.addr (.error rTimeout) (lateTag i tag.toNat p)
      | _ => p

/-- No failover notice within 10 ms (R258). -/
def failoverLate (j : Nat) (p : Plane) : Plane :=
  let l := link p j
  if l.failPend then raise (tileSrc (linkTile j) (8 + j % 4)) 5 (BitVec.ofNat 32 l.peerNode) 0 p else p

/-! ### Perturbation (R351) -/

/-- A message that engine 0 or 2 of a port holds is sent on. -/
def releasePort (i n k : Nat) (p : Plane) : Plane :=
  let pt := port p i
  let e := engineOf pt n
  match e.held[k]? with
  | none => p
  | some x =>
    let pt := setEngine pt n { e with held := e.held.eraseIdx k }
    if n = 0 then pump i (setPort p i (reorder pt x.2)) else pump i (setPort p i { pt with txq := pt.txq ++ [x.2] })

/-- A snoop answer that engine 3 of a port holds goes on. -/
def releaseAnswer (i k : Nat) (p : Plane) : Plane :=
  let pt := port p i
  let e := engineOf pt 3
  match e.held[k]? with
  | none => p
  | some x => deliverAnswer i x.2 (setPort p i (setEngine pt 3 { e with held := e.held.eraseIdx k }))

/-- Read data that engine 4 of a channel holds goes on to the DIU. -/
def releaseRead (c k : Nat) (p : Plane) : Plane :=
  let x := chan p c
  match x.heldRet[k]? with
  | none => p
  | some y => setChan p c { x with heldRet := x.heldRet.eraseIdx k, ret := x.ret ++ [y.2] }

/-- A message that engine 5 of a link holds enters a flit. -/
def releaseJoin (j k : Nat) (p : Plane) : Plane :=
  let l := link p j
  match l.engine.held[k]? with
  | none => p
  | some x => setLink p j { l with engine := { l.engine with held := l.engine.held.eraseIdx k }, retry := sendFlit l.retry x.2 }

/-- The delay of one held message, or the reorder limit of 4,096 cycles, has passed. -/
def releaseHeld (engine target k : Nat) (p : Plane) : Plane :=
  match engine with
  | 0 => if target < 32 then releasePort target 0 k p else p
  | 2 => if target < 32 then releasePort target 2 k p else p
  | 3 => if target < 32 then releaseAnswer target k p else p
  | 4 => releaseRead target k p
  | 5 => if target < 16 then releaseJoin target k p else p
  | _ => p

/-- The length of a pattern period of engine 1: 0 counts as 1. -/
def periodOf (e : Engine) : Nat × Engine := let x := delayE e; (max 1 x.1, x.2)

/-- A pattern period of engine 1 ends; a period whose bit is 0 returns what was withheld. -/
def nextPeriod (i : Nat) (p : Plane) : Plane :=
  let pt := port p i
  let e := engineOf pt 1
  if e.mode = 0 then p
  else
    let x := periodOf { e with bit := (e.bit + 1) % 64 }
    let e := { x.2 with period := x.1 }
    if e.pattern.getLsbD e.bit then setPort p i (setEngine pt 1 e)
    else
      let pt := setEngine pt 1 { e with keptReq := 0, keptDat := 0 }
      setPort p i (returnCredits pt { req := e.keptReq, dat := e.keptDat })

/-! ### Events (R339) -/

/-- A source's hold-off ends: one entry for the occurrences counted in it, which starts the next hold-off. -/
def endHold (n : Nat) (p : Plane) : Plane :=
  let h := tget {} p.holds n
  if h.on = false then p
  else
    let q := { p with holds := tput {} p.holds n {} }
    match h.counted with
    | none => q
    | some (e, k) => offerHeld n { e with merged := min 65535 (k - 1) } q

/-! ### The tiles' time links (R365) -/

/-- A tile's time link goes down: it stops stamping and closes every open frame as an orphan. -/
def timeDown (t : Nat) (p : Plane) : Plane :=
  if p.variant = .ma ∨ (tap p t).down then p
  else
    let q := orphanAll (fun pos _ => pos / 64 == t) p
    raise 42 3 (BitVec.ofNat 32 t) (BitVec.ofNat 128 (t * 2 ^ 64)) (setTap q t { tap q t with down := true })

/-- The time stream returns to a tile. -/
def timeBack (t : Nat) (p : Plane) : Plane :=
  if p.variant = .ma ∨ (tap p t).down = false then p
  else raise 42 4 (BitVec.ofNat 32 t) (BitVec.ofNat 128 (t * 2 ^ 64)) (setTap p t { tap p t with down := false })

/-! ### Gated clocks (R392) -/

/-- An island has work (Table 17.1). -/
def islandBusy (p : Plane) (i : Nat) : Bool :=
  let t := i / 32
  let k := i % 32
  if k < 8 then
    let x := port p (8 * t + k)
    !(x.rx.isEmpty && x.txq.isEmpty && x.tags.isEmpty && x.mtags.isEmpty && x.hop.entries.isEmpty && x.hop.held.isEmpty) ||
      p.waits.any fun r => r.port == 8 * t + k
  else if k < 12 then !(link p (4 * t + k - 8)).rx.isEmpty || !p.dw.out.isEmpty
  else if k < 28 then
    p.jobs.any fun j => j.phase == .running && sliceOf j.line == 16 * t + (k - 12)
  else if k = 28 then
    p.jobs.any fun j => lineTile j.line == t
  else if k < 31 then
    (List.range 8).any fun c => let x := chan p (16 * t + 8 * (k - 29) + c)
      !(x.rq.isEmpty && x.wq.isEmpty && x.wait.isEmpty && x.ret.isEmpty)
  else false

/-- An island without work gates its clock. -/
def gateIsland (i : Nat) (p : Plane) : Plane :=
  if islandBusy p i then p else { p with gated := p.gated ||| BitVec.ofNat 128 (2 ^ i) }

/-- Islands that have work run again. -/
def wake (p : Plane) : Plane :=
  if p.gated = 0 then p
  else { p with gated := (List.range 128).foldl (fun m i =>
    if m.getLsbD i && islandBusy p i then m &&& ~~~(BitVec.ofNat 128 (2 ^ i)) else m) p.gated }

/-! ### The data plane at an epoch boundary (R15) -/

/-- Half-nanoseconds in a management epoch (R14). -/
def epochLen : Nat := 2000000

/-- A request held for a newer epoch goes on (R266); it reached the home before the commit, so a map without this node does not
refuse it (R269). -/
def arriveHeld (j : Job) (p : Plane) : Plane :=
  let q := dropJob p j.id
  if reserveEn q && inReserve j.line then refuse j rBadParam { q with jobs := q.jobs ++ [j] }
  else reachLine { j with src := none } q

/-- The pending map takes effect at its boundary, and requests held for it go on (R265, R266). -/
def commitMap (p : Plane) : Plane :=
  match p.dw.pend with
  | none => p
  | some (at_, ep, m) =>
    if p.epoch < at_ then p
    else
      let q : Plane := { p with dw := { p.dw with prev := p.dw.cur, prevEp := p.dw.curEp, cur := m, curEp := ep, pend := none } }
      let q : Plane := { q with ops := q.ops.map fun (o : LongOp) => if o.work == .commit && o.ended.isNone then { o with ended := some 0 } else o }
      (q.jobs.filter fun (j : Job) => j.phase == .epoch && !newer j.epoch ep).foldl (fun q j => arriveHeld j q) q

/-- The shares staged at least 10 µs before the boundary take effect (R280). -/
def applyShares (p : Plane) : Plane :=
  p.insts.foldl (fun q x => match x.2.staged with
    | none => q
    | some (sh, t0) =>
      if p.clock < t0 + 20000 then q
      else
        let q := setInst q x.1 { inst q x.1 with share := sh, staged := none }
        { q with ops := q.ops.map fun o => if o.work == .share x.1 && o.ended.isNone then { o with ended := some 0 } else o }) p

/-- Refresh rates and the activation threshold that the devices read out: two bits a channel, 0 base rate, 1 twice, 2 four
times; threshold 0 is none (R198, R199). -/
def pollRates (rates : BitVec 128) (rfm : BitVec 16) (p : Plane) : Plane :=
  (List.range 64).foldl (fun q c =>
    let r := (rates.extractLsb' (2 * c) 2).toNat
    let x := chan q c
    setChan q c { x with refMul := if r = 0 then 1 else if r = 1 then 2 else 4, rfmThr := rfm.toNat }) p

/-- Counts and reports of the ended epoch start again (R55, R254). -/
def freshEpoch (p : Plane) : Plane :=
  { p with ports := p.ports.map (fun x => (x.1, { x.2 with retry := { x.2.retry with badCw := 0 } })),
           links := p.links.map (fun x => (x.1, { x.2 with retry := { x.2.retry with badCw := 0 } })),
           dw := { p.dw with unreach := [], heldRep := false } }

/-- Requests still held for a newer epoch are reported once in each epoch (R266). -/
def reportHeld (p : Plane) : Plane :=
  let n := (p.jobs.filter fun x => x.phase == .epoch).length
  if n = 0 then p else raise 26 0 (BitVec.ofNat 32 n) 0 { p with dw := { p.dw with heldRep := true } }

/-- The data plane's part of a boundary: the count, the new configuration, and the reports (R14, R15). -/
def epochPlane (rates : BitVec 128) (rfm : BitVec 16) (p : Plane) : Plane :=
  let q := { p with epoch := (p.epoch + 1) % 2 ^ 64, clock := max p.clock ((p.epoch + 1) * epochLen) }
  reportHeld (commitMap (pollRates rates rfm (applyShares (freshEpoch q))))

end Sys2Proof.Machine
end

