-- ==== Sys2Proof/Machine/Ctl.lean ====
section
/-! DEFINITION. The state of the management die, the Kiln, the sideband and the Sagger as plain data (chapters 12, 13, 14,
16, 17, 18 and 19). A field's default is its value after reset. -/
namespace Sys2Proof.Machine
open Sys2Proof

/-- A field held in three copies (R324). -/
structure Voted (α : Type) where
  a : α
  b : α
  c : α
deriving DecidableEq, Repr

/-! ### Command queues, the SPI port, the event ring -/

/-- One command queue (R291 to R295): its registers, its doorbells, and what its two rings in host memory hold. -/
structure Ring where
  sqBase : BitVec 64 := 0
  rqBase : BitVec 64 := 0
  /-- CMDQ_CTRL_q. -/
  ctrl   : Voted Reg := ⟨0, 0, 0⟩
  err    : Bool := false
  phase  : Bool := true
  rqTail : BitVec 8 := 0
  sqHead : BitVec 8 := 0
  sqTail : BitVec 8 := 0
  rqHead : BitVec 8 := 0
  /-- ENABLE was cleared while the queue's command had not replied: the pointers reset after its reply (R291). -/
  stopping : Bool := false
  /-- Packets host software has put into submission slots, and replies the module has written into reply slots. -/
  packets : Table (BitVec 512) := []
  replies : Table (BitVec 256) := []
deriving DecidableEq, Repr

/-- The SPI fallback port (R305). `out` is what the last frame returned. -/
structure Spi where
  cmd       : Option (BitVec 512) := none
  reply     : Option (BitVec 256) := none
  compl     : List (BitVec 256) := []
  overflow  : Bool := false
  discarded : Bool := false
  /-- A reply, a pending command and a completion record that no STAT frame has shown yet: bits 0 to 2 of STAT. -/
  replyNew  : Bool := false
  cmdNew    : Bool := false
  complNew  : Bool := false
  out       : BitVec 256 := 0
deriving DecidableEq, Repr

/-- The event ring (R336) and what it holds in host memory. -/
structure EvRing where
  base  : BitVec 64 := 0
  /-- EVT_CTRL. -/
  ctrl  : Voted Reg := ⟨0, 0, 0⟩
  head  : BitVec 16 := 0
  tail  : Nat := 0
  err   : Bool := false
  phase : Bool := true
  slots : Table (BitVec 256) := []
  /-- Entries of each vector written since its last message (R340). -/
  since : Table Nat := []
deriving DecidableEq, Repr

/-- The MSI-X table, its pending bits, and the messages sent by vector (R325, R340). An entry is address, data and vector
control; the mask bit is 1 after reset. -/
structure Msix where
  table : Table (BitVec 128) := []
  pend  : BitVec 64 := 0
  sent  : Table Nat := []
deriving DecidableEq, Repr

/-- A fire group being fired: the snapshot of its staged values, and the units that have not applied it (R317). -/
structure Firing where
  snap  : Table Reg
  units : List Nat
deriving DecidableEq, Repr

/-- What a command that waits for a busy line will do (R142, R355). -/
inductive HeldWork where
  | setway (n set way op : Nat) (lockedOk : Bool)
  | inject (kind line : Nat) (symbols : BitVec 72) (word bit0 bit1 : Nat)
deriving DecidableEq, Repr

/-- A command that waits for a busy line. -/
structure HeldCmd where
  queue  : Nat
  seq    : BitVec 32
  opcode : BitVec 16
  work   : HeldWork
  /-- The internal operation that waits for the line (R93). -/
  job    : Nat
  /-- The host memory takes the reply (R295). -/
  replyOk : Bool := true
  /-- The endpoint was disabled meanwhile: its reply is discarded (R432). -/
  mute   : Bool := false
deriving DecidableEq, Repr

/-- One firmware slot of the flash (R414, R415). Unlisted bytes are 0xFF. -/
structure FwSlot where
  valid   : Bool := false
  version : BitVec 32 := 0
  bytes   : Table Byte := []
deriving DecidableEq, Repr

/-- How far the module is powered (R397, R406, R410, R416, R421, R441). -/
inductive Life where
  | noVin
  | overVoltage
  | run
  | recovery
  | retain
  | off
  | tripped
deriving DecidableEq, Repr

/-- The management die: queues, rings, registers, firmware and power (chapters 12, 13, 14, 18). -/
structure Mgmt where
  life      : Life := .run
  /-- DEV_STATE POWER: 0 ACTIVE, 1 IDLE, 2 RETAIN, 3 OFF. -/
  power     : Nat := 0
  ready     : Bool := true
  /-- Accepted DEV_RESET_WARM not yet over: the interpreter starts no command (R304). -/
  warm      : Bool := false
  /-- The management processor is stopped (R16): no row stops it. -/
  procStop  : Bool := false
  unclean   : Bool := false
  hwRev     : BitVec 8 := 0
  scratch   : Reg := 0
  dbgLock   : Voted Bool := ⟨false, false, false⟩
  keyOpen   : Bool := false
  badKeys   : BitVec 16 := 0
  dropped   : Bool := false
  /-- Staged values of RWF registers that differ from their reset value, by BAR0 offset (R316). -/
  staged    : Table Reg := []
  fires     : List (Nat × Firing) := []
  fireErr   : BitVec 8 := 0
  /-- Shadows of 64-bit pairs by the BAR0 offset of the low word (R321). -/
  shadows   : Table Reg := []
  /-- The management processor's own shadows (R321): its reads are no row. -/
  ownShadows : Table Reg := []
  rings     : Table Ring := []
  /-- The queue from which the interpreter's running round continues (R300). -/
  round     : Nat := 0
  spi       : Spi := {}
  ev        : EvRing := {}
  msix      : Msix := {}
  held      : Option HeldCmd := none
  /-- The PCIe endpoint is enabled (R432). -/
  endpoint  : Bool := true
  /-- The last word a register read returned. -/
  readData  : Reg := 0
  /-- Snapshots and replies beside the rings: the values an ODO_SNAPSHOT wrote, by host address (R348). -/
  dumps     : Table (BitVec 64) := []
  /-- Snapshot values latched and not yet written: operation, and values. -/
  latched   : List (Nat × Nat × List (BitVec 64)) := []
  /-- Firmware slots and start records (R415). -/
  slotA     : FwSlot := { valid := true, version := 0x00030100 }
  slotB     : FwSlot := {}
  startSlot : Nat := 0
  oneShot   : Option Nat := none
  running   : Nat := 0
  /-- A running FW_STAGE: offset, SRC, the bytes host memory holds there, FINAL (R417). -/
  stage     : Option (Nat × BitVec 64 × List Byte × Bool) := none
  /-- The clean-stop marker (R411). -/
  marker    : Bool := false
  /-- RATE_CUR, and the rate that flash holds training settings for, by channel, plus one (R412). -/
  rateCur   : Nat := 4
  settings  : Table Nat := []
  /-- Powered hours counted up to the last start (R400). -/
  hours     : Nat := 0
deriving DecidableEq, Repr

/-! ### The Kiln (chapter 17) -/

/-- One clock island: plan in force, soft limit in MHz (2,400: none), hard throttle, cap in MHz (2,400: none), FCODE in force,
a retune pause. -/
structure Island where
  f      : Nat := 16
  v      : Nat := 20
  soft   : Nat := 2400
  hard   : Bool := false
  cap    : Nat := 2400
  fCur   : Nat := 16
  paused : Bool := false
  /-- Host-assisted mode: it was found at or above 95 °C, and 105 °C. -/
  warm95 : Bool := false
  hot105 : Bool := false
deriving DecidableEq, Repr

/-- A plan: its number, the points of its islands (island, FCODE, VCODE), the islands still to settle, and its operation. -/
structure MPlan where
  id     : BitVec 32
  points : List (Nat × Nat × Nat)
  left   : List (Nat × Nat × Nat)
  op     : Option Nat := none
deriving DecidableEq, Repr

/-- A sensor (R393) and a canary (R399). -/
structure Sensor where
  temp  : BitVec 16 := 0
  fault : Bool := false
deriving DecidableEq, Repr
structure Canary where
  valid : Bool := false
  slack : BitVec 16 := 0
deriving DecidableEq, Repr

/-- The Kiln. -/
structure Kiln where
  islands  : Table Island := []
  sensors  : Table Sensor := []
  canaries : Table Canary := []
  /-- VIN input power over the last epoch, and the caps (R395); cap 0 is none. -/
  watts    : Nat := 0
  powerCap : Nat := 0
  powerLim : Nat := 2400
  /-- THERMAL_CFG values that take effect at the next boundary: caps by island, and the power cap. -/
  nextCap  : Table Nat := []
  nextPow  : Option Nat := none
  /-- PLAN_ID last made, and last applied. -/
  lastId   : BitVec 32 := 0
  applied  : BitVec 32 := 0
  /-- Plans asked for and not yet made: islands and operation. -/
  asked    : List (BitVec 128 × Option Nat) := []
  pend     : Option MPlan := none
  applying : List MPlan := []
  /-- The margin ledger by index, and the sequence number of the next entry (R403). -/
  ledger   : Table (BitVec 192) := []
  nextSeq  : BitVec 32 := 0
  /-- Domains off, and domains with a regulator fault (R390, R391). -/
  domOff   : BitVec 64 := 0
  domFault : BitVec 64 := 0
deriving DecidableEq, Repr

/-! ### SMBus, JTAG and pins (chapter 19) -/

/-- The sideband and the pins. -/
structure Side where
  pwrgd     : Bool := true
  thermtrip : Bool := false
  alert     : Bool := false
  vio       : Bool := true
  alertStat : BitVec 8 := 0
  alertMask : BitVec 8 := 0x3F
  tjMax     : BitVec 16 := 0
  tileTj    : Table (BitVec 16) := []
  vin       : BitVec 16 := 0
  pin       : BitVec 16 := 0
  alertTj   : BitVec 16 := 360
  alertPw   : BitVec 16 := 580
  /-- Bytes the last SMBus transaction returned, and whether it was NACKed. -/
  out       : List Byte := []
  nack      : Bool := false
  /-- JTAG: the instruction register, the instruction that holds the pins, and an instruction that lost them (R437). -/
  ir        : BitVec 8 := 0xFF
  pins      : Option (BitVec 8) := none
  lapsed    : Bool := false
deriving DecidableEq, Repr

/-! ### The Sagger (chapter 16) -/

/-- Reference states (R361). -/
inductive RefState where
  | acquiring
  | locked
  | holdover
deriving DecidableEq, Repr

/-- What the Sagger has gathered for one instance in one window (Table 16.4). -/
structure SagInst where
  events    : Nat := 0
  bytes     : Nat := 0
  adjStartB : Nat := 0
  adjEndB   : Nat := 0
  adjStartE : Nat := 0
  adjEndE   : Nat := 0
  orphans   : Nat := 0
  withdrawn : Nat := 0
deriving DecidableEq, Repr

/-- A window, running or ended and not yet closed (R370 to R373). Times are half-nanoseconds since 0 s. -/
structure SagWin where
  seq      : Nat := 0
  start    : Nat := 0
  lenMs    : Nat := 60000
  stop     : Option Nat := none
  /-- FLAGS so far (Table 16.3). -/
  flags    : BitVec 16 := 0
  refEnd   : RefState := .acquiring
  sealEnd  : BitVec 32 := 0
  romCrc   : BitVec 32 := 0
  powerUps : Nat := 0
  auditN   : Nat := 0
  loss     : Table Nat := []
  unmet    : Nat := 0
  /-- Half-nanoseconds in HOLDOVER so far. -/
  holdTime : Nat := 0
  labels   : Table (BitVec 64) := []
  insts    : Table SagInst := []
deriving DecidableEq, Repr

/-- The Sagger. The legal parameters, the seal counter, the audit log and POWER_UPS are nonvolatile. -/
structure Sag where
  /-- VSAG is present. -/
  powered  : Bool := true
  time     : Nat := 0
  timeValid : Bool := false
  /-- A SET_TIME waits for the next second edge: seconds, and whether SEAL_N admitted it. -/
  setPend  : Option (Nat × Bool) := none
  ref      : RefState := .acquiring
  /-- When the running HOLDOVER began, and when the running window last counted it. -/
  holdFrom : Nat := 0
  holdMark : Nat := 0
  lenMs    : Nat := 60000
  lenNext  : Nat := 60000
  labels   : Table (BitVec 64) := []
  labelsNext : Table (BitVec 64) := []
  refSel   : Nat := 0
  policy   : Nat := 1
  limitS   : Nat := 3600
  sealCnt  : BitVec 32 := 0
  audit    : List (BitVec 256) := []
  powerUps : Nat := 1
  /-- SEAL_N asserted. -/
  sealN    : Bool := true
  romRuns  : Nat := 1
  win      : SagWin := {}
  /-- Ended windows not yet closed, oldest first, and closed records, oldest first. -/
  ending   : List SagWin := []
  records  : List SagWin := []
  /-- Per tile: the next record number expected. -/
  expect   : Table Nat := []
  /-- Tap records lost since power-up. -/
  lost     : Nat := 0
  /-- Events for the next mirror stream: source, code, data, payload. -/
  news     : List (Nat × BitVec 16 × BitVec 32 × BitVec 128) := []
  /-- The last answer on the meter port. -/
  answer   : List Byte := []
deriving DecidableEq, Repr

/-- The mirror as the management die holds it (R382): the Sagger's last stream, with its clock. -/
structure Mirror where
  present : Bool := false
  sag     : Sag := {}
deriving DecidableEq, Repr

end Sys2Proof.Machine
end

