-- ==== Sys2Proof/Machine/State.lean ====
section
/-! DEFINITION. The state of the module, its faults and refusals, and the state at READY (Table 18.2). -/
namespace Sys2Proof.Machine
open Sys2Proof

/-- No command of this hardware ends in a fault: the spec gives every command row an effect on every operand. -/
inductive Fault where
  /-- Raised by no command: safe. -/
  | none
deriving DecidableEq, Repr

/-- Why a command is refused. -/
inductive Refusal where
  /-- A row that has no meaning yet: safe. Raised by no command of this model. -/
  | notModelled (mnemonic : String)
deriving DecidableEq, Repr

/-- What the register interface last copied out of the islands (R320). -/
structure Copies where
  dp  : Plane
  kn  : Kiln
  mir : Mirror
deriving DecidableEq, Repr

/-- The whole module. -/
structure State where
  mg   : Mgmt
  kn   : Kiln
  side : Side
  sg   : Sag
  mir  : Mirror
  dp   : Plane
  rc   : Copies
  /-- Commands that wait, first in, first out. -/
  pending : List Instr
deriving DecidableEq, Repr

/-- READY after power-on (Table 18.2): every field at its default, which is the value the spec gives or a log entry names. -/
def State.reset : State :=
  { mg := {}, kn := {}, side := {}, sg := {}, mir := {}, dp := {},
    rc := { dp := {}, kn := {}, mir := {} }, pending := [] }

end Sys2Proof.Machine
end

