-- ==== Sys2Proof/Machine/Run.lean ====
section
/-! DEFINITION. How a row acts on the module: on the data plane while it is powered, and with what ends or wakes at once. -/
namespace Sys2Proof.Machine
open Sys2Proof

/-- A row of the data plane: nothing happens there while it is not powered (R392, R397, R416). -/
def onPlane (f : Plane → Plane) (s : State) : Host.Outcome State Fault Refusal :=
  .next (if s.mg.life = .run then { s with dp := wake (tidy (f s.dp)) } else s)

/-- A message as its slots carry it: no mask and no data in one slot, a full mask in five (Table 03.5). -/
def asSlots (n : Option Nat) (b : Body) : Body :=
  match n with
  | some 6 => b
  | some 5 => { b with mask := fullMask }
  | _ => { b with mask := 0, data := 0 }

/-- A message of an agent of this module. -/
def fromPort (i : Nat) (cls : BitVec 3) (op : BitVec 5) (b : Body) (k : Body → Plane → Plane) (p : Plane) : Plane :=
  let b := asSlots (agentSlots cls op) b
  recvPort i cls op b (k b) p

/-- A message of a join link; a code that Table 03.6 and Table 10.2 do not allow there is a protocol error (R241). -/
def fromLink (j : Nat) (r : Route) (g : BitVec 64) (cls : BitVec 3) (op : BitVec 5) (b : Body) (k : Body → Plane → Plane)
    (p : Plane) : Plane :=
  let b := asSlots (joinSlots cls op) b
  if (joinSlots cls op).isNone then (if (link p j).state = .active then failLink j p else p)
  else if (link p j).state ≠ .active ∧ !((link p j).rx.contains (.join r g cls op b)) then p
  else recvJoin j r g cls op b (k b) p

/-- The opcode field of a request (Table 03.6). -/
def opBits (op : ReqOp) : BitVec 5 := BitVec.ofNat 5 (reqCode op)

/-- A REQ from an agent or another module. -/
def request (op : ReqOp) (f : From) (b : Body) (p : Plane) : Plane :=
  match f with
  | .port i => fromPort i 0 (opBits op) b (fun b => portReq i op b) p
  | .link j r => fromLink j r 0 0 (opBits op) b (fun b => joinReq j r op b) p
  | .net _ _ => p

/-- A message that answers a snoop: RSP.I, RSP.S, RSP.I_WBPEND. -/
def snoopAnswer (op : BitVec 5) (x : Ans) (f : From) (b : Body) (p : Plane) : Plane :=
  match f with
  | .port i => fromPort i 4 op b (fun b => stretched i 4 op b (.snoop x)) p
  | .link j r => fromLink j r 0 4 op b (fun b => joinAnswer j r 4 op.toNat b (some x)) p
  | .net _ _ => p

/-- DAT.DATA or DAT.DATA_POISON. -/
def dataMessage (poison : Bool) (f : From) (b : Body) (p : Plane) : Plane :=
  let op : BitVec 5 := if poison then 1 else 0
  match f with
  | .port i => fromPort i 3 op b (fun b => stretched i 3 op b (.data b.data poison)) p
  | .link j r => fromLink j r 0 3 op b (fun b => joinAnswer j r 3 op.toNat b
      (some (if poison then .poison else .data (dirtyBit b.info) (keepS b.info) b.data))) p
  | .net _ _ => p

/-- RSP.COMP and RSP.COMP_ERR, which end forwarded I/O; between modules they answer requests. -/
def ioAnswer (op : BitVec 5) (x : Body → Reply) (f : From) (b : Body) (p : Plane) : Plane :=
  match f with
  | .port i => fromPort i 4 op b (fun b => portReply i b (x b)) p
  | .link j r => fromLink j r 0 4 op b (fun b => joinAnswer j r 4 op.toNat b none) p
  | .net _ _ => p

/-- A notice to a hopper, from a home here or on another module (Table 10.2). -/
def notice (kind : Nat) (f : From) (b : Body) (k : Body → Nat → Nat → Plane → Plane) (p : Plane) : Plane :=
  let op := BitVec.ofNat 5 (0x17 + kind)
  match f with
  | .port i => fromPort i 4 op b (fun _ q => q) p
  | .link j r => fromLink j r 0 4 op b (fun b => joinNotice j r op.toNat b (k b)) p
  | .net i rsn => ownNotice kind i rsn.toNat p

end Sys2Proof.Machine
end

