-- ==== Sys2Proof/Machine/Engines.lean ====
section
/-! DEFINITION. What happens on the tiles by itself: homes, DRAM channels, scrubbing, hoppers, instances, perturbation and taps (chapters
05 to 09, 11, 15 and 16). -/
namespace Sys2Proof.Machine
open Sys2Proof

/-- TRANSACTION_START: the head of a line's queue starts once the line is free (R95). -/
def execTransactionStart (line : BitVec 33) (s : State) : Host.Outcome State Fault Refusal :=
  onPlane (startHead line.toNat) s

/-- FETCHED_DATA: DRAM data reaches the transaction that waits for it (R113). -/
def execFetchedData (ch : Fin 64) (s : State) : Host.Outcome State Fault Refusal :=
  onPlane (dataBack ch) s

/-- BROADCAST_TOKEN: the bucket gains a token (R102). -/
def execBroadcastToken (t : Fin 4) (s : State) : Host.Outcome State Fault Refusal :=
  onPlane (gainToken t) s

/-- RSV_HOLD: a reservation hold expires (R176). -/
def execRsvHold (agent : Agent) (line : BitVec 33) (s : State) : Host.Outcome State Fault Refusal :=
  onPlane (holdEnd agent.toNat line.toNat) s

/-- ADMISSION: a tile admits its next request (R276 to R278). -/
def execAdmission (t : Fin 4) (s : State) : Host.Outcome State Fault Refusal :=
  onPlane (admitNext t) s

/-- DMC_QUEUE_GRANT: a freed DRAM queue entry goes to a waiting access (R189, R279). -/
def execDmcQueueGrant (ch : Fin 64) (wr : Bool) (s : State) : Host.Outcome State Fault Refusal :=
  onPlane (queueGrant ch wr) s

/-- DRAM_COMMAND_ISSUE: the scheduler issues its highest-ranked allowed command (R192, R193). -/
def execDramCommandIssue (ch : Fin 64) (s : State) : Host.Outcome State Fault Refusal :=
  onPlane (issueCmd ch) s

/-- REFRESH_DUE: a bank's refresh falls due (R198). -/
def execRefreshDue (ch : Fin 64) (bank : Fin 16) (s : State) : Host.Outcome State Fault Refusal :=
  onPlane (refreshOwed ch bank) s

/-- PAGE_IDLE_TIMER: a bank's idle timer expires (R190). -/
def execPageIdleTimer (ch : Fin 64) (bank : Fin 16) (s : State) : Host.Outcome State Fault Refusal :=
  onPlane (pageIdle ch bank) s

/-- DEVICE_POWER_DOWN: an idle channel enters power-down (R212). -/
def execDevicePowerDown (ch : Fin 64) (s : State) : Host.Outcome State Fault Refusal :=
  onPlane (powerDownChan ch) s

/-- STARVE: an access has waited longer than STARVE (R193). -/
def execStarve (ch : Fin 64) (k : BitVec 9) (s : State) : Host.Outcome State Fault Refusal :=
  onPlane (starveAcc ch k.toNat) s

/-- RETRAIN_DUE: a channel becomes due for a retrain (R201). -/
def execRetrainDue (ch : Fin 64) (s : State) : Host.Outcome State Fault Refusal :=
  onPlane (Sys2Proof.Machine.retrainDue ch) s

/-- RETRAIN_DEFERRAL_EXPIRY: a deferred retrain runs regardless (R202). -/
def execRetrainDeferralExpiry (ch : Fin 64) (s : State) : Host.Outcome State Fault Refusal :=
  onPlane (retrainForce ch) s

/-- RETRAIN_PAUSE_END: a retrain pause or a training ends; a full training saves its settings (R200, R203, R412). -/
def execRetrainPauseEnd (ch : Fin 64) (failed : Bool) (s : State) : Host.Outcome State Fault Refusal :=
  let full := (chan s.dp ch).state == .training && !failed
  let m : Mgmt := if full ∧ s.mg.life = .run then
      { s.mg with settings := tput 0 s.mg.settings ch (s.mg.rateCur + 1) } else s.mg
  onPlane (pauseEnd ch failed) { s with mg := m }

/-- EVACUATION_COPY: one line of an evacuating channel is copied (R206). -/
def execEvacuationCopy (ch : Fin 64) (s : State) : Host.Outcome State Fault Refusal :=
  onPlane (evacOne ch) s

/-- GLAZE_PASS_READ: one read of the DRAM glaze pass (R229). -/
def execGlazePassRead (ch : Fin 64) (s : State) : Host.Outcome State Fault Refusal :=
  onPlane (glazeOne ch) s

/-- SRAM_PASS_READ: one position of the SRAM pass (R238). -/
def execSramPassRead (array : Fin 68) (s : State) : Host.Outcome State Fault Refusal :=
  onPlane (sramOne array) s

/-- RANGE_SCRUB_READ: one line of a RANGE scrub (R231). -/
def execRangeScrubRead (op : Nat) (s : State) : Host.Outcome State Fault Refusal :=
  onPlane (rangeOne op) s

/-- ROW_RETIREMENT: a pending row retires (R235). -/
def execRowRetirement (ch : Fin 64) (bank : Fin 16) (row : BitVec 18) (s : State) : Host.Outcome State Fault Refusal :=
  onPlane (retireRow ch bank row.toNat) s

/-- ROW_COPY: one line of a retiring row is copied (R234). -/
def execRowCopy (ch : Fin 64) (s : State) : Host.Outcome State Fault Refusal :=
  onPlane (rowCopyOne ch) s

/-- TRACKER_EXPIRY: a row leaves the tracker after 24 h (R235). -/
def execTrackerExpiry (ch : Fin 64) (bank : Fin 16) (row : BitVec 18) (s : State) : Host.Outcome State Fault Refusal :=
  onPlane (trackerDrop ch bank row.toNat) s

/-- REPLAY_PREFETCH: one prefetch of a descriptor (R137). -/
def execReplayPrefetch (desc : Byte) (s : State) : Host.Outcome State Fault Refusal :=
  onPlane (prefetchOne desc.toNat) s

/-- MAINTENANCE_LINE_OP: one line of a walk is acted on (R139). -/
def execMaintenanceLineOp (op : Nat) (s : State) : Host.Outcome State Fault Refusal :=
  onPlane (walkOne op) s

/-- HOPPER_ACCEPTANCE: a waiting store is accepted into its hopper (R157). -/
def execHopperAcceptance (p : Fin 32) (s : State) : Host.Outcome State Fault Refusal :=
  onPlane (acceptNext p) s

/-- HOPPER_READ_RESUME: a held read goes on (R159, R160). -/
def execHopperReadResume (p : Fin 32) (s : State) : Host.Outcome State Fault Refusal :=
  onPlane (resumeRead p) s

/-- FENCE_COMPLETE: a FENCE with no older entry completes (R160). -/
def execFenceComplete (p : Fin 32) (s : State) : Host.Outcome State Fault Refusal :=
  onPlane (fenceDone p) s

/-- IO_WR_SEND: a REQ.IO_WR is sent to its target (R172). -/
def execIoWrSend (p : Fin 32) (s : State) : Host.Outcome State Fault Refusal :=
  onPlane (ioWrGo p) s

/-- IO_TIMEOUT: a forwarded request ends with TIMEOUT (R72). -/
def execIoTimeout (p : Fin 32) (tag : BitVec 16) (s : State) : Host.Outcome State Fault Refusal :=
  onPlane (ioExpire p tag) s

/-- HOP_DRAIN_STALL: a drain has run longer than 50 µs (R180). -/
def execHopDrainStall (t : Fin 4) (s : State) : Host.Outcome State Fault Refusal :=
  onPlane (drainStall t) s

/-- SQUASH: the drain time of an instance reset ends (R285). -/
def execSquash (i : Fin 128) (s : State) : Host.Outcome State Fault Refusal :=
  onPlane (fun p => if (resetOp p i).isSome then Sys2Proof.Machine.squash i p else p) s

/-- ISM_RESET_STALL: a reset is not complete 1 ms after its squash (R285). -/
def execIsmResetStall (i : Fin 128) (s : State) : Host.Outcome State Fault Refusal :=
  onPlane (resetStall i) s

/-- RESET_COMPLETE: the last old-generation work has ended (R285, R287). -/
def execResetComplete (i : Fin 128) (s : State) : Host.Outcome State Fault Refusal :=
  onPlane (resetDone i) s

/-- HOLD_OFF_END: a source's hold-off ends (R339). -/
def execHoldOffEnd (source : Fin 288) (s : State) : Host.Outcome State Fault Refusal :=
  .next (if s.mg.life = .noVin then s else { s with dp := endHold source s.dp })

/-- PERTURBATION_RELEASE: a held message goes on (R351). -/
def execPerturbationRelease (engine : Fin 6) (target : Fin 64) (k : BitVec 10) (s : State) : Host.Outcome State Fault Refusal :=
  onPlane (releaseHeld engine target k.toNat) s

/-- CREDIT_PATTERN_PERIOD: a pattern period of engine 1 ends (R351). -/
def execCreditPatternPeriod (p : Fin 32) (s : State) : Host.Outcome State Fault Refusal :=
  onPlane (nextPeriod p) s

/-- TAP_BUCKET_END: a 16 µs tap bucket ends (R369). -/
def execTapBucketEnd (t : Fin 4) (s : State) : Host.Outcome State Fault Refusal :=
  onPlane (endBucket t) s

/-- FRAME_ORPHAN_TIMEOUT: a frame open for 1 s closes as an orphan (R367). -/
def execFrameOrphanTimeout (p : Fin 32) (sub : Fin 8) (s : State) : Host.Outcome State Fault Refusal :=
  onPlane (orphanFrame (8 * p + sub)) s

/-- TIME_LINK_DOWN: a tile has had no valid time stream for 2 µs (R365). -/
def execTimeLinkDown (t : Fin 4) (s : State) : Host.Outcome State Fault Refusal :=
  onPlane (timeDown t) s

/-- TIME_STREAM_RETURN: the time stream returns to a tile (R365). -/
def execTimeStreamReturn (t : Fin 4) (s : State) : Host.Outcome State Fault Refusal :=
  onPlane (fun p => if s.sg.powered then timeBack t { p with tapTime := s.sg.time } else p) s

/-- ISLAND_CLOCK_GATE: in IDLE an island without work gates its clock (R392). -/
def execIslandClockGate (i : Fin 128) (s : State) : Host.Outcome State Fault Refusal :=
  onPlane (fun p => if s.mg.power = 1 then gateIsland i p else p) s

end Sys2Proof.Machine
end

