-- ==== Sys2Proof/Machine/Fabric.lean ====
section
/-! DEFINITION. The Drayway rows: failover, copies and snoops from other modules, answers at the origin, and sending on (chapter 10). -/
namespace Sys2Proof.Machine
open Sys2Proof

/-- RSP_LINK_FAILOVER: the peer's failover notice (R259). -/
def execRspLinkFailover (j : Fin 16) (r : Route) (b : Body) (s : State) : Host.Outcome State Fault Refusal :=
  onPlane (fromLink j r 0 4 0x1B b fun b => joinFailover j r b) s

/-- FAILOVER_NOTICE_TIMEOUT: no failover notice within 10 ms (R258). -/
def execFailoverNoticeTimeout (j : Fin 16) (s : State) : Host.Outcome State Fault Refusal :=
  onPlane (failoverLate j) s

/-- MULTICAST_COPY: a copy of a coarse snoop (R261). -/
def execMulticastCopy (j : Fin 16) (r : Route) (groups : BitVec 64) (shared : Bool) (b : Body) (s : State) : Host.Outcome State Fault Refusal :=
  onPlane (fromLink j { r with mcast := true } groups 1 (if shared then 0 else 1) b fun b =>
    joinCopy j { r with mcast := true } groups shared b) s

/-- JOIN_SNOOP_DELIVERY: a precise snoop of a home on another module (R251). -/
def execJoinSnoopDelivery (j : Fin 16) (r : Route) (shared : Bool) (b : Body) (s : State) : Host.Outcome State Fault Refusal :=
  onPlane (fromLink j { r with mcast := false } 0 1 (if shared then 0 else 1) b fun b =>
    joinSnoop j { r with mcast := false } shared b) s

/-- ORIGIN_ANSWER_DELIVERY: a DAT or RSP of a home on another module reaches the origin (R245, R283). -/
def execOriginAnswerDelivery (j : Fin 16) (r : Route) (cls : BitVec 3) (op : BitVec 5) (b : Body) (s : State) : Host.Outcome State Fault Refusal :=
  onPlane (fun p => if cls = 3 ∨ cls = 4 then
    fromLink j r 0 cls op b (fun b => joinAnswer j r cls.toNat op.toNat b none) p else p) s

/-- MESSAGE_FORWARD: a message for another node leaves: one created here, or one in transit from a link (R254). -/
def execMessageForward (src : Option (Fin 16)) (k : BitVec 16) (s : State) : Host.Outcome State Fault Refusal :=
  onPlane (match src with
    | none => forwardOwn k.toNat
    | some j => forwardFrom j k.toNat) s

end Sys2Proof.Machine
end

