-- ==== Sys2Proof/Machine/Links.lean ====
section
/-! DEFINITION. The link layer: flits, retry, parameters, training and the loss of a link (chapter 03, R240 to R242). -/
namespace Sys2Proof.Machine
open Sys2Proof

/-- Signal found on lane 0 of a join link that waits at step 1: its SYNC messages and its JPARAM go out (R69, R240). -/
def detectLink (j : Nat) (p : Plane) : Plane :=
  let l := link p j
  if l.state = .training ∧ l.step = 1 then
    setLink p j { l with step := 2,
                         retry := sendFlit (sendSyncs (freshRetry l.retry)) (.ctrl (moduleJparam p.dw.node j)) }
  else p

/-- A port or link that has lost its signal for 1 ms: a link fault, or its training begins again (R55, R241). -/
def loseSignal (e : LinkEnd) (p : Plane) : Plane :=
  match e with
  | .port i => if (port p i).state = .active ∨ (port p i).state = .retraining then contain i cLinkFault p else stepFailPort i p
  | .join j => if (link p j).state = .active ∨ (link p j).state = .retraining then failLink j p else stepFailLink j p

/-- The 100 ms after a lane 0 failure are over (R47). -/
def restartTraining (e : LinkEnd) (p : Plane) : Plane :=
  match e with
  | .port i => if (port p i).step = 8 then setPort p i { port p i with step := 1 } else p
  | .join j => if (link p j).step = 8 then setLink p j { link p j with step := 1 } else p

/-- FLIT_RECEIVE: a flit arrives, with what its codewords say (R46, R53). -/
def execFlitReceive (e : LinkEnd) (f : Flit) (cw : BitVec 4) (s : State) : Host.Outcome State Fault Refusal :=
  onPlane (recvFlit e f cw) s

/-- RETRY_REQ: the other end asks for every flit from a number on (R54). -/
def execRetryReq (e : LinkEnd) (seq : BitVec 10) (s : State) : Host.Outcome State Fault Refusal :=
  onPlane (fun p => if endActive p e then recvRetryReq e seq.toNat p else p) s

/-- RETRY_REQ_REPEAT: the awaited flit has not come (R53). -/
def execRetryReqRepeat (e : LinkEnd) (s : State) : Host.Outcome State Fault Refusal :=
  onPlane (repeatRetryReq e) s

/-- PARAM: the agent's PARAM (R64, R70). -/
def execParam (p : Fin 32) (w : Slot) (s : State) : Host.Outcome State Fault Refusal :=
  onPlane (takeParam p w) s

/-- JPARAM: the peer's JPARAM (R242, R250). -/
def execJparam (j : Fin 16) (w : Slot) (s : State) : Host.Outcome State Fault Refusal :=
  onPlane (takeJparam j w) s

/-- SIGNAL_LOSS: no signal on lane 0, or no codeword decoded, for 1 ms (R55). -/
def execSignalLoss (e : LinkEnd) (s : State) : Host.Outcome State Fault Refusal :=
  onPlane (loseSignal e) s

/-- TRAINING_STEP_TIMEOUT: a training step exceeds its Max (R445). -/
def execTrainingStepTimeout (e : LinkEnd) (s : State) : Host.Outcome State Fault Refusal :=
  onPlane (fun p => match e with
    | .port i => stepFailPort i p
    | .join j => stepFailLink j p) s

/-- TRAINING_RESTART: a port or link starts its training again 100 ms after a lane 0 failure (R47). -/
def execTrainingRestart (e : LinkEnd) (s : State) : Host.Outcome State Fault Refusal :=
  onPlane (restartTraining e) s

/-- TRAINING_END: a training or a retrain ends at the width that the lanes passed at both ends and the peer's maximum give (R47,
R48). -/
def execTrainingEnd (e : LinkEnd) (t : Trained) (s : State) : Host.Outcome State Fault Refusal :=
  onPlane (match e with
    | .port i => endTrainPort i (chosenWidth t.lanes t.peerMax.toNat)
    | .join j => endTrainLink j (chosenWidth t.lanes t.peerMax.toNat)) s

/-- CONTAIN_TIMEOUT: a CONTAINED port has not come back in time (R77). -/
def execContainTimeout (p : Fin 32) (s : State) : Host.Outcome State Fault Refusal :=
  onPlane (fun q => if (port q p).state = .contained then detach p q else q) s

/-- SIGNAL_DETECT: signal appears on lane 0 at training step 1 (R47). -/
def execSignalDetect (e : LinkEnd) (s : State) : Host.Outcome State Fault Refusal :=
  onPlane (fun p => match e with
    | .port i => detectPort i p
    | .join j => detectLink j p) s

end Sys2Proof.Machine
end

