-- ==== Sys2Proof/Machine/Messages.lean ====
section
/-! DEFINITION. The messages: requests, evictions, data, responses, releases and notices, from agents, from other modules and from the
module's own tile network (chapters 03 to 07 and 10). -/
namespace Sys2Proof.Machine
open Sys2Proof

/-- REQ_RD_SHARED: a read for a shared copy (R92, Table 05.1). -/
def execReqRdShared (f : From) (b : Body) (s : State) : Host.Outcome State Fault Refusal :=
  onPlane (request .rdShared f b) s

/-- REQ_RD_UNIQUE: a read for an exclusive copy (Table 05.1). -/
def execReqRdUnique (f : From) (b : Body) (s : State) : Host.Outcome State Fault Refusal :=
  onPlane (request .rdUnique f b) s

/-- REQ_RD_ONCE: a one-time read (Table 05.1, R159). -/
def execReqRdOnce (f : From) (b : Body) (s : State) : Host.Outcome State Fault Refusal :=
  onPlane (request .rdOnce f b) s

/-- REQ_CLEAN_UNIQUE: an upgrade from S to E (Table 05.1). -/
def execReqCleanUnique (f : From) (b : Body) (s : State) : Host.Outcome State Fault Refusal :=
  onPlane (request .cleanUnique f b) s

/-- REQ_WR_FULL: a full-line write (R153, R163). -/
def execReqWrFull (f : From) (b : Body) (s : State) : Host.Outcome State Fault Refusal :=
  onPlane (request .wrFull f b) s

/-- REQ_WR_PARTIAL: a masked write, possibly split or with zero MASK (R168, R170). -/
def execReqWrPartial (f : From) (b : Body) (s : State) : Host.Outcome State Fault Refusal :=
  onPlane (request .wrPartial f b) s

/-- REQ_LD_RSV: a load that makes a reservation (R173). -/
def execReqLdRsv (f : From) (b : Body) (s : State) : Host.Outcome State Fault Refusal :=
  onPlane (request .ldRsv f b) s

/-- REQ_ST_COND: a store-conditional (R175). -/
def execReqStCond (f : From) (b : Body) (s : State) : Host.Outcome State Fault Refusal :=
  onPlane (request .stCond f b) s

/-- REQ_AT_ADD: a home atomic add (R104). -/
def execReqAtAdd (f : From) (b : Body) (s : State) : Host.Outcome State Fault Refusal :=
  onPlane (request .atAdd f b) s

/-- REQ_AT_SWAP: a home atomic swap (R104). -/
def execReqAtSwap (f : From) (b : Body) (s : State) : Host.Outcome State Fault Refusal :=
  onPlane (request .atSwap f b) s

/-- REQ_AT_CAS: a home compare-and-swap (R104). -/
def execReqAtCas (f : From) (b : Body) (s : State) : Host.Outcome State Fault Refusal :=
  onPlane (request .atCas f b) s

/-- REQ_IO_RD: an I/O read of a DEVICE region (R72, R172). -/
def execReqIoRd (f : From) (b : Body) (s : State) : Host.Outcome State Fault Refusal :=
  onPlane (request .ioRd f b) s

/-- REQ_IO_WR: an I/O write of a DEVICE region (R72, R172). -/
def execReqIoWr (f : From) (b : Body) (s : State) : Host.Outcome State Fault Refusal :=
  onPlane (request .ioWr f b) s

/-- REQ_FENCE: a fence (R160). -/
def execReqFence (f : From) (b : Body) (s : State) : Host.Outcome State Fault Refusal :=
  onPlane (request .fence f b) s

/-- EVN_WB_DATA: an eviction of a modified line (R91, R111). -/
def execEvnWbData (f : From) (b : Body) (s : State) : Host.Outcome State Fault Refusal :=
  onPlane (fun p => match f with
    | .port i => fromPort i 2 0 b (fun b => portEvict i b) p
    | .link j r => fromLink j r 0 2 0 b (fun b => joinEvict j r b) p
    | .net _ _ => p) s

/-- DAT_DATA: data that answers a snoop or a forwarded read (R68, R72, R113). -/
def execDatData (f : From) (b : Body) (s : State) : Host.Outcome State Fault Refusal :=
  onPlane (dataMessage false f b) s

/-- DAT_DATA_POISON: poisoned data (R62, R221). -/
def execDatDataPoison (f : From) (b : Body) (s : State) : Host.Outcome State Fault Refusal :=
  onPlane (dataMessage true f b) s

/-- RSP_I: the agent holds no copy (Table 05.2). -/
def execRspI (f : From) (b : Body) (s : State) : Host.Outcome State Fault Refusal :=
  onPlane (snoopAnswer 0 .i f b) s

/-- RSP_S: the agent keeps S; in answer to SNP.INV it counts as RSP.I (R115). -/
def execRspS (f : From) (b : Body) (s : State) : Host.Outcome State Fault Refusal :=
  onPlane (snoopAnswer 1 .s f b) s

/-- RSP_I_WBPEND: an eviction is in flight (R111). -/
def execRspIWbpend (f : From) (b : Body) (s : State) : Host.Outcome State Fault Refusal :=
  onPlane (snoopAnswer 2 .wbpend f b) s

/-- RSP_COMP: the target has done a forwarded write (R72). -/
def execRspComp (f : From) (b : Body) (s : State) : Host.Outcome State Fault Refusal :=
  onPlane (ioAnswer 8 (fun _ => .comp) f b) s

/-- RSP_COMP_ERR: the target refuses a forwarded request (R72). -/
def execRspCompErr (f : From) (b : Body) (s : State) : Host.Outcome State Fault Refusal :=
  onPlane (ioAnswer 9 (fun b => .err (infoLow8 b.info)) f b) s

/-- RSP_COMP_ACK: a grant acknowledged: the directory is written and the transaction finishes (R67, R96). -/
def execRspCompAck (f : From) (b : Body) (s : State) : Host.Outcome State Fault Refusal :=
  onPlane (fun p => match f with
    | .port i => fromPort i 4 0xA b (fun b => portAck i b) p
    | .link j r => fromLink j r 0 4 0xA b (fun b q => joinAck (linkTile j) r b (giveJoin j 4 r.vcb q)) p
    | .net _ _ => p) s

/-- RSP_LEVEL: a sub-agent's buffer margin (R71, R195). -/
def execRspLevel (f : From) (b : Body) (s : State) : Host.Outcome State Fault Refusal :=
  onPlane (fun p => match f with
    | .port i => fromPort i 4 0x10 b (fun b => portLevel i b) p
    | .link j r => fromLink j r 0 4 0x10 b (fun _ q => q) p
    | .net _ _ => p) s

/-- REL_RELEASE: a release or withdrawal reaches its home (R163, R165, R179). -/
def execRelRelease (f : From) (b : Body) (s : State) : Host.Outcome State Fault Refusal :=
  onPlane (fun p => match f with
    | .port i => fromPort i 5 0 b (fun _ q => q) p
    | .link j r => fromLink j r 0 5 0 b (fun b q =>
        if relRoom q r b then joinRelease j r b q
        else setLink q j { link q j with rx := (link q j).rx ++ [.join r 0 5 0 b] }) p
    | .net i rsn => ownRelease i rsn.toNat p) s

/-- ACCEPTANCE_NOTICE: a home's acceptance reaches the hopper (R161). -/
def execAcceptanceNotice (f : From) (b : Body) (s : State) : Host.Outcome State Fault Refusal :=
  onPlane (notice 1 f b fun _ => noteAccepted) s

/-- VISIBILITY_NOTICE: visibility, or an error at the home, reaches the hopper (R163). -/
def execVisibilityNotice (f : From) (b : Body) (s : State) : Host.Outcome State Fault Refusal :=
  onPlane (notice 2 f b fun b i rsn => noteVisible i rsn (infoLow8 b.info) none) s

/-- RSP_SC_FAIL_RPT: the failure of a store-conditional reaches the hopper (R175). -/
def execRspScFailRpt (f : From) (b : Body) (s : State) : Host.Outcome State Fault Refusal :=
  onPlane (notice 3 f b fun _ => noteFailed) s

end Sys2Proof.Machine
end

