-- ==== Sys2Proof/Machine/Kiln.lean ====
section
/-! DEFINITION. The Kiln: islands, temperatures and throttling, caps, canaries, plans and their application, and the margin
ledger (chapter 17). -/
namespace Sys2Proof.Machine
open Sys2Proof

/-! ### Islands, sensors, domains (Table 17.1) -/

/-- The power domain of an island. -/
def islandDomain (i : Nat) : Nat :=
  let k := i % 32
  15 * (i / 32) + (if k < 8 then 1 + k / 2 else if k < 12 then 5 else if k < 28 then 6 + (k - 12) / 4
    else if k = 28 then 0 else if k < 31 then 11 else 13)
/-- The governing sensor of an island. -/
def islandSensor (i : Nat) : Nat :=
  let k := i % 32
  24 * (i / 32) + (if k < 8 then k / 2 else if k < 12 then 4 else if k < 28 then 5 + (k - 12)
    else if k = 28 then 21 else if k < 31 then 22 else 23)
/-- PORTS and JOIN domains, the only ones that DOMAIN_POWER switches (R390). -/
def isPorts (d : Nat) : Bool := decide (d < 60 ∧ 1 ≤ d % 15 ∧ d % 15 ≤ 4)
def isJoin (d : Nat) : Bool := decide (d < 60 ∧ d % 15 = 5)
/-- Ports and links of a domain (Table 17.2). -/
def domainPorts (d : Nat) : List Nat := if isPorts d then [8 * (d / 15) + 2 * (d % 15 - 1), 8 * (d / 15) + 2 * (d % 15 - 1) + 1] else []
def domainLinks (d : Nat) : List Nat := if isJoin d then (List.range 4).map fun j => 4 * (d / 15) + j else []
/-- The domain of a port and of a link. -/
def portDomain (p : Nat) : Nat := 15 * (p / 8) + 1 + p % 8 / 2
def linkDomain (j : Nat) : Nat := 15 * (j / 4) + 5

def island (k : Kiln) (i : Nat) : Island := tget {} k.islands i
def setIsland (k : Kiln) (i : Nat) (x : Island) : Kiln := { k with islands := tput {} k.islands i x }
def sensor (k : Kiln) (n : Nat) : Sensor := tget {} k.sensors n
def canary (k : Kiln) (c : Nat) : Canary := tget {} k.canaries c

/-! ### Frequencies and temperatures (R387, R393, R396) -/

/-- MHz of an FCODE, mV of a VCODE (R387, R389). -/
def mhz (f : Nat) : Nat := 1600 + 25 * f
def mvolt (v : Nat) : Nat := 650 + 5 * v
/-- FCODE of a frequency. -/
def fcode (m : Nat) : Nat := (m - 1600) / 25

/-- The effective frequency of an island (R396). -/
def fEff (k : Kiln) (x : Island) : Nat :=
  min (mhz x.f) (min x.soft (min (if x.hard then 1600 else 2400) (min x.cap k.powerLim)))

/-- The hottest of some working sensors; none works: `none`. -/
def hottest (k : Kiln) (ns : List Nat) : Option Int :=
  (ns.filter fun n => !(sensor k n).fault).foldl (fun best n =>
    let t := (sensor k n).temp.toInt
    match best with
    | none => some t
    | some b => some (max b t)) none
/-- TJ_MAX, in 0.25 °C units. -/
def tjMaxOf (k : Kiln) : BitVec 16 := BitVec.ofInt 16 ((hottest k (List.range 96)).getD 0)
/-- The hottest working sensor of a tile. -/
def tileTjOf (k : Kiln) (t : Nat) : BitVec 16 := BitVec.ofInt 16 ((hottest k ((List.range 24).map fun s => 24 * t + s)).getD 0)
/-- An island's temperature: its sensor's, or its tile's hottest while that sensor is faulty. -/
def islandTemp (k : Kiln) (i : Nat) : Int :=
  let s := sensor k (islandSensor i)
  if s.fault then (tileTjOf k (i / 32)).toInt else s.temp.toInt

/-- An island retuned to its effective frequency, with a pause where that changes (R398). -/
def retune (i : Nat) (k : Kiln) : Kiln :=
  let x := island k i
  let c := fcode (fEff k x)
  if c = x.fCur then k else setIsland k i { x with fCur := c, paused := true }

/-! ### Throttling (R394) -/

/-- KLN_0 of an island. -/
def throttleEvent (i : Nat) (code : BitVec 16) (k : Kiln) (p : Plane) : Plane :=
  raise 32 code (BitVec.ofNat 32 i)
    ((BitVec.ofInt 16 (islandTemp k i)).setWidth 128 ||| BitVec.ofNat 128 (islandSensor i * 2 ^ 16)) p

/-- An island's limits at an epoch boundary, with the events it raises: a hard throttle that ends leaves the soft one, which is entered
then if it did not stand. -/
def throttleStep (t : Int) (x : Island) : Island × List (BitVec 16) :=
  if x.hard then
    (if t < 400 then ({ x with hard := false, soft := 1600 }, 4 :: (if x.soft = 2400 then [1] else [])) else (x, []))
  else if 380 ≤ t then ({ x with soft := max 1600 (x.soft - 100) }, if x.soft = 2400 then [1] else [])
  else if t < 368 ∧ x.soft < 2400 then
    ({ x with soft := x.soft + 100 }, if x.soft + 100 = 2400 then [2] else [])
  else (x, [])

/-- Every island's limits at a boundary, in hardware mode of FM_THERMAL. -/
def throttleAll (k : Kiln) (p : Plane) : Kiln × Plane :=
  if hostMode p fmThermal then (k, p)
  else (List.range 128).foldl (fun (a : Kiln × Plane) i =>
    let r := throttleStep (islandTemp a.1 i) (island a.1 i)
    (setIsland a.1 i r.1, r.2.foldl (fun q c => throttleEvent i c a.1 q) a.2)) (k, p)

/-- What a temperature sample does to an island at once: the hard throttle, or the events of host-assisted mode. -/
def sampleStep (host : Bool) (t : Int) (x : Island) : Island × List (BitVec 16) :=
  let y := { x with warm95 := decide (380 ≤ t), hot105 := decide (420 ≤ t) }
  if host then
    (y, (if !x.warm95 && decide (380 ≤ t) then [1] else []) ++ (if !x.hot105 && decide (420 ≤ t) then [3] else []))
  else if 420 ≤ t ∧ x.hard = false then ({ y with hard := true }, [3])
  else (y, [])

/-- Every island after a sample. -/
def sampleAll (k : Kiln) (p : Plane) : Kiln × Plane :=
  (List.range 128).foldl (fun (a : Kiln × Plane) i =>
    let r := sampleStep (hostMode p fmThermal) (islandTemp a.1 i) (island a.1 i)
    (retune i (setIsland a.1 i r.1), r.2.foldl (fun q c => throttleEvent i c a.1 q) a.2)) (k, p)

/-- A sensor's reading: faulty where its self-check fails or it lies outside −40 to 150 °C (R393). -/
def readSensor (t : BitVec 16) (bad : Bool) : Sensor :=
  { temp := t, fault := bad || decide (t.toInt < -160 ∨ 600 < t.toInt) }

/-- All sensors read; a sensor that becomes faulty raises KLN_5. -/
def readSensors (temps : List (BitVec 16)) (bad : BitVec 96) (k : Kiln) (p : Plane) : Kiln × Plane :=
  (List.range 96).foldl (fun (a : Kiln × Plane) n =>
    let old := sensor a.1 n
    let new := readSensor (temps.getD n old.temp) (bad.getLsbD n)
    ({ a.1 with sensors := tput {} a.1.sensors n new },
     if new.fault && !old.fault then raise 37 0 (BitVec.ofNat 32 n) 0 a.2 else a.2)) (k, p)

/-- A working sensor at or above 115 °C (R397). -/
def tooHot (k : Kiln) : Bool := match hottest k (List.range 96) with
  | none => false
  | some t => decide (460 ≤ t)

/-! ### Caps (R395) -/

/-- The caps asked for take effect, and the power limit follows the measured input power. -/
def capStep (watts : Nat) (k : Kiln) (p : Plane) : Kiln × Plane :=
  let k1 := k.nextCap.foldl (fun k x => setIsland k x.1 { island k x.1 with cap := if x.2 = 0 then 2400 else x.2 }) k
  let cap := k.nextPow.getD k.powerCap
  let lim := if cap = 0 then 2400
    else if cap < watts then max 1600 (k.powerLim - 25)
    else if watts * 100 < 95 * cap then min 2400 (k.powerLim + 25)
    else k.powerLim
  let k2 := { k1 with nextCap := [], nextPow := none, powerCap := cap, powerLim := lim, watts := watts }
  let free := (List.range 128).foldl (fun m i => min m (fEff { k2 with powerLim := 2400 } (island k2 i))) 2400
  if lim < free ∧ free ≤ k.powerLim then (k2, raise 38 1 (BitVec.ofNat 32 watts) 0 p)
  else if lim = 2400 ∧ k.powerLim < 2400 then (k2, raise 38 2 (BitVec.ofNat 32 watts) 0 p)
  else (k2, p)

/-! ### The margin ledger (R403, Table 17.5) -/

/-- Kinds of entry. -/
def kMeasured : Nat := 1
def kPlanned : Nat := 2
def kApplied : Nat := 3
def kRejected : Nat := 4

/-- Powered hours (R400). -/
def hoursOf (base : Nat) (p : Plane) : Nat := base + p.clock / 7200000000000

/-- An entry's image. -/
def encodeLedger (seq : BitVec 32) (kind i freq volt : Nat) (temp : Int) (a b : BitVec 16) (id : BitVec 32) (hours : Nat) :
    BitVec 192 :=
  BitVec.ofNat 32 hours ++ id ++ b ++ a ++ (0 : BitVec 8) ++ BitVec.ofInt 8 temp ++ BitVec.ofNat 16 volt ++
    BitVec.ofNat 16 freq ++ BitVec.ofNat 8 i ++ BitVec.ofNat 8 kind ++ seq

/-- An entry written, with KLN_7 where the ring wraps. -/
def writeLedger (kind i freq volt : Nat) (temp : Int) (a b : BitVec 16) (id : BitVec 32) (hours : Nat) (x : Kiln × Plane) :
    Kiln × Plane :=
  let k := x.1
  let n := k.nextSeq.toNat
  let e := encodeLedger k.nextSeq kind i freq volt temp a b id hours
  ({ k with ledger := tput 0 k.ledger (n % 4096) e, nextSeq := k.nextSeq + 1 },
   if n ≠ 0 ∧ n % 4096 = 0 then raise 39 0 (BitVec.ofNat 32 n) 0 x.2 else x.2)

/-- The newest APPLIED point of an island in the ledger. -/
def newestApplied (k : Kiln) (i : Nat) : Option (Nat × Nat) :=
  let mine := k.ledger.filter fun e => (e.2.extractLsb' 32 8).toNat == kApplied && (e.2.extractLsb' 40 8).toNat == i
  (mine.foldl (fun (best : Option (Nat × BitVec 192)) e => match best with
    | none => some e
    | some b => if (b.2.extractLsb' 0 32).toNat < (e.2.extractLsb' 0 32).toNat then some e else best) none).map fun e =>
      (fcode (e.2.extractLsb' 48 16).toNat, ((e.2.extractLsb' 64 16).toNat - 650) / 5)

/-! ### Plans (R400 to R402) -/

/-- F_TGT and GUARD_PS in force. -/
def fTgt (p : Plane) (i : Nat) : Nat := min 32 (fld (rg p (aKlnIsl i)) 20 6)
def guardPs (p : Plane) : Nat := max 1 (fld (rg p aKlnCfg) 24 8)

/-- The lower predicted slack of an island at a point. -/
def predicted (k : Kiln) (i f v : Nat) : Int :=
  let x := island k i
  let at_ := fun c => Config.predictSlack c (canary k c).slack.toInt x.fCur x.v (islandTemp k i) f v
  min (at_ (2 * i)) (at_ (2 * i + 1))

/-- The lowest VCODE up to 50 whose predicted slack is enough. -/
def pickV (k : Kiln) (guard i f : Nat) : Option Nat := (List.range 51).find? fun v => decide ((guard : Int) ≤ predicted k i f v)

/-- The point of an island: at F_TGT, else 25 MHz lower at a time; at FCODE 0 with VCODE 50 if nothing suffices. -/
def pickPoint (k : Kiln) (guard i : Nat) : Nat → Nat × Nat
  | 0 => (0, (pickV k guard i 0).getD 50)
  | f + 1 => match pickV k guard i (f + 1) with
    | some v => (f + 1, v)
    | none => pickPoint k guard i f

/-- Islands set in a mask; every island for a mask of zero. -/
def islandsOf (m : BitVec 128) : List Nat := if m = 0 then List.range 128 else (List.range 128).filter fun i => m.getLsbD i
def islandMask (is : List Nat) : BitVec 128 := is.foldl (fun m i => m ||| BitVec.ofNat 128 (2 ^ i)) 0

/-- An entry of each planned island for its fate. -/
def ledgerFate (kind : Nat) (pl : MPlan) (hours : Nat) (x : Kiln × Plane) : Kiln × Plane :=
  pl.points.foldl (fun x q => writeLedger kind q.1 (mhz q.2.1) (mvolt q.2.2) (islandTemp x.1 q.1 / 4)
    (canary x.1 (2 * q.1)).slack (canary x.1 (2 * q.1 + 1)).slack pl.id hours x) x

/-- KLN_1 of a plan. -/
def planEvent (code : BitVec 16) (pl : MPlan) (p : Plane) : Plane := raise 33 code pl.id (islandMask (pl.points.map (·.1))) p

/-- An operation ends with a status and a plan number. -/
def endPlanOp (op : Option Nat) (status : BitVec 8) (id : BitVec 32) (p : Plane) : Plane :=
  match op.bind (op? p) with
  | none => p
  | some o => if o.ended.isSome then p else setOp p { o with ended := some status, a := id.toNat }

/-- A pending plan rejected or replaced. -/
def dropPlan (status : BitVec 8) (pl : MPlan) (hours : Nat) (x : Kiln × Plane) : Kiln × Plane :=
  let y := ledgerFate kRejected pl hours x
  ({ y.1 with pend := none }, endPlanOp pl.op status pl.id (planEvent 3 pl y.2))

/-- The points of a plan, with MEASURED and PLANNED entries and KLN_2. -/
def planIslands (is : List Nat) (id : BitVec 32) (hours : Nat) (x : Kiln × Plane) : (Kiln × Plane) × List (Nat × Nat × Nat) :=
  is.foldl (fun a i =>
    let k := a.1.1
    let p := a.1.2
    let isl := island k i
    let tgt := fTgt p i
    let pt := pickPoint k (guardPs p) i tgt
    let pr := fun c => BitVec.ofInt 16
      (Config.predictSlack c (canary k c).slack.toInt isl.fCur isl.v (islandTemp k i) pt.1 pt.2)
    let y := writeLedger kMeasured i (mhz isl.fCur) (mvolt isl.v) (islandTemp k i / 4) (canary k (2 * i)).slack
      (canary k (2 * i + 1)).slack id hours a.1
    let y := writeLedger kPlanned i (mhz pt.1) (mvolt pt.2) 105 (pr (2 * i)) (pr (2 * i + 1)) id hours y
    let y := if pt.1 < tgt then (y.1, raise 34 0 (BitVec.ofNat 32 i) (BitVec.ofNat 128 (mhz pt.1)) y.2) else y
    (y, a.2 ++ [(i, pt.1, pt.2)])) (x, [])

/-- The planner finishes the plan asked for first: applied in hardware mode, pending in host-assisted mode. -/
def planMade (hours : Nat) (x : Kiln × Plane) : Kiln × Plane :=
  match x.1.asked with
  | [] => x
  | (m, op) :: rest =>
    let id := x.1.lastId + 1
    let r := planIslands (islandsOf m) id hours ({ x.1 with asked := rest, lastId := id }, x.2)
    let pl : MPlan := { id := id, points := r.2, left := r.2, op := op }
    if hostMode r.1.2 fmMargin then
      let y := match r.1.1.pend with
        | none => r.1
        | some old => dropPlan sAborted old hours r.1
      ({ y.1 with pend := some { pl with op := none } }, planEvent 1 pl (endPlanOp op sOk id y.2))
    else ({ r.1.1 with applying := r.1.1.applying ++ [pl] }, r.1.2)

/-- One island set to its planned point; it retunes with the limits. -/
def setPoint (q : Nat × Nat × Nat) (k : Kiln) : Kiln := setIsland k q.1 { island k q.1 with f := q.2.1, v := q.2.2 }
/-- The island's point differs from the one in force. -/
def differs (k : Kiln) (q : Nat × Nat × Nat) : Bool := (island k q.1).f != q.2.1 || (island k q.1).v != q.2.2

/-- The first plan being applied goes one boundary further: at most one island of each tile, the lowest that differs. -/
def planStep (hours : Nat) (x : Kiln × Plane) : Kiln × Plane :=
  match x.1.applying with
  | [] => x
  | pl :: rest =>
    let todo := (List.range 4).filterMap fun t => pl.left.find? fun q => q.1 / 32 == t && differs x.1 q
    let k := todo.foldl (fun k q => setPoint q k) x.1
    let left := pl.left.filter (differs k)
    if left.isEmpty then
      let y := ledgerFate kApplied pl hours ({ k with applying := rest, applied := pl.id }, x.2)
      (y.1, endPlanOp pl.op sOk pl.id (planEvent 2 pl y.2))
    else ({ k with applying := { pl with left := left } :: rest }, x.2)

/-- The Kiln's part of an epoch boundary: caps and power limit, throttling, plan steps, then each island retunes once (R394
to R396, R402). -/
def epochKiln (watts hours : Nat) (planning : Bool) (k : Kiln) (p : Plane) : Kiln × Plane :=
  let a := capStep watts k p
  let a := throttleAll a.1 a.2
  let a := if planning then planStep hours a else a
  ((List.range 128).foldl (fun k i => retune i k) a.1, a.2)

end Sys2Proof.Machine
end

