-- ==== Sys2Proof/Machine/Sagger.lean ====
section
/-! DEFINITION. The Sagger: time and references, windows and records, the legal parameters and the seal, the meter port, and
the mirror (chapter 16). Times are half-nanoseconds of Sagger time. -/
namespace Sys2Proof.Machine
open Sys2Proof

/-! ### Bytes and the CRC-32 (R381) -/

/-- The `n` low bytes of a number, lowest first. -/
def bytesOf : Nat → Nat → List Byte
  | 0, _ => []
  | n + 1, v => BitVec.ofNat 8 v :: bytesOf n (v / 256)

/-- One bit of the reflected CRC. -/
def crcBit (c : BitVec 32) : BitVec 32 := if c.getLsbD 0 then (c >>> 1) ^^^ 0xEDB88320 else c >>> 1
/-- One byte of it. -/
def crcByte (c : BitVec 32) (b : Byte) : BitVec 32 :=
  crcBit (crcBit (crcBit (crcBit (crcBit (crcBit (crcBit (crcBit (c ^^^ b.setWidth 32))))))))
/-- The IEEE 802.3 CRC of bytes. -/
def crc32 (bs : List Byte) : BitVec 32 := bs.foldl crcByte 0xFFFFFFFF ^^^ 0xFFFFFFFF

/-! ### Time -/

def secLen : Nat := 2000000000
def msLen : Nat := 2000000
/-- The next time whose whole-millisecond count is a multiple of LEN_MS (R370). -/
def nextEnd (lenMs t : Nat) : Nat := (t / (lenMs * msLen) + 1) * (lenMs * msLen)

/-! ### Flags of a window record (Table 16.3) -/

def fShort : Nat := 0
def fHoldover : Nat := 1
def fInvalid : Nat := 2
def fTimeSet : Nat := 3
def fLoss : Nat := 4
def fMainDown : Nat := 5
def fMainRestart : Nat := 6
def fRomFault : Nat := 7
def fLate : Nat := 8
def fParam : Nat := 9

/-- A flag set where a condition holds. -/
def flagIf (c : Bool) (n : Nat) (f : BitVec 16) : BitVec 16 := if c then f ||| BitVec.ofNat 16 (2 ^ n) else f
/-- A window with a flag. -/
def SagWin.flag (w : SagWin) (n : Nat) : SagWin := { w with flags := flagIf true n w.flags }

/-- An event for the mirror stream (Table 16.11). -/
def tell (src : Nat) (code : BitVec 16) (data : Nat) (pay : BitVec 128) (g : Sag) : Sag :=
  { g with news := g.news ++ [(src, code, BitVec.ofNat 32 data, pay)] }

/-- HOLDOVER_MS of the running window. -/
def holdMs (w : SagWin) : Nat := w.holdTime / msLen

/-- The running window's HOLDOVER time and flags brought up to now (R363, Table 16.3). -/
def syncHold (g : Sag) : Sag :=
  match g.ref with
  | .holdover =>
    let bad := g.policy == 2 || (g.policy == 1 && decide (g.limitS * secLen < g.time - g.holdFrom))
    { g with holdMark := g.time,
             win := { g.win with holdTime := g.win.holdTime + (g.time - g.holdMark),
                                 flags := flagIf bad fInvalid (flagIf true fHoldover g.win.flags) } }
  | _ => g

/-! ### Windows (R370, R380) -/

/-- The running window ends at `stop` and the next begins at `start`. But for SET_TIME the time never runs backward (R362), even where
the turn is told late. -/
def turnWindow (stop start : Nat) (timeSet mainDown : Bool) (g0 : Sag) : Sag :=
  let g := syncHold { g0 with time := stop }
  let w := { g.win with
    stop := some stop, refEnd := g.ref, sealEnd := g.sealCnt, romCrc := Config.romCrc g.romRuns, powerUps := g.powerUps,
    auditN := g.audit.length,
    flags := flagIf (decide (Config.romCrc g.romRuns ≠ Config.romHeader)) fRomFault
      (flagIf mainDown fMainDown (flagIf timeSet fTimeSet g.win.flags)) }
  let fresh : SagWin :=
    { seq := (g.win.seq + 1) % 2 ^ 32, start := start, lenMs := g.lenNext, labels := g.labelsNext,
      flags := flagIf mainDown fMainDown (flagIf (!g.timeValid) fInvalid
        (flagIf (decide (g.ref = .holdover)) fHoldover
          (flagIf (decide (g.ref = .holdover ∧ g.policy = 2)) fInvalid
            (flagIf (timeSet || g.lenNext != g.lenMs) fShort 0)))) }
  let g := { g with ending := g.ending ++ [w], win := fresh, lenMs := g.lenNext, labels := g.labelsNext,
                    time := if timeSet then start else max g0.time start,
                    holdMark := if timeSet then start else max g0.holdMark start, holdFrom := if timeSet then start - (stop - g.holdFrom) else g.holdFrom,
                    romRuns := g.romRuns + 1 }
  if Config.romCrc g.romRuns = Config.romHeader then g else tell 43 5 g.sealCnt.toNat 0 g

/-- The oldest ended window's record is closed; the last 64 are kept (R372, R373). -/
def closeRecord (g : Sag) : Sag :=
  match g.ending with
  | [] => g
  | w :: rest =>
    let rs := g.records ++ [w]
    let h := tell 40 1 w.seq (w.flags.setWidth 128) { g with ending := rest, records := rs.drop (rs.length - 64) }
    if w.flags.getLsbD fInvalid then tell 41 4 (holdMs w) 0 h else h

/-! ### Tap records (R372) -/

/-- A window found by its sequence number's low byte, changed. -/
def onWindow (n : Nat) (f : Bool → SagWin → SagWin) (g : Sag) : Option Sag :=
  if g.win.seq % 256 = n then some { g with win := f false g.win }
  else if g.ending.any fun w => w.seq % 256 == n then
    some { g with ending := g.ending.map fun w => if w.seq % 256 = n then f true w else w }
  else none

/-- Lost records counted in a window. -/
def countLoss (t n : Nat) (w : SagWin) : SagWin :=
  { w with loss := tput 0 w.loss t (min 65535 (tget 0 w.loss t + n)), flags := flagIf true fLoss w.flags }

/-- The counts of a record added to a window; those of an ended window lie at its end (R371, Table 16.4). -/
def addRec (r : TapRec) (ended : Bool) (w : SagWin) : SagWin :=
  if r.unmet then { w with unmet := w.unmet + r.withdrawn }
  else if r.isEnd then w
  else
    let x := tget {} w.insts r.inst
    let x := { x with events := x.events + r.events, bytes := x.bytes + r.bytes, orphans := x.orphans + r.orphans,
                      withdrawn := x.withdrawn + r.withdrawn }
    let x := if ended then
        { x with adjEndB := x.adjEndB + r.adjBytes, adjEndE := min 65535 (x.adjEndE + r.adjEvents) }
      else { x with adjStartB := x.adjStartB + r.adjBytes, adjStartE := min 65535 (x.adjStartE + r.adjEvents) }
    { w with insts := tput {} w.insts r.inst x }

/-- Records missing before one that has come. -/
def recGap (r : TapRec) (g : Sag) : Nat := (r.seq + 2 ^ 32 - tget 0 g.expect r.tile) % 2 ^ 32
/-- Lost records counted, saturating. -/
def addLost (n k : Nat) : Nat := min (2 ^ 32 - 1) (n + k)
/-- The number after a record's. -/
def nextRec (r : TapRec) : Nat := (r.seq + 1) % 2 ^ 32

/-- The event of records lost (1) or late (2) (Table 16.11). -/
def tellLoss (t gap n : Nat) (g : Sag) : Sag := tell 42 (BitVec.ofNat 16 n) gap (BitVec.ofNat 128 (t * 2 ^ 64)) g
/-- What a gap before a record does to the record's window. -/
def markGap (t gap : Nat) (start : Bool) (w : SagWin) : SagWin :=
  if gap = 0 then w else if start then w.flag fMainRestart else countLoss t gap w
/-- The number after a record expected next, and the records missing before it counted. -/
def noteGap (r : TapRec) (gap : Nat) (g : Sag) : Sag :=
  let h := { g with expect := tput 0 g.expect r.tile (nextRec r) }
  if gap = 0 ∨ r.start then h else tellLoss r.tile gap 1 { h with lost := addLost h.lost gap }

/-- A record's counts added to its window, `gap` records missing before it; one for a closed window is late. -/
def takeAt (r : TapRec) (gap : Nat) (g : Sag) : Sag :=
  match onWindow (r.win % 256) (fun ended w => addRec r ended (markGap r.tile gap r.start w)) g with
  | some h => h
  | none => tellLoss r.tile 1 2
      { g with lost := addLost g.lost 1, win := (countLoss r.tile 1 (markGap r.tile gap r.start g.win)).flag fLate }

/-- A record received: its number checked, its counts added. -/
def takeRec (r : TapRec) (g : Sag) : Sag := takeAt r (recGap r g) (noteGap r (recGap r g) g)

/-! ### Reference (R361) -/

/-- A selected input is missing or a 1 PPS edge has drifted: HOLDOVER. -/
def refLost (g : Sag) : Sag :=
  if g.ref = .locked ∧ g.refSel ≠ 2 then
    let h := syncHold { g with ref := .holdover, holdFrom := g.time, holdMark := g.time }
    tell 41 2 (holdMs h.win) 0 h
  else g
/-- The inputs return: ACQUIRING. -/
def refBack (g : Sag) : Sag :=
  if g.ref = .holdover then let h := syncHold g; tell 41 3 (holdMs h.win) 0 { h with ref := .acquiring } else g
/-- The lock condition holds. -/
def refLocked (g : Sag) : Sag :=
  if g.ref = .acquiring then tell 41 1 (holdMs g.win) 0 { g with ref := .locked } else g

/-! ### Legal parameters (R374 to R377) -/

/-- Meter status codes (Table 16.8). -/
def mOk : Byte := 0
def mSealed : Byte := 1
def mBadParam : Byte := 2
def mLogFull : Byte := 3
def mNotFound : Byte := 4

/-- The value of a parameter in force. -/
def paramNow (g : Sag) (param inst : Nat) : Option (BitVec 64) :=
  match param with
  | 0 => some (BitVec.ofNat 64 g.lenMs)
  | 1 => if inst < 128 then some (tget 0 g.labels inst) else none
  | 2 => some (BitVec.ofNat 64 g.refSel)
  | 3 => some (BitVec.ofNat 64 (g.limitS * 2 ^ 32 + g.policy))
  | _ => none

/-- The value last set, which a new one replaces. -/
def paramLast (g : Sag) (param inst : Nat) : BitVec 64 :=
  match param with
  | 0 => BitVec.ofNat 64 g.lenNext
  | 1 => tget 0 g.labelsNext inst
  | _ => (paramNow g param inst).getD 0

/-- A value lies in Table 16.5. -/
def paramOk (param inst : Nat) (v : BitVec 64) : Bool :=
  match param with
  | 0 => decide (1 ≤ v.toNat ∧ v.toNat ≤ 86400000)
  | 1 => decide (inst < 128)
  | 2 => decide (v.toNat ≤ 2)
  | 3 => decide (v.toNat % 4 ≤ 2 ∧ 1 ≤ v.toNat / 2 ^ 32)
  | _ => false

/-- A parameter set: LEN_MS and labels from the window's end, the others at once. -/
def setParam (param inst : Nat) (v : BitVec 64) (g : Sag) : Sag :=
  match param with
  | 0 => { g with lenNext := v.toNat }
  | 1 => { g with labelsNext := tput 0 g.labelsNext inst v }
  | 2 =>
    let h := syncHold g
    tell 41 3 (holdMs h.win) 0 { h with refSel := v.toNat, ref := .acquiring }
  | _ => let h := syncHold g; syncHold { h with policy := v.toNat % 4, limitS := v.toNat / 2 ^ 32 }

/-- An audit entry (Table 16.6). -/
def auditEntry (g : Sag) (param inst : Nat) (cnt : BitVec 32) (old new : BitVec 64) : BitVec 256 :=
  new ++ old ++ (0 : BitVec 16) ++ BitVec.ofNat 48 (g.time / secLen) ++ cnt ++ (0 : BitVec 1) ++ BitVec.ofNat 7 inst ++
    BitVec.ofNat 8 param ++ BitVec.ofNat 16 g.audit.length

/-- The log is full. -/
def logFull (g : Sag) : Bool := decide (1024 ≤ g.audit.length)
/-- An entry appended, with the event of the last one. -/
def logEntry (e : BitVec 256) (g : Sag) : Sag :=
  let h := { g with audit := g.audit ++ [e] }
  if h.audit.length = 1024 then tell 43 4 h.sealCnt.toNat 0 h else h

/-- PARAM_SET (R376): its status and the Sagger after it. A full log answers before the seal and the value are looked at. -/
def paramWrite (param inst : Nat) (v : BitVec 64) (g : Sag) : Byte × Sag :=
  if logFull g then (mLogFull, g)
  else if g.sealN = false then (mSealed, g)
  else if paramOk param inst v = false then (mBadParam, g)
  else
    let old := paramLast g param inst
    let h := setParam param inst v { g with sealCnt := g.sealCnt + 1 }
    let h := { h with win := h.win.flag fParam }
    (mOk, tell 43 3 h.sealCnt.toNat (BitVec.ofNat 128 param)
      (logEntry (auditEntry g param (if param = 1 then inst else 0) h.sealCnt old (paramLast h param inst)) h))

/-- SET_TIME (R377). -/
def timeWrite (secs : Nat) (g : Sag) : Byte × Sag :=
  if logFull g then (mLogFull, g)
  else if g.sealN then
    (mOk, logEntry (auditEntry g 4 0 g.sealCnt (BitVec.ofNat 64 (g.time / secLen)) (BitVec.ofNat 64 secs))
      { g with setPend := some (secs, true) })
  else if g.timeValid = false ∧ g.setPend = none then (mOk, { g with setPend := some (secs, false) })
  else (mSealed, g)

/-- The next second edge: a pending SET_TIME applies, and ends the window (R377). -/
def secondEdge (mainDown : Bool) (g : Sag) : Sag :=
  let edge := (g.time / secLen + 1) * secLen
  match g.setPend with
  | none => { g with time := edge }
  | some (secs, _) => turnWindow edge (secs * secLen) true mainDown { g with setPend := none, timeValid := true }

/-! ### Power (R358 to R360) -/

/-- The window that runs from power-up. -/
def firstWindow (lenMs : Nat) (labels : Table (BitVec 64)) : SagWin :=
  { lenMs := lenMs, labels := labels, flags := flagIf true fShort (flagIf true fInvalid 0) }

/-- VSAG has gone: all but the nonvolatile state is lost. SEAL_N keeps its level. -/
def sagOff (g : Sag) : Sag :=
  { powered := false, lenMs := g.lenNext, lenNext := g.lenNext, labels := g.labelsNext, labelsNext := g.labelsNext,
    refSel := g.refSel, policy := g.policy, limitS := g.limitS, sealCnt := g.sealCnt, audit := g.audit,
    powerUps := g.powerUps, sealN := g.sealN, romRuns := g.romRuns, win := firstWindow g.lenNext g.labelsNext }

/-- The Sagger starts. -/
def sagOn (g : Sag) : Sag :=
  let h := { sagOff g with powered := true, powerUps := min 65535 (g.powerUps + 1), romRuns := g.romRuns + 1 }
  if Config.romCrc h.romRuns = Config.romHeader then h else tell 43 5 h.sealCnt.toNat 0 h

/-! ### Images (Tables 16.3, 16.4, 16.9, 16.10) -/

def refCode : RefState → Nat
  | .acquiring => 0
  | .locked => 1
  | .holdover => 2

/-- One instance entry of a window record. -/
def encodeInst (w : SagWin) (i : Nat) : BitVec 512 :=
  let x := tget {} w.insts i
  (0 : BitVec 64) ++ BitVec.ofNat 64 x.withdrawn ++ BitVec.ofNat 32 x.orphans ++ BitVec.ofNat 16 x.adjEndE ++
    BitVec.ofNat 16 x.adjStartE ++ BitVec.ofNat 64 x.adjEndB ++ BitVec.ofNat 64 x.adjStartB ++ BitVec.ofNat 64 x.bytes ++
    BitVec.ofNat 32 x.events ++ BitVec.ofNat 32 i ++ tget 0 w.labels i

/-- Labelled instances, and the bytes of the others. -/
def labelled (w : SagWin) : List Nat := (List.range 128).filter fun i => tget 0 w.labels i != 0
def unlabelledBytes (w : SagWin) : Nat := ((w.insts.filter fun x => tget 0 w.labels x.1 == 0).map fun x => x.2.bytes).sum

/-- The header of a window record. -/
def encodeHeader (w : SagWin) : BitVec 512 :=
  BitVec.ofNat 64 (unlabelledBytes w) ++ BitVec.ofNat 16 w.auditN ++ BitVec.ofNat 16 w.powerUps ++
    BitVec.ofNat 32 (holdMs w) ++ BitVec.ofNat 64 w.unmet ++ BitVec.ofNat 16 (tget 0 w.loss 3) ++
    BitVec.ofNat 16 (tget 0 w.loss 2) ++ BitVec.ofNat 16 (tget 0 w.loss 1) ++ BitVec.ofNat 16 (tget 0 w.loss 0) ++
    w.romCrc ++ w.sealEnd ++ BitVec.ofNat 32 w.lenMs ++ BitVec.ofNat 32 (w.start % secLen / 2) ++ (0 : BitVec 16) ++
    BitVec.ofNat 48 (w.start / secLen) ++ BitVec.ofNat 8 (refCode w.refEnd) ++ BitVec.ofNat 8 (labelled w).length ++
    w.flags ++ BitVec.ofNat 32 w.seq

/-- A window record as the meter port returns it. -/
def recordBytes (w : SagWin) : List Byte :=
  bytesOf 64 (encodeHeader w).toNat ++ (labelled w).flatMap fun i => bytesOf 64 (encodeInst w i).toNat

/-- SAG_STATUS (Table 16.10). -/
def sagStatus (g : Sag) : Reg :=
  (1 : BitVec 1) ++ BitVec.ofBool g.timeValid ++ BitVec.ofBool g.sealN ++
    BitVec.ofBool (decide (Config.romCrc g.romRuns ≠ Config.romHeader)) ++ BitVec.ofBool (logFull g) ++
    BitVec.ofNat 2 (refCode g.ref) ++ BitVec.ofNat 2 g.refSel ++ BitVec.ofNat 2 g.policy ++ (0 : BitVec 5) ++
    (match g.records.getLast? with
      | some w => w.flags
      | none => 0)

/-- WIN_SEQ of the last closed window. -/
def lastSeq (g : Sag) : Nat := match g.records.getLast? with
  | some w => w.seq
  | none => 0

/-- The 24 bytes of SAGGER_STATUS (R383). -/
def statusImage (g : Sag) : BitVec 192 :=
  (0 : BitVec 16) ++ BitVec.ofNat 48 (g.time / secLen) ++ BitVec.ofNat 32 (lastSeq g) ++ Config.romCrc g.romRuns ++
    g.sealCnt ++ sagStatus g

/-! ### The meter port (R378) -/

/-- An answer: status, data, and the CRC-32 over both. -/
def meterAnswer (status : Byte) (data : List Byte) (g : Sag) : Sag :=
  let a := status :: data
  { g with answer := a ++ bytesOf 4 (crc32 a).toNat }

/-! ### Rows -/

/-- A row of the Sagger: it lies on the ZL1640-MS alone, and works while VSAG is present (R2, R358, R359). -/
def onSag (f : Sag → Sag) (s : State) : Host.Outcome State Fault Refusal :=
  .next (if s.dp.variant = .ms ∧ s.sg.powered then { s with sg := f s.sg } else s)

/-- The main die's supply is absent (R359). -/
def mainDown (s : State) : Bool := s.mg.life == .noVin

/-- The tiles turn to the Sagger's new window: last buckets and END records of the old one, then the new boundary mark
(R364, R369, R370). -/
def tilesTurn (g : Sag) (p : Plane) : Plane :=
  let q := (List.range 4).foldl (fun q t => endWindow t q) p
  { q with tapTime := g.time, winSeq := g.win.seq, winStart := g.win.start, winEnd := nextEnd g.win.lenMs g.win.start }

/-- A window turns, or the time steps, on the Sagger and on the tiles, whose replicas follow (R364). -/
def turnBoth (f : Sag → Sag) (s : State) : State :=
  if s.dp.variant = .ms ∧ s.sg.powered then
    let g := f s.sg
    { s with sg := g, dp := if s.mg.life ≠ .run then s.dp
        else if g.win.seq = s.sg.win.seq then { s.dp with tapTime := g.time } else tilesTurn g s.dp }
  else s

/-- STATUS: the Sagger's status (R383, Table 16.7). -/
def execMtrStatus (s : State) : Host.Outcome State Fault Refusal :=
  onSag (fun g => meterAnswer mOk (bytesOf 24 (statusImage g).toNat) g) s

/-- TIME: Sagger time (Table 16.7). -/
def execMtrTime (s : State) : Host.Outcome State Fault Refusal :=
  onSag (fun g => meterAnswer mOk (bytesOf 6 (g.time / secLen) ++ bytesOf 4 (g.time % secLen / 2) ++ bytesOf 1 (g.time % 2)) g) s

/-- WINDOW_READ: a closed window record (R373). -/
def execWindowRead (seq : BitVec 32) (s : State) : Host.Outcome State Fault Refusal :=
  onSag (fun g => match g.records.find? fun w => w.seq == seq.toNat with
    | some w => meterAnswer mOk (recordBytes w) g
    | none => meterAnswer mNotFound [] g) s

/-- AUDIT_READ: one audit entry (Table 16.6). -/
def execAuditRead (index : BitVec 16) (s : State) : Host.Outcome State Fault Refusal :=
  onSag (fun g => match g.audit[index.toNat]? with
    | some e => meterAnswer mOk (bytesOf 32 e.toNat) g
    | none => meterAnswer mNotFound [] g) s

/-- PARAM_GET: a parameter in force (Table 16.5). -/
def execParamGet (param inst : Byte) (s : State) : Host.Outcome State Fault Refusal :=
  onSag (fun g => match paramNow g param.toNat inst.toNat with
    | some v => meterAnswer mOk (bytesOf 8 v.toNat) g
    | none => meterAnswer mBadParam [] g) s

/-- PARAM_SET: a parameter changed under the seal (R376). -/
def execParamSet (param inst : Byte) (value : BitVec 64) (s : State) : Host.Outcome State Fault Refusal :=
  onSag (fun g => let x := paramWrite param.toNat inst.toNat value g; meterAnswer x.1 [] x.2) s

/-- SET_TIME: the seconds set from the next second edge (R377). -/
def execSetTime (seconds : BitVec 48) (s : State) : Host.Outcome State Fault Refusal :=
  onSag (fun g => let x := timeWrite seconds.toNat g; meterAnswer x.1 [] x.2) s

/-- VSAG_POWER_UP: the Sagger starts (R358, R360). -/
def execVsagPowerUp (s : State) : Host.Outcome State Fault Refusal :=
  .next (if s.dp.variant = .ms ∧ s.sg.powered = false then
    let g := sagOn s.sg
    { s with sg := g, dp := { s.dp with tapTime := 0, winSeq := 0, winStart := 0, winEnd := nextEnd g.lenMs 0 } } else s)

/-- VSAG_REMOVAL: the Sagger loses all but its nonvolatile state (R358). -/
def execVsagRemoval (s : State) : Host.Outcome State Fault Refusal :=
  .next (if s.dp.variant = .ms then { s with sg := sagOff s.sg } else s)

/-- WINDOW_BOUNDARY: a window ends and the next begins (R370). -/
def execWindowBoundary (s : State) : Host.Outcome State Fault Refusal :=
  .next (turnBoth (fun g => let e := nextEnd g.win.lenMs g.win.start; turnWindow e e false (mainDown s) g) s)

/-- SAGGER_SECOND_EDGE: a pending SET_TIME applies (R377). -/
def execSaggerSecondEdge (s : State) : Host.Outcome State Fault Refusal := .next (turnBoth (secondEdge (mainDown s)) s)

/-- TAP_RECORD: a tile's oldest record reaches the Sagger (R369, R372). -/
def execTapRecord (t : Fin 4) (s : State) : Host.Outcome State Fault Refusal :=
  .next (match (tap s.dp t).recs with
    | [] => s
    | r :: rest =>
      if s.dp.variant = .ms ∧ s.sg.powered ∧ s.mg.life = .run then
        { s with sg := takeRec r s.sg, dp := setTap s.dp t { tap s.dp t with recs := rest } }
      else s)

/-- WINDOW_RECORD_CLOSE: an ended window's record is closed (R372). -/
def execWindowRecordClose (s : State) : Host.Outcome State Fault Refusal := onSag closeRecord s

/-- SEAL_N: asserted or deasserted after 10 ms (R375). -/
def execSealN (low : Bool) (s : State) : Host.Outcome State Fault Refusal :=
  onSag (fun g => if g.sealN = low then g else tell 43 (if low then 1 else 2) g.sealCnt.toNat 0 { g with sealN := low }) s

/-- REFERENCE_LOSS: a selected input goes missing or drifts (R361). -/
def execReferenceLoss (s : State) : Host.Outcome State Fault Refusal := onSag refLost s

/-- REFERENCE_RETURN: the inputs return (R361). -/
def execReferenceReturn (s : State) : Host.Outcome State Fault Refusal := onSag refBack s

/-- REFERENCE_LOCK: the lock condition holds (R361, Table 16.1). -/
def execReferenceLock (s : State) : Host.Outcome State Fault Refusal := onSag refLocked s

/-- MIRROR_LOSS: no stream for 10 µs (R382). -/
def execMirrorLoss (s : State) : Host.Outcome State Fault Refusal := .next { s with mir := {} }

/-- SAGGER_MIRROR_UPDATE: the stream refreshes the mirror and raises its events (R382, R384). -/
def execSaggerMirrorUpdate (s : State) : Host.Outcome State Fault Refusal :=
  .next (if s.dp.variant = .ms ∧ s.sg.powered then
    let g := { s.sg with news := [] }
    if s.mg.life = .run ∨ s.mg.life = .retain ∨ s.mg.life = .recovery then
      { s with sg := g, mir := { present := true, sag := { g with answer := [] } },
               dp := if s.mg.life = .recovery then s.dp else
                 s.sg.news.foldl (fun q n => raise n.1 n.2.1 n.2.2.1 n.2.2.2 q) s.dp }
    else { s with sg := g }
  else s)

end Sys2Proof.Machine
end

