-- ==== Sys2Proof/Machine/Flags.lean ====
section
/-! DEFINITION. What each register of BAR0 reads as, and every status field computed from the state: Tables 06.5 to 06.9, 07.10
to 07.14, 08.7 to 08.15, 09.4 to 09.7, 10.10 to 10.15, 11.5 to 11.8, 13.3 to 13.12, 14.4, 14.7, 15.3 to 15.5, 16.9 and 17.7 to
17.13. -/
namespace Sys2Proof.Machine
open Sys2Proof

/-! ### Words from fields -/

/-- A register word from its fields: low bit, width, value. -/
def image (xs : List (Nat × Nat × Nat)) : Reg :=
  xs.foldl (fun r x => r ||| (BitVec.ofNat 32 (x.2.2 % 2 ^ x.2.1) <<< x.1)) 0
/-- A bit as a number. -/
def bit (b : Bool) : Nat := if b then 1 else 0
/-- A count that saturates in `w` bits. -/
def sat (w v : Nat) : Nat := min (2 ^ w - 1) v
/-- A number as a register word, saturating. -/
def sat32 (v : Nat) : Reg := BitVec.ofNat 32 (sat 32 v)
/-- The low and the high word of a 64-bit value. -/
def lowWord (v : BitVec 64) : Reg := v.extractLsb' 0 32
def highWord (v : BitVec 64) : Reg := v.extractLsb' 32 32

/-! ### Voted fields (R226, R324) -/

/-- The majority of three copies; copy 0 where all differ. -/
def vote {α : Type} [DecidableEq α] (v : Voted α) : α :=
  if v.a = v.b ∨ v.a = v.c then v.a else if v.b = v.c then v.b else v.a
/-- The RV fields of CMDQ_CTRL_q: ENABLE, VEC_EN, VECTOR (Table 13.11); and of EVT_CTRL: ENABLE, SIZE (Table 14.4). -/
def ringFields : List Reg := [0x80000000, 0x40, 0x3F]
def evFields : List Reg := [0x80000000, 0xF]
/-- The copies of one field of a register. -/
def fieldOf (m : Reg) (v : Voted Reg) : Voted Reg := ⟨v.a &&& m, v.b &&& m, v.c &&& m⟩
/-- A register as its voted fields read. -/
def voteFields (fs : List Reg) (v : Voted Reg) : Reg := fs.foldl (fun r m => r ||| vote (fieldOf m v)) 0
/-- A write of all three copies. -/
def three {α : Type} (x : α) : Voted α := ⟨x, x, x⟩
/-- The copies agree. -/
def agree {α : Type} [DecidableEq α] (v : Voted α) : Bool := decide (v.a = v.b ∧ v.b = v.c)
/-- All three copies differ. -/
def splitVote {α : Type} [DecidableEq α] (v : Voted α) : Bool := decide (v.a ≠ v.b ∧ v.a ≠ v.c ∧ v.b ≠ v.c)

/-! ### Which blocks answer (R325, R408) -/

/-- The management die and its endpoint are powered. -/
def mgcOn (s : State) : Bool :=
  s.mg.life == .run || s.mg.life == .retain || s.mg.life == .recovery
/-- The endpoint takes accesses (R432). -/
def hostOn (s : State) : Bool := s.mg.endpoint && mgcOn s
/-- The tiles are powered and past step 5 of a start. -/
def tilesOn (s : State) : Bool := s.mg.life == .run

/-- The debug lock (R328). -/
def locked (s : State) : Bool := vote s.mg.dbgLock

/-! ### RWF fields (R316, R319) -/

/-- The block of a tile register: tile and offset within its block. -/
def tileOf (a : Nat) : Option (Nat × Nat) :=
  if 0x800000 ≤ a ∧ a < 0x1000000 then some ((a - 0x800000) / 0x200000, (a - 0x800000) % 0x200000) else none

/-- The RWF bits of the register at a BAR0 offset. -/
def rwfMask (a : Nat) : Reg :=
  if a = 0x100 then 0xFF00FFFF
  else if 0x200 ≤ a ∧ a < 0x400 then 0x03F00000
  else if 0x300100 ≤ a ∧ a < 0x300200 then 0xFFFF00FF
  else if 0x301000 ≤ a ∧ a < 0x301480 then (if a < 0x301014 then 0xFFFF003F else 0xFFFF00BF)
  else match tileOf a with
    | none => 0
    | some (t, o) =>
      if o < 0x200 ∧ o % 0x40 = 0 then 0xFFC1FFFF
      else if o = 0x40000 then 0x00FFFFFF
      else if o = 0x42000 then 0x0000FFFF
      else if o = 0x100000 then (if t = 0 then 0xFFFF0107 else 0xFFFF0000)
      else if o = 0x100004 then 0x00FFFFFF
      else if o = 0x100008 then 0x0000FFFF
      else if 0x100100 ≤ o ∧ o < 0x100180 ∧ o % 0x10 = 0 then 0x47FFFFFF
      else if 0x100400 ≤ o ∧ o < 0x100500 ∧ o % 0x10 = 0 then 0x03FF03FF
      else if o = 0x140000 then 0xFFFF0000
      else 0

/-- The fire group of a register with RWF fields (Table 13.2). -/
def rwfGroup (a : Nat) : Nat :=
  if a < 0x100000 then 7
  else if a < 0x400000 then 6
  else match tileOf a with
    | none => 0
    | some (_, o) =>
      if o < 0x40000 then 1 else if o = 0x40000 then 2 else if o < 0x80000 then 5 else if o < 0x140000 then 3 else 4

/-- The unit that applies a firing of a register: its tile, or 4 for the management die (R317). -/
def rwfUnit (a : Nat) : Nat := match tileOf a with
  | none => 4
  | some (t, _) => t

/-- The staged value of a register. -/
def stagedOf (s : State) (a : Nat) : Reg := regOf s.mg.staged a

/-! ### DEV, CFG, KEY, CMDQ and EVT -/

/-- DEV_ID (Table 13.6). -/
def devId (s : State) : Reg :=
  image [(16, 16, 0x1640), (8, 8, s.mg.hwRev.toNat), (0, 1, bit (s.dp.variant == .ms))]

/-- A drain runs (R180). -/
def draining (p : Plane) : Bool := drainOn p && !drained p

/-- DEV_STATE (Table 13.7). -/
def devState (s : State) : Reg :=
  image [(7, 1, bit (s.mg.warm || s.mg.procStop)), (6, 1, bit (draining s.dp)), (5, 1, bit s.mg.unclean), (4, 1, bit (locked s)),
    (3, 1, bit s.dp.cache.enabled), (2, 1, bit s.mg.ready), (0, 2, s.mg.power)]

/-- Groups whose firing is not complete: CFG_FIRE_STAT (R317). The MGC's own firings, groups 16 to 18, begin and are complete within the
step of the command or boundary they carry out, so that bits 16 to 31 read zero between steps (R319, log 99). -/
def fireStat (s : State) : Reg := image (s.mg.fires.map fun x => (x.1, 1, 1))

def ring (m : Mgmt) (q : Nat) : Ring := tget {} m.rings q
/-- CMDQ_CTRL_q and EVT_CTRL as their voted fields read. -/
def ctlOf (r : Ring) : Reg := voteFields ringFields r.ctrl
def evCtlOf (x : EvRing) : Reg := voteFields evFields x.ctrl
def setRing (m : Mgmt) (q : Nat) (r : Ring) : Mgmt := { m with rings := tput {} m.rings q r }

/-- CMDQ_STAT_q (Table 13.11). -/
def ringStat (r : Ring) : Reg :=
  image [(31, 1, bit r.err), (30, 1, bit r.phase), (8, 8, r.rqTail.toNat), (0, 8, r.sqHead.toNat)]

/-- A register of a command queue; the bases' high words read their shadows (R321, R331). -/
def ringReg (m : Mgmt) (q o : Nat) : Reg :=
  let r := ring m q
  let sh := tget 0 m.shadows
  match o with
  | 0x00 => lowWord r.sqBase
  | 0x04 => sh (0x200000 + 0x40 * q)
  | 0x08 => lowWord r.rqBase
  | 0x0C => sh (0x200008 + 0x40 * q)
  | 0x10 => ctlOf r
  | 0x14 => ringStat r
  | _ => 0

/-- What a read of BAR2 returns: the doorbells of each queue's page, and zero (R292). -/
def doorbellImage (m : Mgmt) (o : Nat) : Reg :=
  if 0x4000 ≤ o then 0
  else match o % 0x1000 with
    | 0 => (ring m (o / 0x1000)).sqTail.setWidth 32
    | 4 => (ring m (o / 0x1000)).rqHead.setWidth 32
    | _ => 0

/-- Ring size in entries (R336). -/
def evSize (c : Reg) : Nat := 2 ^ (8 + min 8 (fld c 0 4))
/-- ENABLE of a control register. -/
def enabled (r : Reg) : Bool := r.getLsbD 31

/-- Entries in the event queue. -/
def evQueued (p : Plane) : Nat := p.evq.length

/-- EVT_STAT (Table 14.4). -/
def evStat (s : State) : Reg :=
  image [(31, 1, bit s.mg.ev.err), (30, 1, bit s.mg.ev.phase), (16, 11, evQueued s.dp), (0, 16, s.mg.ev.tail)]

/-- A register of the EVT block; its RWF registers show staged values. -/
def evReg (s : State) (o : Nat) : Reg :=
  match o with
  | 0x00 => lowWord s.mg.ev.base
  | 0x04 => tget 0 s.mg.shadows 0x300000
  | 0x08 => evCtlOf s.mg.ev
  | 0x0C => s.mg.ev.head.setWidth 32
  | 0x10 => evStat s
  | 0x14 => sat32 s.dp.evLost
  | _ => stagedOf s (0x300000 + o)

/-- The reset value of an MSI-X table entry: masked (PRESUMED, the PCIe specification). -/
def msixReset : BitVec 128 := BitVec.ofNat 128 (2 ^ 96)
def msixEntry (m : Mgmt) (v : Nat) : BitVec 128 := tget msixReset m.msix.table v
def setMsix (m : Mgmt) (v : Nat) (e : BitVec 128) : Mgmt :=
  { m with msix := { m.msix with table := tput msixReset m.msix.table v e } }

/-! ### The Kiln (Tables 17.8 to 17.13) -/

/-- LIMIT of an island: what holds it below its plan. -/
def limitOf (k : Kiln) (x : Island) : Nat :=
  if fEff k x = mhz x.f then 0
  else if x.hard then 2
  else if fEff k x = x.soft then 1
  else 3

/-- The voltage of a domain in mV: that of the highest plan among its islands; 0 while off; 750 for RETAIN_t; a free value for
the other fixed domains (R388, R389). -/
def domVolt (k : Kiln) (d : Nat) : Nat :=
  if k.domOff.getLsbD d then 0
  else if d < 60 ∧ d % 15 = 10 then mvolt (island k (32 * (d / 15) + 28)).v
  else if d < 60 ∧ d % 15 = 14 then 750
  else if 60 ≤ d ∨ d % 15 = 12 then Config.fixedVolt d % 4096
  else mvolt (((List.range 128).filter fun i => islandDomain i == d).foldl (fun m i => max m (island k i).v) 0)

/-- A domain that stays on in RETAIN (Table 17.3). -/
def retained (d : Nat) : Bool := decide (60 ≤ d) || d % 15 == 12 || d % 15 == 14
/-- A domain is off: switched off, or off in RETAIN. -/
def domainOff (s : State) (k : Kiln) (d : Nat) : Bool := k.domOff.getLsbD d || (s.mg.life == .retain && !retained d)

/-- A Kiln register: its copies, with the staged F_TGT, GUARD_PS and PERIOD_H. -/
def kilnReg (s : State) (a : Nat) : Reg :=
  let k := s.rc.kn
  if a = 0x100 then stagedOf s a
  else if a = 0x104 then
    image [(16, 16, k.watts), (6, 10, s.kn.powerCap), (2, 1, bit (decide (k.powerLim < 2400))), (1, 1, bit k.pend.isSome),
      (0, 1, bit !k.applying.isEmpty)]
  else if a = 0x108 then k.applied
  else if a = 0x10C then (match k.pend with
    | some p => p.id
    | none => 0)
  else if 0x200 ≤ a ∧ a < 0x400 then
    let i := (a - 0x200) / 4
    let x := island k i
    (stagedOf s a &&& rwfMask a) |||
      image [(26, 6, x.fCur), (18, 2, limitOf k x), (12, 6, x.v), (0, 6, islandDomain i)]
  else if 0x400 ≤ a ∧ a < 0x580 then
    let x := sensor k ((a - 0x400) / 4)
    image [(31, 1, bit x.fault), (0, 16, x.temp.toNat)]
  else if 0x600 ≤ a ∧ a < 0xA00 then
    let x := canary k ((a - 0x600) / 4)
    image [(31, 1, bit x.valid), (0, 16, x.slack.toNat)]
  else if 0xA00 ≤ a ∧ a < 0xB00 then
    let d := (a - 0xA00) / 4
    let off := domainOff s k d
    image [(31, 1, bit !off), (30, 1, bit (k.domFault.getLsbD d)), (0, 12, if off then 0 else domVolt k d)]
  else 0

/-- A register of the DEV block. -/
def devReg (s : State) (a : Nat) : Reg :=
  match a with
  | 0x0 => devId s
  | 0x4 => devState s
  | 0x8 => image [(0, 1, bit (locked s))]
  | 0xC => s.mg.scratch
  | 0x10 => BitVec.ofNat 32 s.dp.epoch
  | 0x14 => tget 0 s.mg.shadows 0x10
  | _ =>
    if 0x8000 ≤ a ∧ a < 0x8400 then (msixEntry s.mg ((a - 0x8000) / 16)).extractLsb' (32 * ((a - 0x8000) / 4 % 4)) 32
    else if a = 0x9000 then lowWord s.mg.msix.pend
    else if a = 0x9004 then highWord s.mg.msix.pend
    else kilnReg s a

/-! ### The Odometer and the OPU (Tables 14.7, 15.3 to 15.5) -/

/-- A register of the ODO block. -/
def odoReg (s : State) (o : Nat) : Reg :=
  if o < 0x2000 then
    if o % 8 = 0 then lowWord (tget {} s.rc.dp.counters (o / 8)).value else tget 0 s.mg.shadows (0x400000 + o - 4)
  else if o < 0x3000 then
    let c := tget {} s.dp.counters ((o - 0x2000) / 4)
    image [(31, 1, bit c.ovf), (30, 1, bit c.enable), (29, 1, bit c.chain), (28, 1, bit c.sample), (27, 1, bit c.userEn),
      (16, 7, c.user), (0, 16, c.event.toNat)]
  else if 0x4000 ≤ o ∧ o < 0x6000 then
    sat32 (tget 0 (tget {} s.rc.dp.hists ((o - 0x4000) / 0x80)).bins ((o - 0x4000) % 0x80 / 4))
  else if 0x6000 ≤ o ∧ o < 0x6100 then
    let h := tget {} s.dp.hists ((o - 0x6000) / 4)
    image [(31, 1, bit h.sat), (30, 1, bit h.enable), (0, 16, h.event.toNat)]
  else 0

/-- An engine's register: MODE and VALUE in force, with the copied count of messages held. -/
def engineReg (now : Engine) (held : Nat) : Reg :=
  image [(30, 2, now.mode), (16, 10, sat 10 held), (0, 16, now.value)]

/-- A register of the OPU block; all zero under the debug lock (R328). -/
def opuReg (s : State) (o : Nat) : Reg :=
  let p := s.dp
  let c := s.rc.dp
  if locked s then 0
  else if o < 0x200 then
    let e := o / 0x80
    let i := o % 0x80 / 4
    engineReg (engineOf (port p i) e) (engineOf (port c i) e).held.length
  else if o < 0x300 then
    let n := (o - 0x200) / 4
    engineReg (chan p n).engine (chan c n).heldRet.length
  else if o < 0x340 then
    let j := (o - 0x300) / 4
    engineReg (link p j).engine (link c j).engine.held.length
  else if o = 0x400 then
    let inj := (c.ports.filter fun x => x.2.retry.inject != 0).length + (c.links.filter fun x => x.2.retry.inject != 0).length
    let act := (c.ports.map fun x => (x.2.engines.filter fun y => y.2.mode != 0).length).sum +
      (c.chans.filter fun x => x.2.engine.mode != 0).length + (c.links.filter fun x => x.2.engine.mode != 0).length
    image [(16, 8, inj), (0, 8, act)]
  else 0

/-! ### Tiles -/

def linkCode : LinkState → Nat
  | .down => 0
  | .training => 1
  | .active => 2
  | .retraining => 3
  | .failed => 4

def portCode : PortState → Nat
  | .down => 0
  | .training => 1
  | .active => 2
  | .retraining => 3
  | .contained => 4
  | .detached => 5

def instCode : InstState → Nat
  | .free => 0
  | .active => 1
  | .resetting => 2
  | .destroying => 3

/-- STATE of a channel (Table 08.14). -/
def chanCode (p : Plane) (ch : Nat) : Nat :=
  let e := evacOf p (ch / 16)
  let mine := e.chan == ch % 16
  match (chan p ch).state with
  | .down => 7
  | .selfRefresh => 6
  | .training => 1
  | .pause0 => 2
  | .pause1 => 3
  | .normal => if mine && e.state == 2 then 5 else if mine && e.state == 1 then 4 else 0

/-- APC sub-block: port configuration and the Drayway registers (Tables 10.10 to 10.15, 13.12). -/
def apcReg (s : State) (t o : Nat) : Reg :=
  let p := s.dp
  let c := s.rc.dp
  if o = 0x800 then image [(16, 16, c.dw.curEp), (0, 16, c.dw.prep.epoch)]
  else if o = 0x804 then
    image [(31, 1, bit c.dw.prep.valid), (30, 1, bit (c.dw.prep.valid && c.dw.prep.seen == BitVec.allOnes 64)),
      (27, 3, p.dw.leaveDone), (26, 1, bit p.dw.leaving), (0, 14, p.dw.node)]
  else if o = 0x808 then
    image [(16, 13, (c.relBuf.filter fun r => r.tile == t).length),
      (0, 16, sat 16 (c.jobs.filter fun j => j.phase == .epoch).length)]
  else if 0x810 ≤ o ∧ o < 0x850 then
    let l := link c (4 * t + (o - 0x810) / 0x10)
    match (o - 0x810) % 0x10 with
    | 0 => image [(28, 4, linkCode l.state), (27, 1, bit l.failPend), (20, 4, if l.state = .active then l.width else 0),
        (14, 4, l.peerLink), (0, 14, l.peerNode)]
    | 4 => image [(16, 16, l.retrains), (0, 16, sat 16 l.hopDrops)]
    | _ => 0
  else 0

/-- Requests that wait for a pool entry of a tile (Table 11.8). -/
def poolWaiting (p : Plane) (t : Nat) : Nat :=
  (p.waits.filter fun (r : Req) => r.tile == t && r.tPool.isSome).length +
    (p.joinWait.filter fun x => lineTile (spaLine x.2.2.2.1.addr) == t).length

/-- HCE sub-block: broadcast bucket and the ISM registers (Tables 11.5 to 11.8, 13.12). -/
def hceReg (s : State) (t o : Nat) : Reg :=
  let c := s.rc.dp
  if o = 0x4 then image [(16, 6, (htile c t).rotP), (0, 8, (htile c t).tokens)]
  else if o = 0x2004 then image [(16, 14, sat 14 (poolWaiting c t)), (0, 14, 12288 - poolUsed c t)]
  else if o = 0x2008 then sat32 (htile c t).late
  else if 0x2100 ≤ o ∧ o < 0x2300 then
    let i := (o - 0x2100) / 4
    let x := inst c i
    image [(30, 2, instCode x.state), (29, 1, bit x.staged.isSome), (28, 1, bit (inst s.dp i).share.rt), (16, 8, x.gen.toNat),
      (0, 14, poolUse c t i)]
  else 0

/-- Ways of a slice locked to someone, as a mask. -/
def lockMask (x : Slice) : BitVec 24 := x.locks.foldl (fun m y => m ||| BitVec.ofNat 24 (2 ^ y.1)) 0

/-- CCA sub-block (Tables 06.5 to 06.9). -/
def ccaReg (s : State) (t o : Nat) : Reg :=
  let p := s.dp
  if o = 0 then
    image [(3, 1, bit (replayRuns p)), (2, 1, bit p.cache.invDone), (1, 1, bit p.cache.wtAll), (0, 1, bit p.cache.enabled)]
  else if 0x100 ≤ o ∧ o < 0x300 then
    let x := slice p (16 * t + (o - 0x100) / 0x20)
    let k := (o - 0x100) % 0x20
    if k = 0 then (lockMask x).setWidth 32
    else if k = 4 then x.retired.setWidth 32
    else
      let w := k - 8
      image ((List.range 4).map fun b => (8 * b, 7, tget 0 x.locks (w + b)))
  else if 0x1000 ≤ o ∧ o < 0x1200 then
    BitVec.ofNat 32 (((List.range 16).map fun n => occupancy s.rc.dp (16 * t + n) ((o - 0x1000) / 4)).sum)
  else 0

/-- HOP sub-block (Tables 07.10 to 07.14). -/
def hopReg (s : State) (t o : Nat) : Reg :=
  let c := s.rc.dp
  if o < 0x200 then
    let i := 8 * t + o / 0x40
    let h := hopOf c i
    match o % 0x40 with
    | 0 => image [(16, 11, h.entries.length), (0, 11, (h.entries.filter fun e => e.st == .sent).length)]
    | 4 => image [(16, 16, h.nextRsn), (0, 16, match h.entries with
        | e :: _ => e.rsn
        | [] => h.nextRsn)]
    | 8 => image [(8, 8, ((List.range 8).map fun k => bit (hopReserve h k) * 2 ^ k).sum),
        (3, 1, bit ((hopOf s.dp i).entries.any fun e => e.withdrawn)), (2, 1, bit (decide (1016 ≤ hopGeneral h))),
        (1, 1, bit (hopOf s.dp i).drainStall), (0, 1, bit ((hopOf s.dp i).draining && draining s.dp))]
    | _ => 0
  else if o = 0x400 then
    image [(16, 13, (c.rsvs.filter fun r => r.hold).length), (0, 13, (c.rsvs.filter fun r => r.live).length)]
  else 0

/-- DMC sub-block (Tables 08.7 to 08.15): what is not staged. -/
def dmcReg (s : State) (t o : Nat) : Reg :=
  let c := s.rc.dp
  if o = 0 then (if t = 0 then image [(4, 3, s.mg.rateCur)] else 0)
  else if o = 8 then image [(30, 2, (evacOf s.dp t).state), (24, 4, (evacOf s.dp t).chan)]
  else if o = 0xC then (if (evacOf c t).state = 0 then 0 else BitVec.ofNat 32 (evacOf c t).cursor)
  else if 0x100 ≤ o ∧ o < 0x180 ∧ o % 0x10 = 0 then image [(31, 1, bit (inPanic (port c (8 * t + (o - 0x100) / 0x10))))]
  else if 0x400 ≤ o ∧ o < 0x500 then
    let ch := 16 * t + (o - 0x400) / 0x10
    let x := chan c ch
    match o % 0x10 with
    | 4 => image [(24, 8, x.temp.toNat), (16, 4, chanCode c ch), (8, 8, x.wq.length), (0, 8, x.rq.length)]
    | 8 => image [(16, 16, x.retrains), (8, 8, x.lastTemp.toNat), (1, 1, bit x.deferred), (0, 1, bit x.due)]
    | _ => 0
  else 0

/-- DIU_CH_STAT_c of a channel (Table 09.7). -/
def diuStat (x : Chan) : Reg :=
  image [(16, 11, (x.spares.map fun y => y.2).sum), (5, 1, bit x.pinFault), (0, 5, x.pin)]

/-- DIU sub-block (Tables 09.4 to 09.7): what is not staged. -/
def diuReg (s : State) (t o : Nat) : Reg :=
  let c := s.rc.dp
  if o = 4 then
    image [(24, 8, s.dp.dramHours), (16, 8, s.dp.sramHours), (1, 1, 1), (0, 1, bit !(hostMode s.dp fmScrub))]
  else if 0x100 ≤ o ∧ o < 0x200 then
    let x := chan c (16 * t + (o - 0x100) / 0x10)
    match o % 0x10 with
    | 0 => sat32 x.ce
    | 4 => sat32 x.ue
    | 8 => diuStat x
    | _ => 0
  else if 0x400 ≤ o ∧ o < 0x500 then
    let x := slice c (16 * t + (o - 0x400) / 0x10)
    match o % 0x10 with
    | 0 => sat32 x.ce
    | 4 => sat32 x.ue
    | _ => 0
  else if o = 0x800 then sat32 (tget 0 c.dirCe t)
  else if o = 0x804 then sat32 (tget 0 c.dirUe t)
  else if o = 0x808 then sat32 (tget 0 c.rvFix t)
  else 0

/-- The fields of a tile register that are not staged. -/
def tileReg (s : State) (t o : Nat) : Reg :=
  match o / 0x40000 with
  | 0 => apcReg s t o
  | 1 => hceReg s t (o % 0x40000)
  | 2 => ccaReg s t (o % 0x40000)
  | 3 => hopReg s t (o % 0x40000)
  | 4 => dmcReg s t (o % 0x40000)
  | 5 => diuReg s t (o % 0x40000)
  | _ => 0

/-! ### The SAG mirror (Tables 16.9, 16.10) -/

/-- A register of the SAG block. -/
def sagReg (s : State) (o : Nat) : Reg :=
  let m := s.rc.mir
  let g := m.sag
  if m.present = false then 0
  else match o with
    | 0x00 => sagStatus g
    | 0x04 => g.sealCnt
    | 0x08 => Config.romCrc g.romRuns
    | 0x0C => BitVec.ofNat 32 (Sys2Proof.Machine.lastSeq g)
    | 0x10 => BitVec.ofNat 32 (g.time / secLen)
    | 0x14 => tget 0 s.mg.shadows 0x1000010
    | 0x18 => BitVec.ofNat 32 (g.time % secLen / 2)
    | 0x1C => BitVec.ofNat 32 g.lenMs
    | 0x20 => sat32 g.lost
    | 0x24 => image [(16, 16, g.powerUps), (0, 16, g.audit.length)]
    | _ =>
      if 0x1000 ≤ o ∧ o < 0x3000 then
        match g.records.getLast? with
        | none => 0
        | some w =>
          let i := (o - 0x1000) / 0x40
          if tget 0 w.labels i = 0 then 0 else (encodeInst w i).extractLsb' (8 * ((o - 0x1000) % 0x40)) 32
      else 0

/-! ### One register -/

/-- What a read of the register at a word-aligned BAR0 offset returns (R313, R314, R325, R408). -/
def regImage (s : State) (a : Nat) : Reg :=
  let b := a / 0x100000
  if b = 0 then devReg s a
  else if b = 1 then
    (match a % 0x100000 with
      | 4 => fireStat s
      | 8 => s.mg.fireErr.setWidth 32
      | _ => 0)
  else if b = 2 then
    (let o := a % 0x100000
     if o < 0x100 then ringReg s.mg (o / 0x40) (o % 0x40) else 0)
  else if b = 3 then evReg s (a % 0x100000)
  else if b = 4 then (if tilesOn s then odoReg s (a % 0x100000) else 0)
  else if b = 5 then (if tilesOn s then opuReg s (a % 0x100000) else 0)
  else if b = 6 then
    (match a % 0x100000 with
      | 0 => image [(16, 1, bit s.mg.keyOpen)]
      | 4 => image [(16, 16, s.mg.badKeys.toNat), (0, 1, bit s.mg.dropped)]
      | _ => 0)
  else if a < 0x1000000 then
    match tileOf a with
    | none => 0
    | some (t, o) => (stagedOf s a &&& rwfMask a) ||| (if tilesOn s then tileReg s t o else 0)
  else if s.mg.life = .recovery then 0 else sagReg s (a - 0x1000000)

/-- A table assigns the offset of a tile register (Tables 06.5, 07.10, 08.7, 09.4, 10.10, 11.5, 13.12). -/
def tileAssigned (o : Nat) : Bool :=
  let k := o % 0x40000
  match o / 0x40000 with
  | 0 => decide (k < 0x200) && k % 0x40 == 0 || k == 0x800 || k == 0x804 || k == 0x808 ||
      decide (0x810 ≤ k ∧ k < 0x850) && decide (k % 0x10 < 8)
  | 1 => k == 0 || k == 4 || k == 0x2000 || k == 0x2004 || k == 0x2008 || decide (0x2100 ≤ k ∧ k < 0x2300)
  | 2 => k == 0 || decide (0x100 ≤ k ∧ k < 0x300) || decide (0x1000 ≤ k ∧ k < 0x1200)
  | 3 => decide (k < 0x200) && decide (k % 0x40 < 0xC) || k == 0x400
  | 4 => decide (k < 0x10) || decide (0x100 ≤ k ∧ k < 0x180) && k % 0x10 == 0 ||
      decide (0x400 ≤ k ∧ k < 0x500) && decide (k % 0x10 < 0xC)
  | 5 => decide (k < 8) || decide (0x100 ≤ k ∧ k < 0x200) && decide (k % 0x10 < 0xC) ||
      decide (0x400 ≤ k ∧ k < 0x500) && decide (k % 0x10 < 8) || k == 0x800 || k == 0x804 || k == 0x808
  | _ => false

/-- A table assigns the register at a word-aligned BAR0 offset (R314, Tables 13.3 to 13.12, 14.4, 14.7, 15.3, 16.9, 17.7). -/
def assigned (a : Nat) : Bool :=
  let k := a % 0x100000
  match a / 0x100000 with
  | 0 => decide (a < 0x18) || decide (0x100 ≤ a ∧ a < 0x110) || decide (0x200 ≤ a ∧ a < 0x580) || decide (0x600 ≤ a ∧ a < 0xB00) ||
      decide (0x8000 ≤ a ∧ a < 0x8400) || a == 0x9000 || a == 0x9004
  | 1 => decide (k < 0xC)
  | 2 => decide (k < 0x100) && decide (k % 0x40 < 0x18)
  | 3 => decide (k < 0x18) || decide (0x100 ≤ k ∧ k < 0x200) || decide (0x1000 ≤ k ∧ k < 0x1480)
  | 4 => decide (k < 0x3000) || decide (0x4000 ≤ k ∧ k < 0x6100)
  | 5 => decide (k < 0x180) || decide (0x200 ≤ k ∧ k < 0x340) || k == 0x400
  | 6 => decide (k < 8)
  | 7 => false
  | _ => match tileOf a with
    | some (_, o) => tileAssigned o
    | none => decide (a - 0x1000000 < 0x28) || decide (0x1001000 ≤ a ∧ a < 0x1003000)

/-- The high word that a read of a pair's low word latches (R321): the pairs of the map. -/
def pairHigh (s : State) (a : Nat) : Option Reg :=
  if a = 0x10 then some (BitVec.ofNat 32 (s.dp.epoch / 2 ^ 32))
  else if 0x200000 ≤ a ∧ a < 0x200100 ∧ a % 0x40 = 0 then some (highWord (ring s.mg ((a - 0x200000) / 0x40)).sqBase)
  else if 0x200000 ≤ a ∧ a < 0x200100 ∧ a % 0x40 = 8 then some (highWord (ring s.mg ((a - 0x200000) / 0x40)).rqBase)
  else if a = 0x300000 then some (highWord s.mg.ev.base)
  else if 0x400000 ≤ a ∧ a < 0x402000 ∧ a % 8 = 0 then
    some (if tilesOn s then highWord (tget {} s.rc.dp.counters ((a - 0x400000) / 8)).value else 0)
  else if a = 0x1000010 then
    some (if s.rc.mir.present ∧ s.mg.life ≠ .recovery then BitVec.ofNat 32 (s.rc.mir.sag.time / secLen / 2 ^ 32) else 0)
  else none

end Sys2Proof.Machine
end

