-- ==== Sys2Proof/Machine/Queue.lean ====
section
/-! DEFINITION. Command queues, replies, doorbells, the SPI port, the event ring and MSI-X (R291 to R297, R305, R336 to R340,
R432). -/
namespace Sys2Proof.Machine
open Sys2Proof

/-! ### Events of the management die -/

/-- An event of the management die; the recovery service raises none (R416). -/
def mgEvent (src : Nat) (code : BitVec 16) (data : BitVec 32) (pay : BitVec 128) (s : State) : State :=
  if s.mg.life = .recovery then s else { s with dp := raise src code data pay s.dp }

/-! ### MSI-X (R325, R340) -/

/-- A vector's message: sent, or pending while the vector is masked. -/
def vectorMessage (v : Nat) (m : Mgmt) : Mgmt :=
  if (msixEntry m v).getLsbD 96 then
    { m with msix := { m.msix with pend := m.msix.pend ||| BitVec.ofNat 64 (2 ^ v) } }
  else { m with msix := { m.msix with sent := tput 0 m.msix.sent v (tget 0 m.msix.sent v + 1) } }

/-- A message of a vector whose mask is taken away is sent. -/
def unmasked (v : Nat) (m : Mgmt) : Mgmt :=
  if m.msix.pend.getLsbD v && !(msixEntry m v).getLsbD 96 then
    vectorMessage v { m with msix := { m.msix with pend := m.msix.pend &&& ~~~(BitVec.ofNat 64 (2 ^ v)) } }
  else m

/-! ### Rings (R291, R295) -/

/-- The pointers of a queue as a cleared ENABLE leaves them (R291). -/
def ringStop (r : Ring) : Ring :=
  { r with sqHead := 0, sqTail := 0, rqHead := 0, rqTail := 0, phase := true, stopping := false }

/-- A command of the queue waits for a busy line. -/
def runsHeld (m : Mgmt) (q : Nat) : Bool := match m.held with
  | some h => h.queue == q
  | none => false

/-- ENABLE of a queue cleared by a fault, with ERR. -/
def ringFault (r : Ring) : Ring := ringStop { r with ctrl := three (ctlOf r &&& 0x7FFFFFFF), err := true }

/-- A doorbell or base fault of a queue: ERR and MGC_QUEUE (R295, R331). -/
def queueErr (q : Nat) (code : BitVec 16) (s : State) : State :=
  mgEvent 11 code (BitVec.ofNat 32 q) 0 { s with mg := setRing s.mg q { ring s.mg q with err := true } }

/-- Packets put into consecutive submission slots from a slot on. -/
def putPackets (t : Table (BitVec 512)) (slot : BitVec 8) : List (BitVec 512) → Table (BitVec 512)
  | [] => t
  | w :: ws => putPackets (tput 0 t slot.toNat w) (slot + 1) ws

/-- A move of SQ_TAIL that takes back no entry the module holds. -/
def tailOk (r : Ring) (tail : BitVec 8) : Bool := decide ((r.sqTail - r.sqHead).toNat ≤ (tail - r.sqHead).toNat)
/-- A move of RQ_HEAD that stays among the replies written. -/
def headOk (r : Ring) (head : BitVec 8) : Bool := decide ((head - r.rqHead).toNat ≤ (r.rqTail - r.rqHead).toNat)

/-- SQ_TAIL: the doorbell of a submission ring (R293, R295). -/
def execSqTail (q : Fin 4) (tail : BitVec 8) (packets : List (BitVec 512)) (s : State) : Host.Outcome State Fault Refusal :=
  let r := ring s.mg q
  .next (if hostOn s = false then s
    else if enabled (ctlOf r) = false ∨ tailOk r tail = false then queueErr q 1 s
    else
      let n := (tail - r.sqTail).toNat
      { s with mg := setRing s.mg q { r with sqTail := tail, packets := putPackets r.packets r.sqTail (packets.take n) } })

/-- RQ_HEAD: the doorbell of a reply ring (R293, R295). -/
def execRqHead (q : Fin 4) (head : BitVec 8) (s : State) : Host.Outcome State Fault Refusal :=
  let r := ring s.mg q
  .next (if hostOn s = false then s
    else if enabled (ctlOf r) = false ∨ headOk r head = false then queueErr q 1 s
    else { s with mg := setRing s.mg q { r with rqHead := head } })

/-! ### Replies (R293, R297) -/

/-- A reply or completion record: OPCODE, STATUS, PHASE, QUEUE, SEQ, RESULT (Table 12.4). -/
def replyImage (opcode : BitVec 16) (status : BitVec 8) (phase : Bool) (queue : Nat) (seq : BitVec 32) (result : BitVec 192) :
    BitVec 256 :=
  result ++ seq ++ BitVec.ofBool phase ++ (0 : BitVec 4) ++ BitVec.ofNat 3 queue ++ status ++ opcode

/-- A reply of a queue: written into the slot at RQ_TAIL, which advances with SQ_HEAD; then the queue's vector. A disabled
endpoint discards it; a queue whose ENABLE was cleared meanwhile stops after it, whatever ENABLE is by then (R291, R432). -/
def ringReply (q : Nat) (opcode : BitVec 16) (status : BitVec 8) (seq : BitVec 32) (result : BitVec 192) (m : Mgmt) : Mgmt :=
  if m.endpoint = false then m
  else
    let r := ring m q
    let w := replyImage opcode status r.phase q seq result
    let r' : Ring := { r with replies := tput 0 r.replies r.rqTail.toNat w, rqTail := r.rqTail + 1, sqHead := r.sqHead + 1,
                              phase := if r.rqTail = 255 then !r.phase else r.phase }
    let c := ctlOf r
    let m := setRing m q (if enabled c && !r.stopping then r' else ringStop r')
    if c.getLsbD 6 then vectorMessage (fld c 0 6) m else m

/-- A reply on the SPI port. -/
def spiReplyTo (opcode : BitVec 16) (status : BitVec 8) (seq : BitVec 32) (result : BitVec 192) (s : State) : State :=
  { s with mg := { s.mg with spi := { s.mg.spi with
                     reply := some (replyImage opcode status (Config.spiPhase s.dp.draw) 4 seq result), replyNew := true } },
           dp := draw1 s.dp }

/-- A host-memory access of a queue fails: ENABLE clears, with ERR and the event (R295). -/
def hostFault (q : Nat) (s : State) : State :=
  mgEvent 11 3 (BitVec.ofNat 32 q) 0 { s with mg := setRing s.mg q (ringFault (ring s.mg q)) }

/-- A reply to where its command came from, which host memory takes or not (R295). -/
def replyTo (q : Nat) (ok : Bool) (opcode : BitVec 16) (status : BitVec 8) (seq : BitVec 32) (result : BitVec 192) (s : State) :
    State :=
  if q = 4 then spiReplyTo opcode status seq result s
  else if s.mg.endpoint && !ok then hostFault q s
  else { s with mg := ringReply q opcode status seq result s.mg }

/-! ### The SPI port (R305) -/

/-- What a frame returns: nothing that the spec gives while the output stage is unpowered (R427). -/
def spiOut (v : Option (BitVec 256)) (s : State) : State :=
  match v, s.side.vio with
  | some w, true => { s with mg := { s.mg with spi := { s.mg.spi with out := w } } }
  | _, _ => { s with mg := { s.mg with spi := { s.mg.spi with out := Config.spiBits s.dp.draw } }, dp := draw1 s.dp }

/-- A command of the SPI port is pending. -/
def spiBusy (m : Mgmt) : Bool := m.spi.cmd.isSome || runsHeld m 4

/-- The STAT byte of Table 12.5: each bit from its cause on, until it is read or its cause has gone (R305, log 24). -/
def spiStatus (m : Mgmt) : BitVec 256 :=
  BitVec.ofNat 256 (bit (m.spi.replyNew && m.spi.reply.isSome) + 2 * bit (m.spi.cmdNew && spiBusy m) +
    4 * bit (m.spi.complNew && !m.spi.compl.isEmpty) + 8 * bit m.spi.overflow + 16 * bit m.spi.discarded)

/-- CMD: a packet, discarded while a command is pending or a reply unread. -/
def execSpiCmd (packet : BitVec 512) (s : State) : Host.Outcome State Fault Refusal :=
  .next (if mgcOn s = false then s
    else if spiBusy s.mg ∨ s.mg.spi.reply.isSome then { s with mg := { s.mg with spi := { s.mg.spi with discarded := true } } }
    else { s with mg := { s.mg with spi := { s.mg.spi with cmd := some packet, cmdNew := true } } })

/-- REPLY: the 32 B reply; REPLY_READY clears. -/
def execSpiReply (s : State) : Host.Outcome State Fault Refusal :=
  .next (if mgcOn s = false then s
    else
      let t := spiOut s.mg.spi.reply s
      { t with mg := { t.mg with spi := { t.mg.spi with reply := none } } })

/-- STAT: the status byte, whose bits clear. -/
def execSpiStat (s : State) : Host.Outcome State Fault Refusal :=
  .next (if mgcOn s = false then s
    else
      let t := spiOut (some (spiStatus s.mg)) s
      { t with mg := { t.mg with spi := { t.mg.spi with
          overflow := false, discarded := false, replyNew := false, cmdNew := false, complNew := false } } })

/-- COMPL: the oldest completion record, which is removed. -/
def execSpiCompl (s : State) : Host.Outcome State Fault Refusal :=
  .next (if mgcOn s = false then s
    else
      let t := spiOut s.mg.spi.compl.head? s
      { t with mg := { t.mg with spi := { t.mg.spi with compl := t.mg.spi.compl.tail } } })

/-- A completion record for the port: the oldest of 16 is overwritten, with OVERFLOW. -/
def spiRecord (w : BitVec 256) (x : Spi) : Spi :=
  let l := x.compl ++ [w]
  { x with complNew := true, compl := l.drop (l.length - 16), overflow := x.overflow || decide (16 < l.length) }

/-! ### The event ring (R336 to R340) -/

/-- An entry as it is written (Table 14.2). -/
def eventImage (e : Ev) (phase lost : Bool) : BitVec 256 :=
  e.payload ++ e.data ++ BitVec.ofNat 16 e.merged ++ e.code ++ BitVec.ofNat 32 e.time ++ BitVec.ofBool phase ++
    BitVec.ofBool lost ++ (0 : BitVec 3) ++ BitVec.ofNat 3 e.queue ++ e.status ++ BitVec.ofNat 16 e.source

/-- The ring is full. -/
def evFull (x : EvRing) : Bool :=
  let n := evSize (evCtlOf x)
  decide ((x.tail + 1) % n = x.head.toNat % n)

/-- ENABLE of the event ring cleared, with ERR. -/
def evStop (x : EvRing) : EvRing := { x with ctrl := three (evCtlOf x &&& 0x7FFFFFFF), err := true }

/-- The vector of a source in force. -/
def srcVector (p : Plane) (src : Nat) : Nat := fld (rg p (aEvtSrc src)) 0 6
/-- COUNT of a vector in force; 0 counts as 1. -/
def vecCount (p : Plane) (v : Nat) : Nat := max 1 (fld (rg p (aEvtVec v)) 0 8)

/-- An entry of a vector written: its message goes once COUNT entries have been written since the last (R340). -/
def coalesce (p : Plane) (v : Nat) (m : Mgmt) : Mgmt :=
  let n := tget 0 m.ev.since v + 1
  if vecCount p v ≤ n then vectorMessage v { m with ev := { m.ev with since := tput 0 m.ev.since v 0 } }
  else { m with ev := { m.ev with since := tput 0 m.ev.since v n } }

/-- EVENT_WRITE: the oldest entry of the event queue goes to the ring, or its write fails (R336, R337). -/
def execEventWrite (hostOk : Bool) (s : State) : Host.Outcome State Fault Refusal :=
  .next (match s.dp.evq with
    | [] => s
    | e :: rest =>
      let x := s.mg.ev
      if hostOn s = false ∨ enabled (evCtlOf x) = false ∨ evFull x then s
      else if hostOk = false then mgEvent 11 3 4 0 { s with mg := { s.mg with ev := evStop x } }
      else
        let n := evSize (evCtlOf x)
        let x' : EvRing := { x with slots := tput 0 x.slots x.tail (eventImage e x.phase s.dp.lostFlag),
                                    tail := (x.tail + 1) % n, phase := if x.tail + 1 = n then !x.phase else x.phase }
        let ops := match e.op with
          | none => s.dp.ops
          | some id => s.dp.ops.filter fun o => !(o.id == id)
        { s with mg := coalesce s.dp (srcVector s.dp e.source) { s.mg with ev := x' },
                 dp := { s.dp with evq := rest, lostFlag := false, ops := ops } })

/-- COALESCING_TIMEOUT: TIME_US after the first entry since a vector's last message (R340). -/
def execCoalescingTimeout (vector : Fin 64) (s : State) : Host.Outcome State Fault Refusal :=
  .next (if hostOn s = false ∨ tget 0 s.mg.ev.since vector = 0 ∨ fld (rg s.dp (aEvtVec vector)) 16 16 = 0 then s
    else { s with mg := vectorMessage vector { s.mg with ev := { s.mg.ev with since := tput 0 s.mg.ev.since vector 0 } } })

/-! ### Endpoint (R432) -/

/-- The endpoint disabled: every queue and the event ring stop with ERR; no event is raised. -/
def endpointOff (m : Mgmt) : Mgmt :=
  { m with endpoint := false,
           rings := (List.range 4).foldl (fun t q => tput {} t q (ringFault (tget {} t q))) m.rings,
           ev := evStop m.ev,
           held := m.held.map fun h => if h.queue < 4 then { h with mute := true } else h }

/-- ENDPOINT_DISABLE: PERST_N, a hot reset, link down, a function level reset or D3hot (R432). -/
def execEndpointDisable (s : State) : Host.Outcome State Fault Refusal :=
  .next (if mgcOn s ∧ s.mg.endpoint then { s with mg := endpointOff s.mg } else s)

/-- ENDPOINT_ENABLE: the endpoint answers again (R432). -/
def execEndpointEnable (s : State) : Host.Outcome State Fault Refusal :=
  .next (if mgcOn s then { s with mg := { s.mg with endpoint := true } } else s)

end Sys2Proof.Machine
end

