-- ==== Sys2Proof/Machine/Registers.lean ====
section
/-! DEFINITION. Register accesses: staged fields and firing, the key gate and the debug lock, queue and event controls, reads and
writes of any offset, and the slow clock (chapter 13). -/
namespace Sys2Proof.Machine
open Sys2Proof

/-! ### Staged fields and firing (R316 to R319) -/

/-- A write of a register's RWF fields stages them. -/
def stage (a : Nat) (v : Reg) (s : State) : State :=
  let w := (stagedOf s a &&& ~~~(rwfMask a)) ||| (v &&& rwfMask a)
  { s with mg := { s.mg with staged := tput (rwfReset a) s.mg.staged a w } }

/-- The registers of a group that are staged or in force at another value than reset. -/
def groupRegs (s : State) (g : Nat) : List Nat :=
  (((s.mg.staged.map (·.1)) ++ s.dp.inforce.map (·.1)).filter fun a => rwfGroup a == g && rwfMask a != 0).dedup

/-- The snapshot of a group's staged values. -/
def snapshotOf (s : State) (g : Nat) : Table Reg := (groupRegs s g).map fun a => (a, stagedOf s a)

/-- The units that apply a group: the four tiles, or the management die. -/
def unitsOf (g : Nat) : List Nat := if 1 ≤ g ∧ g ≤ 5 then [0, 1, 2, 3] else [4]

/-- One group named by a CFG_FIRE write: fired, or its bit of CFG_FIRE_ERR set while its last firing is pending. -/
def fireGroup (g : Nat) (s : State) : State :=
  if s.mg.fires.any fun x => x.1 == g then
    { s with mg := { s.mg with fireErr := s.mg.fireErr ||| BitVec.ofNat 8 (2 ^ g) } }
  else { s with mg := { s.mg with fires := s.mg.fires ++ [(g, { snap := snapshotOf s g, units := unitsOf g })] } }

/-- A write of CFG_FIRE. Bits 8 to 31 are ignored. -/
def fireWrite (v : Reg) (s : State) : State :=
  ((List.range 8).filter fun g => v.getLsbD g).foldl (fun s g => fireGroup g s) s

/-- A channel is EVACUATING or EVACUATED. -/
def anyEvac (p : Plane) : Bool := (List.range 4).any fun t => (evacOf p t).state != 0

/-- IO_TIMEOUT and CONTAIN_TIMEOUT of APC_PORT_CFG_p, in half-nanoseconds (Table 13.12). -/
def ioLimit (v : Reg) : Nat := 20000 * clampF (fld v 0 17) 100000
def containLimit (v : Reg) : Nat := 2000000 * clampF (fld v 22 10) 1000

/-- Timers of a port that are past the new limits of a firing expire in its cycle (R332). -/
def expirePast (i : Nat) (old new : Reg) (p : Plane) : Plane :=
  let late := if ioLimit new = ioLimit old then [] else
    (port p i).mtags.filter fun x => decide (x.2.t0 + ioLimit new < p.clock)
  let q := late.foldl (fun q x => ioExpire i (BitVec.ofNat 16 x.1) q) p
  if containLimit new ≠ containLimit old ∧ (port q i).state = .contained ∧ (port q i).tContain + containLimit new < q.clock then
    detach i q
  else q

/-- One register takes its fired value, with what depends on it at once (R205, R332). -/
def applyReg (a : Nat) (v : Reg) (s : State) : State :=
  let keep := a == aDmcCtrl 0 && anyEvac s.dp && (rg s.dp a).getLsbD 8 && !v.getLsbD 8
  let v' := if keep then v ||| 0x100 else v
  let p : Plane := { s.dp with inforce := tput (rwfReset a) s.dp.inforce a v' }
  let s' := { s with dp := p }
  let s' := if keep then stage a (stagedOf s' a ||| 0x100) s' else s'
  match tileOf a with
  | none => s'
  | some (t, o) =>
    if o < 0x200 then
      { s' with dp := { wake (tidy (expirePast (8 * t + o / 0x40) (rg s.dp a) v' p)) with inforce := p.inforce } }
    else if o = 0x40000 then
      { s' with dp := setTile p t { htile p t with tokens := min (htile p t).tokens (clampF (fld v' 16 8) 255) } }
    else if 0x100100 ≤ o ∧ o < 0x100180 then { s' with dp := updPanic (8 * t + (o - 0x100100) / 0x10) p }
    else if o = 0x100004 then
      { s' with dp := (List.range 16).foldl (fun q c => setChan q (16 * t + c) (updDrain q (16 * t + c) (chan q (16 * t + c)))) p }
    else s'

/-- Islands whose F_TGT a snapshot changes (R400). -/
def retargeted (s : State) (snap : Table Reg) : BitVec 128 :=
  islandMask ((List.range 128).filter fun i => match tfind snap (aKlnIsl i) with
    | none => false
    | some v => fld v 20 6 != fld (rg s.dp (aKlnIsl i)) 20 6)

/-- A unit applies the snapshot of a group's firing. -/
def applySnap (unit : Nat) (snap : Table Reg) (s : State) : State :=
  let m := if unit = 4 then retargeted s snap else 0
  let t := (snap.filter fun x => rwfUnit x.1 == unit).foldl (fun s x => applyReg x.1 x.2 s) s
  if m = 0 then t else { t with kn := { t.kn with asked := t.kn.asked ++ [(m, none)] } }

/-- A unit applies a firing that waits for it; after the last unit the firing is complete. -/
def applyFire (g unit : Nat) (s : State) : State :=
  match s.mg.fires.find? fun x => x.1 == g with
  | none => s
  | some (_, f) =>
    if f.units.contains unit = false then s
    else
      let left := f.units.filter fun u => u != unit
      let rest := s.mg.fires.filter fun x => !(x.1 == g)
      applySnap unit f.snap
        { s with mg := { s.mg with fires := if left.isEmpty then rest else rest ++ [(g, { f with units := left })] } }

/-- Every firing that waits for the tiles is applied as they come up (R408). -/
def applyAllFires (s : State) : State :=
  s.mg.fires.foldl (fun s x => x.2.units.foldl (fun s u => applyFire x.1 u s) s) s

/-! ### The key gate and the debug lock (R322, R323, R328) -/

/-- A write of KEY_GATE. -/
def keyWrite (v : Reg) (s : State) : State :=
  if v.setWidth 16 = (0xB7E5 : BitVec 16) then { s with mg := { s.mg with keyOpen := true } }
  else mgEvent 10 2 0x600000 0
    { s with mg := { s.mg with keyOpen := false, badKeys := if s.mg.badKeys = 65535 then 65535 else s.mg.badKeys + 1 } }

/-- A write of DEV_CTRL, the one keyed register. Setting the lock clears every perturbation engine (R354), and a debug
instruction of the TAP becomes BYPASS. -/
def devCtrlWrite (v : Reg) (s : State) : State :=
  if s.mg.keyOpen then
    let t := { s with mg := { s.mg with keyOpen := false } }
    if v.getLsbD 0 then
      { t with mg := { t.mg with dbgLock := three true }, dp := if tilesOn s then clearAll s.dp else s.dp,
               side := bypass t.side }
    else t
  else mgEvent 10 3 8 0 { s with mg := { s.mg with dropped := true } }
where
  /-- A debug instruction of the TAP acts as BYPASS under the lock (R328, Table 19.7). -/
  bypass (x : Side) : Side := if 0x40 ≤ x.ir.toNat ∧ x.ir.toNat < 0x80 then { x with ir := 0xFF } else x

/-! ### Queue and event controls (R291, R331, R336) -/

/-- A write of CMDQ_CTRL_q. A queue that stops resets its pointers once its running command has replied. -/
def ringCtrlWrite (q : Nat) (v : Reg) (s : State) : State :=
  let r := ring s.mg q
  let r' : Ring := { r with ctrl := three (v &&& 0x8000007F) }
  let off := enabled (ctlOf r) && !v.getLsbD 31
  { s with mg := setRing s.mg q (if off then (if runsHeld s.mg q then { r' with stopping := true } else ringStop r') else r') }

/-- A pair with one word replaced. -/
def withLow (v : BitVec 64) (w : Reg) : BitVec 64 := highWord v ++ w
def withHigh (v : BitVec 64) (w : Reg) : BitVec 64 := w ++ lowWord v

/-- A write of a word of a queue's bases: SQ low, SQ high, RQ low, RQ high. -/
def ringBaseWrite (q word : Nat) (v : Reg) (s : State) : State :=
  let r := ring s.mg q
  if enabled (ctlOf r) then queueErr q 2 s
  else
    let r' : Ring := match word with
      | 0 => { r with sqBase := withLow r.sqBase (v &&& 0xFFFFC000) }
      | 1 => { r with sqBase := withHigh r.sqBase v }
      | 2 => { r with rqBase := withLow r.rqBase (v &&& 0xFFFFE000) }
      | _ => { r with rqBase := withHigh r.rqBase v }
    { s with mg := setRing s.mg q r' }

/-- A write of EVT_CTRL (R336). -/
def evCtrlWrite (v : Reg) (s : State) : State :=
  let x := s.mg.ev
  let old := evCtlOf x
  let new := v &&& 0x8000000F
  if enabled old && enabled new then
    if fld old 0 4 = fld new 0 4 then { s with mg := { s.mg with ev := { x with ctrl := three new } } }
    else { s with mg := { s.mg with ev := { x with err := true } } }
  else if enabled new then
    { s with mg := { s.mg with ev := { x with ctrl := three new, tail := 0, head := 0, phase := true } },
             dp := { s.dp with evLost := 0 } }
  else { s with mg := { s.mg with ev := { x with ctrl := three new } } }

/-- A write of a word of EVT_BASE. -/
def evBaseWrite (high : Bool) (v : Reg) (s : State) : State :=
  let x := s.mg.ev
  let b := if high then withHigh x.base v else withLow x.base (v &&& 0xFFFFF000)
  if enabled (evCtlOf x) && b != x.base then { s with mg := { s.mg with ev := { x with err := true } } }
  else if enabled (evCtlOf x) then s
  else { s with mg := { s.mg with ev := { x with base := b } } }

/-! ### Any register -/

/-- A write of a word of the MSI-X table. -/
def msixWrite (v w : Nat) (x : Reg) (s : State) : State :=
  let x := if w = 0 then x &&& 0xFFFFFFFC else if w = 3 then x &&& 1 else x
  let e := msixEntry s.mg v
  let e' := (e &&& ~~~((BitVec.ofNat 128 (2 ^ 32 - 1)) <<< (32 * w))) ||| (x.setWidth 128 <<< (32 * w))
  { s with mg := unmasked v (setMsix s.mg v e') }

/-- A write in the ODO block: a counter's word while it is disabled, OVF, SAT (R343, Table 14.7). -/
def odoWrite (o : Nat) (v : Reg) (p : Plane) : Plane :=
  if o < 0x2000 then
    let n := o / 8
    let c := tget {} p.counters n
    if c.enable then p
    else
      let c' : Counter := { c with value := if o % 8 = 0 then withLow c.value v else withHigh c.value v }
      { p with counters := tput {} p.counters n c' }
  else if o < 0x3000 then
    let n := (o - 0x2000) / 4
    let c := tget {} p.counters n
    if v.getLsbD 31 then { p with counters := tput {} p.counters n { c with ovf := false } } else p
  else if 0x6000 ≤ o ∧ o < 0x6100 then
    let n := (o - 0x6000) / 4
    let h := tget {} p.hists n
    if v.getLsbD 31 then { p with hists := tput {} p.hists n { h with sat := false } } else p
  else p

/-- A write of a CMDQ register. -/
def ringWrite (q o : Nat) (v : Reg) (s : State) : State :=
  match o with
  | 0x00 => ringBaseWrite q 0 v s
  | 0x04 => ringBaseWrite q 1 v s
  | 0x08 => ringBaseWrite q 2 v s
  | 0x0C => ringBaseWrite q 3 v s
  | 0x10 => ringCtrlWrite q v s
  | 0x14 => if v.getLsbD 31 then { s with mg := setRing s.mg q { ring s.mg q with err := false } } else s
  | _ => s

/-- A write of an EVT register. -/
def evWrite (o : Nat) (v : Reg) (s : State) : State :=
  match o with
  | 0x00 => evBaseWrite false v s
  | 0x04 => evBaseWrite true v s
  | 0x08 => evCtrlWrite v s
  | 0x0C => { s with mg := { s.mg with ev := { s.mg.ev with head := v.setWidth 16 } } }
  | 0x10 => if v.getLsbD 31 then { s with mg := { s.mg with ev := { s.mg.ev with err := false } } } else s
  | _ => if rwfMask (0x300000 + o) = 0 then s else stage (0x300000 + o) v s

/-- A full-word write at a word-aligned BAR0 offset (R313, R314). -/
def regWrite (a : Nat) (v : Reg) (s : State) : State :=
  let b := a / 0x100000
  if a = 0x4 then (if v.getLsbD 5 then { s with mg := { s.mg with unclean := false } } else s)
  else if a = 0x8 then devCtrlWrite v s
  else if a = 0xC then { s with mg := { s.mg with scratch := v } }
  else if 0x8000 ≤ a ∧ a < 0x8400 then msixWrite ((a - 0x8000) / 16) ((a - 0x8000) / 4 % 4) v s
  else if a = 0x100000 then fireWrite v s
  else if a = 0x100008 then { s with mg := { s.mg with fireErr := s.mg.fireErr &&& ~~~(v.setWidth 8) } }
  else if b = 2 then (if a % 0x100000 < 0x100 then ringWrite (a % 0x100000 / 0x40) (a % 0x40) v s else s)
  else if b = 3 then evWrite (a % 0x100000) v s
  else if b = 4 then (if tilesOn s then { s with dp := odoWrite (a % 0x100000) v s.dp } else s)
  else if a = 0x600000 then keyWrite v s
  else if a = 0x600004 then (if v.getLsbD 0 then { s with mg := { s.mg with dropped := false } } else s)
  else if rwfMask a = 0 then s
  else stage a v s

/-- A disagreeing copy is mended by the read or the sweep that finds it: the new copies, repairs, and splits (R226). -/
def mend {α : Type} [DecidableEq α] (v : Voted α) : Voted α × Nat × Nat :=
  if agree v then (v, 0, 0) else if splitVote v then (v, 0, 1) else (three (vote v), 1, 0)

/-- The copies of a register with one field replaced. -/
def putField (m : Reg) (f v : Voted Reg) : Voted Reg :=
  ⟨(v.a &&& ~~~m) ||| f.a, (v.b &&& ~~~m) ||| f.b, (v.c &&& ~~~m) ||| f.c⟩

/-- Each field of a register mended by itself. -/
def mendFields : List Reg → Voted Reg → Voted Reg × Nat × Nat
  | [], v => (v, 0, 0)
  | m :: ms, v =>
    let f := mend (fieldOf m v)
    let r := mendFields ms (putField m f.1 v)
    (r.1, f.2.1 + r.2.1, f.2.2 + r.2.2)

/-- Repairs counted in DIU_RV_FIX of tile T0, and an event for each split field. -/
def noteVote (a : Nat) (n splits : Nat) (s : State) : State :=
  let t := if n = 0 then s else { s with dp := { s.dp with rvFix := tput 0 s.dp.rvFix 0 (tget 0 s.dp.rvFix 0 + n) } }
  (List.range splits).foldl (fun t _ => mgEvent 12 0 (BitVec.ofNat 32 a) 0 t) t

/-- The voted fields of the register at an offset looked at. -/
def mendReg (a : Nat) (s : State) : State :=
  if a = 0x8 then
    let x := mend s.mg.dbgLock
    noteVote a x.2.1 x.2.2 { s with mg := { s.mg with dbgLock := x.1 } }
  else if a = 0x300008 then
    let x := mendFields evFields s.mg.ev.ctrl
    noteVote a x.2.1 x.2.2 { s with mg := { s.mg with ev := { s.mg.ev with ctrl := x.1 } } }
  else if 0x200000 ≤ a ∧ a < 0x200100 ∧ a % 0x40 = 0x10 then
    let q := (a - 0x200000) / 0x40
    let x := mendFields ringFields (ring s.mg q).ctrl
    noteVote a x.2.1 x.2.2 { s with mg := setRing s.mg q { ring s.mg q with ctrl := x.1 } }
  else s

/-- The offsets of the registers with voted fields. -/
def votedRegs : List Nat := [0x8, 0x200010, 0x200050, 0x200090, 0x2000D0, 0x300008]

/-- The word offset of an access. -/
def wordAt (o : BitVec 25) : Nat := o.toNat / 4 * 4

/-- LOW_WORD_READ: a register read; a pair's low word latches its high word (R312, R313, R321, R324). -/
def execLowWordRead (offset : BitVec 25) (s : State) : Host.Outcome State Fault Refusal :=
  let a := wordAt offset
  .next (if hostOn s = false then s
    else
      let v := regImage s a
      let sh := match pairHigh s a with
        | some h => tput 0 s.mg.shadows a h
        | none => s.mg.shadows
      mendReg a { s with mg := { s.mg with readData := v, shadows := sh } })

/-- REGISTER_WRITE: a write with its byte enables; with fewer than four it is ignored, with an event where a table assigns the offset
(R312 to R314). -/
def execRegisterWrite (offset : BitVec 25) (enables : BitVec 4) (value : Reg) (s : State) :
    Host.Outcome State Fault Refusal :=
  let a := wordAt offset
  .next (if hostOn s = false then s
    else if enables ≠ 15 then (if assigned a then mgEvent 9 1 (BitVec.ofNat 32 a) 0 s else s)
    else regWrite a value s)

/-- CFG_FIRE: fire groups 0 to 7 (R317 to R319). -/
def execCfgFire (value : Reg) (s : State) : Host.Outcome State Fault Refusal :=
  .next (if hostOn s then fireWrite value s else s)

/-- FIRE_APPLY: a tile or the management die applies a firing (R317). -/
def execFireApply (group : Fin 8) (unit : Fin 5) (s : State) : Host.Outcome State Fault Refusal :=
  .next (if (if unit.val = 4 then mgcOn s else tilesOn s) then applyFire group unit s else s)

/-- KEY_GATE (R322). -/
def execKeyGate (value : Reg) (s : State) : Host.Outcome State Fault Refusal :=
  .next (if hostOn s then keyWrite value s else s)

/-- DEV_CTRL (R322, R323, R328). -/
def execDevCtrl (value : Reg) (s : State) : Host.Outcome State Fault Refusal :=
  .next (if hostOn s then devCtrlWrite value s else s)

/-- CMDQ_CTRL_q (R291). -/
def execCmdqCtrl (q : Fin 4) (value : Reg) (s : State) : Host.Outcome State Fault Refusal :=
  .next (if hostOn s then ringCtrlWrite q value s else s)

/-- A word of CMDQ_SQ_BASE_q or CMDQ_RQ_BASE_q (R331). -/
def execCmdqBaseWrite (q word : Fin 4) (value : Reg) (s : State) : Host.Outcome State Fault Refusal :=
  .next (if hostOn s then ringBaseWrite q word value s else s)

/-- EVT_CTRL (R336). -/
def execEvtCtrl (value : Reg) (s : State) : Host.Outcome State Fault Refusal :=
  .next (if hostOn s then evCtrlWrite value s else s)

/-- EVT_HEAD (R336). -/
def execEvtHead (value : Reg) (s : State) : Host.Outcome State Fault Refusal :=
  .next (if hostOn s then evWrite 0x0C value s else s)

/-- SLOW_CLOCK_EDGE: every block copies its RC fields, and every voted field is swept (R226, R320). -/
def execSlowClockEdge (s : State) : Host.Outcome State Fault Refusal :=
  .next (if mgcOn s = false then s
    else
      let p : Plane := { s.dp with clock := (s.dp.clock / 2000 + 1) * 2000 }
      votedRegs.foldl (fun s a => mendReg a s) { s with dp := p, rc := { dp := p, kn := s.kn, mir := s.mir } })

end Sys2Proof.Machine
end

