-- ==== Sys2Proof/Machine/Commands.lean ====
section
/-! DEFINITION. The command interpreter: which queue a command may come from, refusals, replies, operation slots and completions
(R290, R298 to R303, R306 to R309, R416), and the device commands. -/
namespace Sys2Proof.Machine
open Sys2Proof

/-! ### Results -/

/-- What a command's body leaves: the state, and its status and RESULT; none while it waits for a busy line. -/
abbrev Ret := State × Option (BitVec 8 × BitVec 192)

/-- A RESULT from its fields: low bit counted from reply offset 0x08, width, value (Table 12.14). -/
def fields (xs : List (Nat × Nat × Nat)) : BitVec 192 :=
  xs.foldl (fun r x => r ||| (BitVec.ofNat 192 (x.2.2 % 2 ^ x.2.1) <<< x.1)) 0

/-- What ends at once on the tiles has ended. -/
def settled (s : State) : State := if s.mg.life = .run then { s with dp := wake (tidy s.dp) } else s

/-- The command waits. -/
def waits (h : HeldCmd) (s : State) : Ret := ({ s with mg := { s.mg with held := some h } }, none)
/-- A refusal changes nothing (R299). -/
def deny (status : BitVec 8) (s : State) : Ret := (s, some (status, 0))
/-- Done, with a RESULT. -/
def okay (result : BitVec 192) (s : State) : Ret := (settled s, some (sOk, result))

/-- Operation slots held by commands (R303). -/
def slotsHeld (p : Plane) : Nat := (p.ops.filter fun o => decide (o.queue ≤ 4)).length

/-- A long operation accepted: it takes an operation slot, and `f` is what it does at once (R302). -/
def acceptOp (h : Hdr) (opcode : Nat) (w : Work) (f : State → State) (s : State) : Ret :=
  let t := { s with dp := newOp h.queue h.seq (BitVec.ofNat 16 opcode) w s.dp }
  (settled (f t), some (sAccepted, 0))

/-- A long operation accepted, if a slot is free (R302, R303). -/
def startOp (h : Hdr) (opcode : Nat) (w : Work) (f : State → State) (s : State) : Ret :=
  if 64 ≤ slotsHeld s.dp then deny sNoResource s else acceptOp h opcode w f s

/-- Some operation of a kind runs. -/
def running (p : Plane) (f : Work → Bool) : Bool := p.ops.any fun o => o.ended.isNone && f o.work

/-- A change of the data plane alone. -/
def onDp (f : Plane → Plane) (s : State) : State := { s with dp := f s.dp }

/-! ### The line of a command (R93, R142, R355) -/

/-- A command's internal operation holds its line. -/
def holdsLine (p : Plane) (id : Nat) : Bool := match job? p id with
  | some j => j.phase == .running && !j.done
  | none => false

/-- A command's internal operation leaves its line, or its place in the line's conflict queue. -/
def leaveLine (id : Nat) (p : Plane) : Plane := if holdsLine p id then finish id p else dropJob p id

/-! ### Completions (R302, R303, R305) -/

/-- COMPLETION_RESULT of an operation (Table 12.14). -/
def opResult (o : LongOp) : BitVec 128 :=
  let three := BitVec.ofNat 128 (o.a % 2 ^ 32 + o.b % 2 ^ 32 * 2 ^ 32 + o.c % 2 ^ 32 * 2 ^ 64)
  match o.work with
  | .clean _ _ | .cleanAll | .inval _ _ _ | .clinv _ _ | .wayLock _ _ | .instReset _ | .destroy _ => three
  | .disable | .retire _ _ _ | .plan | .approve _ => BitVec.ofNat 128 (o.a % 2 ^ 32)
  | .pin _ _ _ _ | .range _ _ => BitVec.ofNat 128 (o.a % 2 ^ 32 + o.b % 2 ^ 32 * 2 ^ 32)
  | .train _ _ | .snapshot _ _ _ _ => BitVec.ofNat 128 (o.a % 2 ^ 64)
  | _ => 0

/-- An operation leaves the table. -/
def dropOp (id : Nat) (p : Plane) : Plane := { p with ops := p.ops.filter fun o => !(o.id == id) }

/-- The completion record of an operation of the SPI port (R305). -/
def portRecord (o : LongOp) (st : BitVec 8) (s : State) : State :=
  if o.queue = 4 then
    let w := replyImage o.opcode st (Config.spiPhase s.dp.draw) 4 o.seq ((opResult o).setWidth 192)
    { s with mg := { s.mg with spi := spiRecord w s.mg.spi }, dp := draw1 s.dp }
  else s

/-- A completion of the operation writes an event: not that of the SPI port while no ring is enabled, nor of the module's own. -/
def writesEvent (o : LongOp) (s : State) : Bool :=
  decide (o.queue < 4) || (o.queue == 4 && enabled (evCtlOf s.mg.ev))

/-- The completion of an ended operation: an event, for the SPI port a record as well, or nothing for an operation of the
module's own. -/
def sendDone (id : Nat) (s : State) : State :=
  match op? s.dp id with
  | none => s
  | some o => match o.ended with
    | none => s
    | some st =>
      if o.queued then s
      else if writesEvent o s then
        onDp (fun p => setOp (raiseCompl o o.id st (opResult o) p) { o with queued := true }) (portRecord o st s)
      else onDp (dropOp id) (portRecord o st s)

/-- The completion of one step of an operation that goes on (R268). -/
def sendStep (o : LongOp) (st : BitVec 8) (s : State) : State :=
  if writesEvent o s then onDp (raiseCompl o 0 st (opResult o)) (portRecord o st s) else portRecord o st s

/-- Operations of a kind end with a status, and their completions go out at once. -/
def endNow (f : Work → Bool) (status : BitVec 8) (s : State) : State :=
  let ids := (s.dp.ops.filter fun o => o.ended.isNone && f o.work).map (·.id)
  ids.foldl (fun s id => sendDone id (onDp (endOp id status) s)) s

/-! ### The interpreter -/

/-- A command: opcode, the queues that may give it (bit q of `queues`), whether it is keyed, whether the recovery service
takes it, whether the debug lock denies it from every queue, and what it does (Table 12.7, R354, R416). -/
structure Command where
  opcode  : Nat
  queues  : Nat := 15
  keyed   : Bool := false
  recover : Bool := false
  noLock  : Bool := false
  body    : Hdr → State → Ret

/-- Q0 and Q1; Q0 to Q2; Q0; Q0 and Q3. -/
def q01 : Nat := 3
def q012 : Nat := 7
def q0 : Nat := 1
def q03 : Nat := 9

/-- The refusal that stands before the command's own: DENIED, or BAD_STATE in the recovery service. -/
def gate (h : Hdr) (c : Command) (s : State) : Option (BitVec 8) :=
  let q := if h.queue = 4 then 0 else h.queue.val
  if (q = 3 ∧ locked s) ∨ (s.mg.life = .recovery ∧ q ≠ 0) ∨ c.queues.testBit q = false ∨
      (c.keyed ∧ h.key ≠ 0xB7E5) ∨ (c.noLock ∧ locked s) then some sDenied
  else if s.mg.life = .recovery ∧ c.recover = false then some sBadState
  else none

/-- A command carried out. -/
def perform' (h : Hdr) (c : Command) (s : State) : Ret :=
  match gate h c s with
  | some st => deny st s
  | none => c.body h s

/-- Its reply, unless it waits. -/
def conclude (h : Hdr) (opcode : Nat) (r : Ret) : State :=
  match r.2 with
  | none => r.1
  | some (st, res) => replyTo h.queue h.replyOk (BitVec.ofNat 16 opcode) st h.seq res r.1

/-- The interpreter may start a command (R16, R300, R301, R304, R408). -/
def mayStart (s : State) : Bool :=
  mgcOn s && (s.mg.ready || s.mg.life == .recovery) && !s.mg.warm && !s.mg.procStop && s.mg.held.isNone

/-- A queue has a free reply slot (R294). -/
def replyRoom (r : Ring) : Bool := r.rqTail + 1 != r.rqHead

/-- A queue is ready: it holds an unstarted command and has a free reply slot (R300). -/
def queueReady (s : State) (q : Nat) : Bool :=
  if q = 4 then s.mg.spi.cmd.isSome && s.mg.spi.reply.isNone
  else
    let r := ring s.mg q
    hostOn s && enabled (ctlOf r) && r.sqHead != r.sqTail && replyRoom r

/-- The queue whose turn it is: the running round goes on from a queue, and a new round begins at Q0 (R300). -/
def turnOf (ready : Nat → Bool) (round : Nat) : Option Nat :=
  match (List.range 5).find? fun q => decide (round ≤ q) && ready q with
  | some q => some q
  | none => (List.range 5).find? ready

/-- A command row from a queue is taken as the next packet of that queue: the queue runs, holds no other packet, has room for
the reply, and it is its turn; on the SPI port no command is pending and no reply unread. -/
def rowReady (h : Hdr) (s : State) : Bool :=
  mayStart s && (turnOf (fun q => q == h.queue.val || queueReady s q) s.mg.round == some h.queue.val) &&
    (if h.queue = 4 then !(spiBusy s.mg) && s.mg.spi.reply.isNone
     else
      let r := ring s.mg h.queue
      hostOn s && enabled (ctlOf r) && r.sqHead == r.sqTail && replyRoom r)

/-- The packet of a command row enters its submission ring, and the round goes on. -/
def enterRow (h : Hdr) (s : State) : State :=
  let m := { s.mg with round := (h.queue.val + 1) % 5 }
  if h.queue = 4 then { s with mg := { m with spi := { m.spi with cmdNew := true } } }
  else { s with mg := setRing m h.queue { ring m h.queue with sqTail := (ring m h.queue).sqTail + 1 } }

/-- A command row: the packet is fetched, started and answered. -/
def direct (h : Hdr) (c : Command) (s : State) : State :=
  if h.queue = 4 ∧ mgcOn s ∧ (spiBusy s.mg ∨ s.mg.spi.reply.isSome) then
    { s with mg := { s.mg with spi := { s.mg.spi with discarded := true } } }
  else if rowReady h s then conclude h c.opcode (perform' h c (enterRow h s))
  else s

/-! ### Device commands -/

/-- The slot of an image. -/
def slotOf (m : Mgmt) (n : Nat) : FwSlot := if n = 0 then m.slotA else m.slotB
def setSlot (m : Mgmt) (n : Nat) (x : FwSlot) : Mgmt := if n = 0 then { m with slotA := x } else { m with slotB := x }

/-- VERSION of the running image; 0 in the recovery service. -/
def fwVersion (s : State) : Nat := if s.mg.life = .recovery then 0 else (slotOf s.mg s.mg.running).version.toNat

/-- DEV_INFO (Table 12.14). -/
def cmdDevInfo : Command where
  opcode := 0x0101
  recover := true
  body := fun _ s => okay (fields [(0, 16, 0x1640), (16, 8, bit (s.dp.variant == .ms)), (24, 8, s.mg.hwRev.toNat), (32, 8, 1),
    (40, 8, 1), (64, 32, fwVersion s)]) s

/-- Ports and links that are ACTIVE. -/
def portsActive (p : Plane) : Nat := ((List.range 32).map fun i => bit ((port p i).state == .active) * 2 ^ i).sum
def linksActive (p : Plane) : Nat := ((List.range 16).map fun j => bit ((link p j).state == .active) * 2 ^ j).sum

/-- DEV_STATUS (R423, Table 12.14). -/
def cmdDevStatus : Command where
  opcode := 0x0102
  recover := true
  body := fun _ s =>
    let rec_ := s.mg.life == .recovery
    okay (fields [(0, 2, if rec_ then 0 else s.mg.power), (2, 1, bit s.mg.unclean), (3, 1, bit s.dp.cache.enabled),
      (4, 1, bit (locked s)), (32, 32, if rec_ then 0 else portsActive s.dp), (64, 16, if rec_ then 0 else linksActive s.dp),
      (80, 16, (tjMaxOf s.kn).toNat), (128, 64, s.dp.epoch)]) s

/-- What keeps a function from being switched (Table 12.15). -/
def modeBusy (f : Nat) (s : State) : Bool :=
  match f with
  | 1 => !s.dp.rowCopies.isEmpty
  | 2 => running s.dp fun w => match w with
      | .retire _ _ _ => true
      | _ => false
  | 5 => !s.kn.applying.isEmpty
  | 7 => running s.dp fun w => w == .disable
  | 8 => s.dp.insts.any fun x => x.2.state == .resetting || x.2.state == .destroying
  | 9 => decide (1 ≤ s.dp.dw.leaveDone ∧ s.dp.dw.leaveDone ≤ 3) || s.dp.dw.leaving
  | _ => false

/-- Every way of a kind, with its corrected words. -/
def waysWith (f : Slice → Nat → Bool) (p : Plane) : List (Nat × Nat × Nat) :=
  p.slices.flatMap fun x => ((List.range 24).filter (f x.2)).map fun w => (x.1, w, tget 0 x.2.wayCe w)

/-- Ways acted on at their threshold, none of them waiting any longer. -/
def actWays (l : List (Nat × Nat × Nat)) (p : Plane) : Plane :=
  l.foldl (fun q x => wayAtThreshold x.1 x.2.1 x.2.2
    (setSlice q x.1 { slice q x.1 with waits := (slice q x.1).waits &&& ~~~(BitVec.ofNat 24 (2 ^ x.2.1)) })) p

/-- The ways whose retirement waits for a CACHE_DISABLE acted on, as the mode of FM_WAY_RETIRE has it (R303, R311). -/
def retryWaits (p : Plane) : Plane := actWays (waysWith (fun x w => x.waits.getLsbD w) p) p

/-- Every standing condition of R238 acted on, of ways that may still allocate. -/
def retryWays (p : Plane) : Plane :=
  actWays ((waysWith (fun x w => x.bad.getLsbD w || x.waits.getLsbD w) p ++
    (waysWith (fun _ _ => true) p).filter fun x => !(slice p x.1).bad.getLsbD x.2.1 && !(slice p x.1).waits.getLsbD x.2.1 &&
      decide (clampF (fld (rg p (aDiuCfg (x.1 / 16))) 24 8) 255 ≤ x.2.2)).filter fun x => !noAlloc p x.1 x.2.1) p

/-- Corrected lines of a channel in the last second reach EVAC_THR (R207). -/
def standingEvac (p : Plane) (ch : Nat) : Bool :=
  decide (max 1 (fld (rg p (aDmcEvac (ch / 16))) 0 16) ≤
    ((chan p ch).recent.filter fun t => decide (p.clock < t + 2000000000)).length)

/-- The pending rows of R235 as host-assisted mode reports them. -/
def reportRows (p : Plane) : Plane :=
  p.chans.foldl (fun q x => x.2.tracker.foldl (fun q r =>
    if r.pending then raise (tileSrc (x.1 / 16) (34 + x.1 % 16)) 2 (bankRow r.bank r.row) 0 q else q) q) p

/-- The due retrains of R201 as host-assisted mode reports them. -/
def reportRetrains (p : Plane) : Plane :=
  (List.range 64).foldl (fun q ch =>
    let c := chan q ch
    if c.due && !c.forced && c.state == .normal && !c.sc1Due then
      raise (tileSrc (ch / 16) (18 + ch % 16)) 2 0 0 (setChan q ch { c with due := false, deferred := false })
    else q) p

/-- A threshold of R55 stands on a link: 8 RETRY_REQs that name one number, or 16 uncorrectable codewords exceeded. -/
def retryStands (r : Retry) : Bool := decide (8 ≤ r.rxReqs ∨ 8 ≤ r.txReqs ∨ 16 < r.badCw)

/-- The ports and links at a threshold of R55 retrain. -/
def retrainStanding (p : Plane) : Plane :=
  let q := (List.range 32).foldl (fun q i => if retryStands (port q i).retry then retrainPort i q else q) p
  (List.range 16).foldl (fun q j => if retryStands (link q j).retry then retrainLink j q else q) q

/-- FM_THERMAL switched to host-assisted mode: an island that waits for the boundary to throttle it is reported, and every throttle in
force ends (R311, R394). -/
def releaseThrottles (k : Kiln) (p : Plane) : Kiln × Plane :=
  (List.range 128).foldl (fun (a : Kiln × Plane) i =>
    let x := island a.1 i
    let q := if x.hard then throttleEvent i 4 a.1 a.2 else a.2
    let q := if x.soft < 2400 then throttleEvent i 2 a.1 q
      else if x.hard = false ∧ 380 ≤ islandTemp a.1 i then throttleEvent i 1 a.1 q else q
    (retune i (setIsland a.1 i { x with soft := 2400, hard := false }), q)) (k, p)

/-- What a switch does in its own cycle to conditions that wait or stand (R311). -/
def switchMode (f : Nat) (host : Bool) (s : State) : State :=
  match f, host with
  | 1, true => onDp reportRows s
  | 2, true => onDp retryWaits s
  | 2, false => onDp retryWays s
  | 3, true => onDp reportRetrains s
  | 3, false => onDp (fun p => (List.range 64).foldl (fun q ch =>
      becomeDue ch q) p) s
  | 4, false => onDp retrainStanding s
  | 5, false => match s.kn.pend with
    | some pl => { s with kn := { s.kn with pend := none, applying := s.kn.applying ++ [pl] } }
    | none => s
  | 6, true => let x := releaseThrottles s.kn s.dp; { s with kn := x.1, dp := x.2 }
  | 6, false => let x := sampleAll s.kn s.dp; { s with kn := x.1, dp := x.2 }
  | 10, false => onDp (fun p => (List.range 64).foldl (fun q ch => if standingEvac q ch then evacTrigger ch q else q) p) s
  | _, _ => s

/-- FUNC_MODE_SET (R310, R311). -/
def cmdFuncModeSet (func : Byte) (mode : Bool) : Command where
  opcode := 0x0120
  queues := q01
  body := fun _ s =>
    let f := func.toNat
    if 11 < f then deny sBadParam s
    else if modeBusy f s then deny sBadState s
    else if hostMode s.dp f = mode then okay 0 s
    else
      let m : BitVec 12 := BitVec.ofNat 12 (2 ^ f)
      okay 0 (switchMode f mode (onDp (fun p => { p with modes := if mode then p.modes ||| m else p.modes &&& ~~~m }) s))

/-- FUNC_MODE_GET (Table 12.14). -/
def cmdFuncModeGet : Command where
  opcode := 0x0121
  body := fun _ s => okay (s.dp.modes.setWidth 192) s

/-- The instance exists. A DESTROYING instance still does, until its destroy has ended: the rules that refuse an instance that does not
exist (R31, R38) do not say (log 97). -/
def existsInst (p : Plane) (i : Nat) : Bool := decide (i < 128) && (inst p i).state != .free

/-- The acknowledge policies that a class allows (Table 02.2). -/
def ackAllowed (cls ack : BitVec 2) : Bool := if cls = 3 then ack == 1 || ack == 2 else ack == 0 || ack == 1

/-- The entry breaks R31. A TARGET names no port above 31, because its field has five bits. -/
def regionBad (r : Region) : Bool :=
  decide (r.limit < r.base) || !(ackAllowed r.cls r.ack) || (r.meter && r.cls != 0) || (r.cls != 3 && r.target != 0)

/-- REGION_SET (R30 to R32). -/
def cmdRegionSet (index : Byte) (entry : BitVec 128) : Command where
  opcode := 0x0140
  queues := q01
  body := fun _ s =>
    let r := decodeRegion entry
    if regionBad r then deny sBadParam s
    else if existsInst s.dp r.owner.toNat = false then deny sBadState s
    else okay 0 (onDp (fun p => { p with regions := tset p.regions index.toNat r }) s)

/-- REGION_GET (R30). -/
def cmdRegionGet (index : Byte) : Command where
  opcode := 0x0141
  body := fun _ s => okay (match tfind s.dp.regions index.toNat with
    | some r => (encodeRegion r).setWidth 192
    | none => 0) s

/-! ### Rows -/

/-- DEV_INFO (R309). -/
def execDevInfo (h : Hdr) (s : State) : Host.Outcome State Fault Refusal := .next (direct h cmdDevInfo s)
/-- DEV_STATUS (R423). -/
def execDevStatus (h : Hdr) (s : State) : Host.Outcome State Fault Refusal := .next (direct h cmdDevStatus s)
/-- FUNC_MODE_SET (R310). -/
def execFuncModeSet (h : Hdr) (func : Byte) (mode : Bool) (s : State) : Host.Outcome State Fault Refusal :=
  .next (direct h (cmdFuncModeSet func mode) s)
/-- FUNC_MODE_GET (R310). -/
def execFuncModeGet (h : Hdr) (s : State) : Host.Outcome State Fault Refusal := .next (direct h cmdFuncModeGet s)
/-- REGION_SET (R31). -/
def execRegionSet (h : Hdr) (index : Byte) (entry : BitVec 128) (s : State) : Host.Outcome State Fault Refusal :=
  .next (direct h (cmdRegionSet index entry) s)
/-- REGION_GET (R30). -/
def execRegionGet (h : Hdr) (index : Byte) (s : State) : Host.Outcome State Fault Refusal :=
  .next (direct h (cmdRegionGet index) s)

end Sys2Proof.Machine
end

