-- ==== Sys2Proof/Machine/KilnCommands.lean ====
section
/-! DEFINITION. Kiln commands: plans, the ledger, caps and domains (R390, R395, R401, R403). -/
namespace Sys2Proof.Machine
open Sys2Proof

/-- Powered hours now. -/
def hoursNow (s : State) : Nat := hoursOf s.mg.hours s.dp

/-- A change of the Kiln and the data plane. -/
def onKiln (f : Kiln × Plane → Kiln × Plane) (s : State) : State := let x := f (s.kn, s.dp); { s with kn := x.1, dp := x.2 }

/-- MARGIN_REPLAN (R400, R401). -/
def cmdMarginReplan (op : Byte) (planId : BitVec 32) (islands : BitVec 128) : Command where
  opcode := 0x0701
  queues := q012
  body := fun h s =>
    let id := s.dp.nextOp
    if 2 < op.toNat then deny sBadParam s
    else if op = 0 then
      startOp h 0x0701 .plan (fun t => { t with kn := { t.kn with asked := t.kn.asked ++ [(islands, some id)] } }) s
    else match s.kn.pend with
      | none => deny sBadState s
      | some pl =>
        if pl.id ≠ planId then deny sBadState s
        else if op = 1 then
          startOp h 0x0701 (.approve planId) (fun t =>
            { t with kn := { t.kn with pend := none, applying := t.kn.applying ++ [{ pl with op := some id }] } }) s
        else startOp h 0x0701 (.approve planId) (fun t =>
          sendDone id (onDp (endPlanOp (some id) sOk planId) (onKiln (dropPlan sOk pl (hoursNow t)) t))) s

/-- MARGIN_LEDGER_READ (R403). -/
def cmdMarginLedgerRead (index : BitVec 16) : Command where
  opcode := 0x0702
  body := fun _ s => if 4095 < index.toNat then deny sBadParam s else okay (tget 0 s.kn.ledger index.toNat) s

/-- FREQ_CAP and POWER_CAP are ones that R395 allows. -/
def freqOk (f : Nat) : Bool := f == 0 || (f % 25 == 0 && decide (1600 ≤ f ∧ f ≤ 2400))
def powerOk (w : Nat) : Bool := w == 0 || decide (100 ≤ w ∧ w ≤ 600)

/-- THERMAL_CFG (R395). -/
def cmdThermalCfg (isl : Byte) (freqCap powerCap : BitVec 16) : Command where
  opcode := 0x0703
  queues := q012
  body := fun _ s =>
    let f := freqCap.toNat
    if (127 < isl.toNat ∧ isl ≠ 255) ∨ freqOk f = false ∨ powerOk powerCap.toNat = false then deny sBadParam s
    else
      let is := if isl = 255 then List.range 128 else [isl.toNat]
      okay 0 { s with kn := { s.kn with nextCap := is.foldl (fun t i => tset t i f) s.kn.nextCap,
                                        nextPow := some powerCap.toNat } }

/-- Every port and link of a domain is DOWN, DETACHED or FAILED. -/
def domainIdle (p : Plane) (d : Nat) : Bool :=
  (domainPorts d).all (fun i => (port p i).state == .down || (port p i).state == .detached) &&
    (domainLinks d).all fun j => (link p j).state == .down || (link p j).state == .failed

/-- The ports and links of a domain DOWN until they are trained. -/
def domainDown (d : Nat) (p : Plane) : Plane :=
  let q := (domainPorts d).foldl (fun q i => setPort q i { port q i with state := .down, step := 0, width := 0 }) p
  (domainLinks d).foldl (fun q j => setLink q j { link q j with state := .down, step := 0, width := 0 }) q

/-- DOMAIN_POWER (R390). -/
def cmdDomainPower (domain : Byte) (on : Bool) : Command where
  opcode := 0x0704
  queues := q01
  keyed := true
  body := fun h s =>
    let d := domain.toNat
    let m : BitVec 64 := BitVec.ofNat 64 (2 ^ d)
    if isPorts d = false ∧ isJoin d = false then deny sBadParam s
    else if on = false ∧ domainIdle s.dp d = false then deny sBadState s
    else startOp h 0x0704 (.domain d on) (fun t =>
      let off := if on then t.kn.domOff &&& ~~~m else t.kn.domOff ||| m
      mgEvent 36 (if on then 1 else 2) (BitVec.ofNat 32 d) 0
        { t with kn := { t.kn with domOff := off }, dp := if on then t.dp else domainDown d t.dp }) s

/-! ### Rows -/

/-- MARGIN_REPLAN (R401). -/
def execMarginReplan (h : Hdr) (op : Byte) (planId : BitVec 32) (islands : BitVec 128) (s : State) :
    Host.Outcome State Fault Refusal :=
  .next (direct h (cmdMarginReplan op planId islands) s)
/-- MARGIN_LEDGER_READ (R403). -/
def execMarginLedgerRead (h : Hdr) (index : BitVec 16) (s : State) : Host.Outcome State Fault Refusal :=
  .next (direct h (cmdMarginLedgerRead index) s)
/-- THERMAL_CFG (R395). -/
def execThermalCfg (h : Hdr) (isl : Byte) (freqCap powerCap : BitVec 16) (s : State) : Host.Outcome State Fault Refusal :=
  .next (direct h (cmdThermalCfg isl freqCap powerCap) s)
/-- DOMAIN_POWER (R390). -/
def execDomainPower (h : Hdr) (domain : Byte) (on : Bool) (s : State) : Host.Outcome State Fault Refusal :=
  .next (direct h (cmdDomainPower domain on) s)

end Sys2Proof.Machine
end

