-- ==== Sys2Proof/Machine/CacheCommands.lean ====
section
/-! DEFINITION. Cache commands: enable and disable, maintenance, way locks, pinning, way retirement and replay descriptors (R131 to
R135, R138 to R150, R303). -/
namespace Sys2Proof.Machine
open Sys2Proof

/-! ### Conflicts and ranges -/

/-- A walk of a range, of all lines, of a lock, a pin or a way runs (R303). -/
def maintRuns (p : Plane) : Bool := running p fun w => match w with
  | .clean _ _ | .cleanAll | .inval _ _ _ | .clinv _ _ | .wayLock _ _ | .pin _ _ _ _ | .retire _ _ _ => true
  | _ => false
/-- A CACHE_DISABLE runs. -/
def disableRuns (p : Plane) : Bool := running p fun w => w == .disable

/-- A range of lines is ill-formed or leaves this node (R141, R308). -/
def rangeBad (p : Plane) (base : Spa) (lines : BitVec 34) : Bool :=
  base.extractLsb' 0 6 != 0 || lines == 0 || decide (2 ^ 33 < lines.toNat) || spaNode base != p.dw.node ||
    decide (2 ^ 33 < spaLine base + lines.toNat)

/-- The cursor of an operation put past everything it could act on. -/
def skipAll (id : Nat) (p : Plane) : Plane :=
  { p with ops := p.ops.map fun (o : LongOp) => if o.id == id then { o with cursor := 2 ^ 64 } else o }

/-- Lines of the cache that are dirty. -/
def dirtyLines (p : Plane) : Nat := (p.ways.filter fun x => x.2.dirty).length

/-- A walk of lines accepted; on a disabled cache it acts on none (R141). -/
def startWalk (h : Hdr) (opcode : Nat) (w : Work) (s : State) : Ret :=
  startOp h opcode w (fun t => if s.dp.cache.enabled then t else onDp (skipAll s.dp.nextOp) t) s

/-! ### Enable, disable, invalidate (R143 to R147) -/

/-- CACHE_ENABLE. -/
def cmdCacheEnable : Command where
  opcode := 0x0201
  queues := q01
  body := fun _ s =>
    let c := s.dp.cache
    if maintRuns s.dp ∨ disableRuns s.dp then deny sBadState s
    else if c.enabled then okay 0 s
    else if c.invDone = false then deny sNeedsInvalidate s
    else okay 0 (onDp (fun p => { p with cache := { c with enabled := true } }) s)

/-- The cache disabled, with INV_DONE cleared. -/
def disabled (p : Plane) : Plane :=
  { p with cache := { p.cache with enabled := false, invDone := false, wtAll := false } }

/-- CACHE_DISABLE. -/
def cmdCacheDisable : Command where
  opcode := 0x0202
  queues := q01
  body := fun h s =>
    if maintRuns s.dp ∨ disableRuns s.dp then deny sBadState s
    else if s.dp.cache.enabled = false then okay 0 s
    else if hostMode s.dp fmCache then
      (if dirtyLines s.dp = 0 then okay 0 (onDp disabled s)
       else (s, some (sDirtyPresent, fields [(0, 32, dirtyLines s.dp)])))
    else startOp h 0x0202 .disable (onDp fun p => { p with cache := { p.cache with wtAll := true } }) s

/-- CACHE_INVALIDATE_ALL. -/
def cmdCacheInvalidateAll : Command where
  opcode := 0x0203
  queues := q01
  body := fun _ s =>
    if s.dp.cache.enabled ∨ maintRuns s.dp ∨ disableRuns s.dp then deny sBadState s
    else okay 0 (onDp (fun p => { p with
      ways := [], sramFlips := [], staleTags := [], cache := { p.cache with invDone := true, known := true } }) s)

/-! ### Maintenance (R139 to R142) -/

/-- CACHE_CLEAN_ALL. -/
def cmdCacheCleanAll : Command where
  opcode := 0x0204
  queues := q012
  body := fun h s => if disableRuns s.dp then deny sBadState s else startWalk h 0x0204 .cleanAll s

/-- A range command. -/
def cmdRange (opcode : Nat) (w : Nat → Nat → Work) (base : Spa) (lines : BitVec 34) : Command where
  opcode := opcode
  queues := q012
  body := fun h s =>
    if rangeBad s.dp base lines then deny sBadParam s
    else if disableRuns s.dp then deny sBadState s
    else startWalk h opcode (w (spaLine base) lines.toNat) s

/-- CACHE_CLEAN_RANGE, CACHE_INVAL_RANGE, CACHE_CLINV_RANGE. -/
def cmdCleanRange (base : Spa) (lines : BitVec 34) : Command := cmdRange 0x0210 (fun b n => .clean b n) base lines
def cmdInvalRange (lockedOk : Bool) (base : Spa) (lines : BitVec 34) : Command :=
  cmdRange 0x0211 (fun b n => .inval b n lockedOk) base lines
def cmdClinvRange (base : Spa) (lines : BitVec 34) : Command := cmdRange 0x0212 (fun b n => .clinv b n) base lines

/-- The line in a named way that CLEAN, INVAL and CLINV act on: none in an invalid or retired way, nor while the cache is disabled
(R140, R142). -/
def setwayLine (p : Plane) (n set way : Nat) : Option Nat :=
  if p.cache.enabled = false ∨ isRetired p n way then none
  else (tfind p.ways (wayKey n set way)).map fun l => wayLineNo n set l

/-- CLEAN, INVAL or CLINV of one way, whose line the internal operation `job` holds (R140, R142): the state, status and RESULT. -/
def setwayAct (job n set way op : Nat) (lockedOk : Bool) (s : State) : Ret :=
  let r := maintain (some job) op lockedOk (wayKey n set way) (readTag n set way s.dp)
  let act := r.2.1 + 2 * r.2.2.1 + 4 * r.2.2.2
  (settled { s with dp := finish job r.1 }, some (if r.2.2.2 = 0 then sOk else sPartial, fields [(64, 3, act)]))

/-- CLEAN, INVAL or CLINV begins: it acts once it holds the line in the way. -/
def setwayTry (h : HeldCmd) (n set way op : Nat) (lockedOk : Bool) (s : State) : Ret :=
  match setwayLine s.dp n set way with
  | none => okay 0 { s with mg := { s.mg with held := none } }
  | some line =>
    let id := s.dp.nextJob
    let t := onDp (reachIntern .command line 0) s
    if holdsLine t.dp id then setwayAct id n set way op lockedOk t else waits { h with job := id } t

/-- The entry that READ_TAG returns, as it stands: undefined before a CACHE_INVALIDATE_ALL (R142); of an invalid way, what its last line
left. -/
def tagRead (p : Plane) (n set way : Nat) : BitVec 40 :=
  if p.cache.known = false then Config.freeTag p.draw
  else match tfind p.ways (wayKey n set way) with
    | some l => encodeTag l
    | none => tget 0 p.staleTags (wayKey n set way)

/-- CACHE_SETWAY_OP. -/
def cmdSetway (tile slice : Byte) (set : BitVec 16) (way op : Byte) (lockedOk : Bool) : Command where
  opcode := 0x0218
  queues := if op = 3 then 15 else q012
  body := fun h s =>
    let n := 16 * tile.toNat + slice.toNat
    if 3 < tile.toNat ∨ 15 < slice.toNat ∨ 4095 < set.toNat ∨ 23 < way.toNat ∨ 3 < op.toNat then deny sBadParam s
    else if op = 3 then
      let state := bit (lockOwner s.dp n way.toNat).isSome + 2 * bit (isRetired s.dp n way.toNat)
      let t := onDp (readTag n set.toNat way.toNat) s
      okay (fields [(0, 40, (tagRead t.dp n set.toNat way.toNat).toNat), (40, 2, state)]) (onDp draw1 t)
    else
      setwayTry { queue := h.queue, seq := h.seq, opcode := 0x0218, job := 0, replyOk := h.replyOk,
                  work := .setway n set.toNat way.toNat op.toNat lockedOk } n set.toNat way.toNat op.toNat lockedOk s

/-! ### Way locks and pins (R131 to R133) -/

/-- The slices and ways of two masks. -/
def slicesOf (m : BitVec 64) : List Nat := (List.range 64).filter fun n => m.getLsbD n
def waysOf (m : BitVec 24) : List Nat := (List.range 24).filter fun w => m.getLsbD w

/-- The ways of the masks locked to an instance. -/
def lockWays (i : Nat) (slices : BitVec 64) (ways : BitVec 24) (p : Plane) : Plane :=
  (slicesOf slices).foldl (fun q n =>
    setSlice q n { slice q n with locks := (waysOf ways).foldl (fun t w => tset t w i) (slice q n).locks }) p

/-- A named way cannot be locked to the instance. -/
def lockBad (p : Plane) (i : Nat) (slices : BitVec 64) (ways : BitVec 24) : Bool :=
  (slicesOf slices).any fun n => (waysOf ways).any fun w =>
    noAlloc p n w || match lockOwner p n w with
      | none => false
      | some o => o != i

/-- A named slice would have more than 16 locked ways. -/
def lockFull (p : Plane) (slices : BitVec 64) (ways : BitVec 24) : Bool :=
  (slicesOf slices).any fun n => decide (16 < countBits (lockMask (slice p n) ||| ways) 24)

/-- The named ways of each slice that are not locked yet: those a lock's walk examines, since ways already locked to the instance are
left as they are (R131). -/
def freshWays (slices : BitVec 64) (ways : BitVec 24) (p : Plane) : Table (BitVec 24) :=
  (slicesOf slices).foldl (fun t n => tput 0 t n (ways &&& ~~~(lockMask (slice p n)))) []

/-- WAY_LOCK. -/
def cmdWayLock (instn : Byte) (ways : BitVec 24) (slices : BitVec 64) : Command where
  opcode := 0x0220
  queues := q01
  body := fun h s =>
    let i := instn.toNat
    if 127 < i ∨ ways = 0 ∨ slices = 0 ∨ lockBad s.dp i slices ways then deny sBadParam s
    else if existsInst s.dp i = false ∨ disableRuns s.dp then deny sBadState s
    else if lockFull s.dp slices ways then deny sNoResource s
    else startOp h 0x0220 (.wayLock i (freshWays slices ways s.dp)) (fun t =>
      let t := onDp (lockWays i slices ways) t
      if s.dp.cache.enabled then t else onDp (skipAll s.dp.nextOp) t) s

/-- WAY_UNLOCK. -/
def cmdWayUnlock (instn : Byte) (ways : BitVec 24) (slices : BitVec 64) : Command where
  opcode := 0x0221
  queues := q01
  body := fun _ s =>
    let i := instn.toNat
    if 127 < i ∨ (slicesOf slices).any (fun n => (waysOf ways).any fun w => lockOwner s.dp n w != some i) then
      deny sBadParam s
    else okay 0 (onDp (unlockWays i slices ways) s)

/-- Every line of a stride lies on this node and in PATTERN regions of the instance; regions are whole 2 MiB blocks (R29, R133,
R135). -/
def allPattern (p : Plane) (i : Nat) (start : Spa) (count stride : Nat) : Bool :=
  let l0 := spaLine start
  let last := l0 + (count - 1) * stride
  spaNode start == p.dw.node && decide (last < 2 ^ 33) &&
    (if stride ≤ 32768 then
      (List.range (last / 32768 - l0 / 32768 + 1)).all fun b => inPattern p i (homeSpa p ((l0 / 32768 + b) * 32768))
     else (List.range count).all fun k => inPattern p i (homeSpa p (l0 + k * stride)))

/-- LINE_PIN. -/
def cmdLinePin (instn : Byte) (unpin : Bool) (lines : BitVec 32) (base : Spa) : Command where
  opcode := 0x0222
  queues := q01
  body := fun h s =>
    let i := instn.toNat
    if 127 < i ∨ lines = 0 ∨ 65536 < lines.toNat ∨ base.extractLsb' 0 6 ≠ 0 ∨ allPattern s.dp i base lines.toNat 1 = false then
      deny sBadParam s
    else if existsInst s.dp i = false ∨ s.dp.cache.enabled = false ∨ disableRuns s.dp then deny sBadState s
    else startOp h 0x0222 (.pin i (spaLine base) lines.toNat unpin) id s

/-! ### Way retirement (R149, R150) -/

/-- A way returned to service. -/
def restoreWay (n w : Nat) (p : Plane) : Plane :=
  let m := ~~~(BitVec.ofNat 24 (2 ^ w))
  let x := slice p n
  if x.retired.getLsbD w then
    setSlice { p with flashWays := tput 0 p.flashWays n (tget 0 p.flashWays n &&& m) } n
      { x with retired := x.retired &&& m, bad := x.bad &&& m }
  else p

/-- A way's retirement begins: it takes no allocation. Its lock stays until it is marked retired (R149, log 98). -/
def beginRetire (n w : Nat) (p : Plane) : Plane :=
  setSlice p n { slice p n with retiring := (slice p n).retiring ||| BitVec.ofNat 24 (2 ^ w) }

/-- WAY_RETIRE. -/
def cmdWayRetire (tile slc way : Byte) (restore : Bool) : Command where
  opcode := 0x0228
  queues := if restore then q0 else q012
  keyed := restore
  body := fun h s =>
    let n := 16 * tile.toNat + slc.toNat
    let w := way.toNat
    let x := slice s.dp n
    if 3 < tile.toNat ∨ 15 < slc.toNat ∨ 23 < w then deny sBadParam s
    else if restore then okay 0 (onDp (restoreWay n w) s)
    else if x.retired.getLsbD w then okay 0 s
    else if disableRuns s.dp then deny sBadState s
    else if 8 ≤ countBits (x.retired ||| x.retiring) 24 ∧ x.retiring.getLsbD w = false then deny sNoResource s
    else startOp h 0x0228 (.retire tile.toNat slc.toNat w) (onDp (beginRetire n w)) s

/-! ### Replay descriptors (R134, R135) -/

/-- REPLAY_DESC_SET. -/
def cmdReplayDescSet (desc : Byte) (d : BitVec 256) : Command where
  opcode := 0x0230
  queues := q01
  body := fun _ s =>
    let r := decodeReplay d
    let i := r.inst.toNat
    if r.valid ∧ (r.count = 0 ∨ r.stride = 0 ∨ r.lead = 0 ∨
        allPattern s.dp i r.start r.count.toNat r.stride.toNat = false) then deny sBadParam s
    else if r.valid ∧ existsInst s.dp i = false then deny sBadState s
    else okay 0 (onDp (fun p => { p with descs := tset p.descs desc.toNat { d := r } }) s)

/-! ### Rows -/

/-- CACHE_ENABLE (R145). -/
def execCacheEnable (h : Hdr) (s : State) : Host.Outcome State Fault Refusal := .next (direct h cmdCacheEnable s)
/-- CACHE_DISABLE (R146, R147). -/
def execCacheDisable (h : Hdr) (s : State) : Host.Outcome State Fault Refusal := .next (direct h cmdCacheDisable s)
/-- CACHE_INVALIDATE_ALL (R143). -/
def execCacheInvalidateAll (h : Hdr) (s : State) : Host.Outcome State Fault Refusal :=
  .next (direct h cmdCacheInvalidateAll s)
/-- CACHE_CLEAN_ALL (R141). -/
def execCacheCleanAll (h : Hdr) (s : State) : Host.Outcome State Fault Refusal := .next (direct h cmdCacheCleanAll s)
/-- CACHE_CLEAN_RANGE (R141). -/
def execCacheCleanRange (h : Hdr) (base : Spa) (lines : BitVec 34) (s : State) : Host.Outcome State Fault Refusal :=
  .next (direct h (cmdCleanRange base lines) s)
/-- CACHE_INVAL_RANGE (R141). -/
def execCacheInvalRange (h : Hdr) (lockedOk : Bool) (base : Spa) (lines : BitVec 34) (s : State) :
    Host.Outcome State Fault Refusal :=
  .next (direct h (cmdInvalRange lockedOk base lines) s)
/-- CACHE_CLINV_RANGE (R141). -/
def execCacheClinvRange (h : Hdr) (base : Spa) (lines : BitVec 34) (s : State) : Host.Outcome State Fault Refusal :=
  .next (direct h (cmdClinvRange base lines) s)
/-- CACHE_SETWAY_OP (R142). -/
def execCacheSetwayOp (h : Hdr) (tile slice : Byte) (set : BitVec 16) (way op : Byte) (lockedOk : Bool) (s : State) :
    Host.Outcome State Fault Refusal :=
  .next (direct h (cmdSetway tile slice set way op lockedOk) s)
/-- WAY_LOCK (R131). -/
def execWayLock (h : Hdr) (instn : Byte) (ways : BitVec 24) (slices : BitVec 64) (s : State) :
    Host.Outcome State Fault Refusal :=
  .next (direct h (cmdWayLock instn ways slices) s)
/-- WAY_UNLOCK (R132). -/
def execWayUnlock (h : Hdr) (instn : Byte) (ways : BitVec 24) (slices : BitVec 64) (s : State) :
    Host.Outcome State Fault Refusal :=
  .next (direct h (cmdWayUnlock instn ways slices) s)
/-- LINE_PIN (R133). -/
def execLinePin (h : Hdr) (instn : Byte) (unpin : Bool) (lines : BitVec 32) (base : Spa) (s : State) :
    Host.Outcome State Fault Refusal :=
  .next (direct h (cmdLinePin instn unpin lines base) s)
/-- WAY_RETIRE (R149). -/
def execWayRetire (h : Hdr) (tile slice way : Byte) (restore : Bool) (s : State) : Host.Outcome State Fault Refusal :=
  .next (direct h (cmdWayRetire tile slice way restore) s)
/-- REPLAY_DESC_SET (R135). -/
def execReplayDescSet (h : Hdr) (desc : Byte) (d : BitVec 256) (s : State) : Host.Outcome State Fault Refusal :=
  .next (direct h (cmdReplayDescSet desc d) s)

end Sys2Proof.Machine
end

