-- ==== Sys2Proof/Machine/MemCommands.lean ====
section
/-! DEFINITION. Memory and integrity commands: training, evacuation, page retirement, scrubbing and counts (R204, R207, R211, R228,
R230, R231, R237). -/
namespace Sys2Proof.Machine
open Sys2Proof

/-- Channels set in a mask. -/
def chansOf (m : BitVec 64) : List Nat := (List.range 64).filter fun c => m.getLsbD c

/-- The channel is EVACUATED. -/
def evacuated (p : Plane) (ch : Nat) : Bool := evacuating p ch && (evacOf p (ch / 16)).state == 2

/-- A retrain named by MEM_TRAIN: an EVACUATED channel takes none, a DOWN one has failed (R202, R203, R210). -/
def forceRetrain (op ch : Nat) (p : Plane) : Plane :=
  let c := chan p ch
  if c.state = .down ∨ evacuated p ch then
    { p with ops := p.ops.map fun (o : LongOp) =>
        if o.id == op then { o with mask := o.mask ||| BitVec.ofNat 64 (2 ^ ch), a := o.a + (if c.state = .down then 2 ^ ch else 0) }
        else o }
  else setChan p ch { c with due := true, forced := true }

/-- MEM_TRAIN starts on its channels. -/
def beginTrain (op : Nat) (full : Bool) (m : BitVec 64) (p : Plane) : Plane :=
  if full then (chansOf m).foldl (fun q ch => setChan q ch { chan q ch with state := .training, pd := false }) p
  else
    let q := (chansOf m).foldl (fun q ch => forceRetrain op ch q) p
    [0, 1, 2, 3].foldl (fun q t => startRetrains t q) q

/-- A running MEM_TRAIN names one of the channels (R303). -/
def trainRuns (p : Plane) (m : BitVec 64) : Bool := running p fun w => match w with
  | .train k _ => k &&& m != 0
  | _ => false

/-- MEM_TRAIN (R204). -/
def cmdMemTrain (mode : Byte) (channels : BitVec 64) : Command where
  opcode := 0x0501
  queues := q012
  body := fun h s =>
    let full := decide (mode = 1)
    if channels = 0 ∨ 1 < mode.toNat then deny sBadParam s
    else if trainRuns s.dp channels ∨
        (full ∧ (chansOf channels).any fun ch => !(evacuated s.dp ch) && (chan s.dp ch).state != .down) then deny sBadState s
    else startOp h 0x0501 (.train channels full) (onDp (beginTrain s.dp.nextOp full channels)) s

/-- MEM_CHANNEL_EVACUATE (R207, R211). -/
def cmdMemChannelEvacuate (channel : Byte) (clearRecord : Bool) : Command where
  opcode := 0x0502
  queues := if clearRecord then q0 else q01
  keyed := true
  body := fun h s =>
    let ch := channel.toNat
    if 63 < ch then deny sBadParam s
    else if clearRecord then
      okay 0 (onDp (fun p => { p with flashEvac := p.flashEvac &&& ~~~(BitVec.ofNat 64 (2 ^ ch)) }) s)
    else if canEvac s.dp ch = false then deny sBadState s
    else startOp h 0x0502 (.evac ch) (onDp (startEvac ch)) s

/-- The channel, bank and row that MEM_PAGE_RETIRE names. -/
def pageNamed (mode channel bank : Byte) (row : BitVec 32) (spa : Spa) : Nat × Nat × Nat :=
  if mode = 0 then
    (16 * lineTile (spaLine spa) + lineChan (spaLine spa), bankOf (lineCl (spaLine spa)), rowOf (lineCl (spaLine spa)))
  else (channel.toNat, bank.toNat, row.toNat)

/-- MEM_PAGE_RETIRE (R237). -/
def cmdMemPageRetire (mode channel bank : Byte) (row : BitVec 32) (spa : Spa) : Command where
  opcode := 0x0503
  queues := q012
  body := fun h s =>
    let x := pageNamed mode channel bank row spa
    if 1 < mode.toNat ∨ (mode = 0 ∧ spaNode spa ≠ s.dp.dw.node) ∨
        (mode = 1 ∧ (63 < channel.toNat ∨ 15 < bank.toNat ∨ 131071 < row.toNat)) then deny sBadParam s
    else if (chan s.dp x.1).state = .down ∨ evacuating s.dp x.1 then deny sBadState s
    else if 64 ≤ tget 0 (chan s.dp x.1).spares x.2.1 then deny sNoResource s
    else startOp h 0x0503 (.pageRetire x.1 x.2.1 x.2.2) (onDp (startRowCopy x.1 x.2.1 x.2.2)) s

/-- ECC_SCRUB_CFG (R230, R231). -/
def cmdEccScrubCfg (op dramHours sramHours : Byte) (base : Spa) (lines : BitVec 34) : Command where
  opcode := 0x0601
  queues := q012
  body := fun h s =>
    let d := dramHours.toNat
    let r := sramHours.toNat
    if 1 < op.toNat ∨ (op = 0 ∧ (d = 0 ∨ 168 < d ∨ r = 0 ∨ 24 < r)) ∨ (op = 1 ∧ rangeBad s.dp base lines) then
      deny sBadParam s
    else if op = 0 then okay 0 (onDp (fun p => { p with dramHours := d, sramHours := r }) s)
    else startOp h 0x0601 (.range (spaLine base) lines.toNat) id s

/-- Corrected, uncorrectable, and what stands beside them (Table 12.14). -/
def countsOf (p : Plane) (t kind i : Nat) : Nat × Nat × Nat :=
  match kind with
  | 0 => let c := chan p (16 * t + i); (c.ce, c.ue, (diuStat c).toNat)
  | 1 => let x := slice p (16 * t + i); (x.ce, x.ue, 0)
  | _ => (tget 0 p.dirCe t, tget 0 p.dirUe t, tget 0 p.rvFix t)

/-- The counts returned set to zero (R228). -/
def zeroCounts (t kind i : Nat) (p : Plane) : Plane :=
  match kind with
  | 0 => setChan p (16 * t + i) { chan p (16 * t + i) with ce := 0, ue := 0 }
  | 1 => setSlice p (16 * t + i) { slice p (16 * t + i) with ce := 0, ue := 0 }
  | _ => { p with dirCe := tput 0 p.dirCe t 0, dirUe := tput 0 p.dirUe t 0, rvFix := tput 0 p.rvFix t 0 }

/-- ECC_COUNT_READ (R228). -/
def cmdEccCountRead (tile kind index : Byte) (clear : Bool) : Command where
  opcode := 0x0602
  queues := if clear then q012 else 15
  body := fun _ s =>
    let t := tile.toNat
    let k := kind.toNat
    let i := index.toNat
    if 3 < t ∨ 2 < k ∨ (k ≠ 2 ∧ 15 < i) then deny sBadParam s
    else
      let c := countsOf s.dp t k i
      okay (fields [(0, 32, sat 32 c.1), (32, 32, sat 32 c.2.1), (64, 32, sat 32 c.2.2)])
        (if clear then onDp (zeroCounts t k i) s else s)

/-! ### Rows -/

/-- MEM_TRAIN (R204). -/
def execMemTrain (h : Hdr) (mode : Byte) (channels : BitVec 64) (s : State) : Host.Outcome State Fault Refusal :=
  .next (direct h (cmdMemTrain mode channels) s)
/-- MEM_CHANNEL_EVACUATE (R207). -/
def execMemChannelEvacuate (h : Hdr) (channel : Byte) (clearRecord : Bool) (s : State) : Host.Outcome State Fault Refusal :=
  .next (direct h (cmdMemChannelEvacuate channel clearRecord) s)
/-- MEM_PAGE_RETIRE (R237). -/
def execMemPageRetire (h : Hdr) (mode channel bank : Byte) (row : BitVec 32) (spa : Spa) (s : State) :
    Host.Outcome State Fault Refusal :=
  .next (direct h (cmdMemPageRetire mode channel bank row spa) s)
/-- ECC_SCRUB_CFG (R231). -/
def execEccScrubCfg (h : Hdr) (op dramHours sramHours : Byte) (base : Spa) (lines : BitVec 34) (s : State) :
    Host.Outcome State Fault Refusal :=
  .next (direct h (cmdEccScrubCfg op dramHours sramHours base lines) s)
/-- ECC_COUNT_READ (R228). -/
def execEccCountRead (h : Hdr) (tile kind index : Byte) (clear : Bool) (s : State) : Host.Outcome State Fault Refusal :=
  .next (direct h (cmdEccCountRead tile kind index clear) s)

end Sys2Proof.Machine
end

