-- ==== Sys2Proof/Machine/JoinCommands.lean ====
section
/-! DEFINITION. Join commands: node number, links, routes, map epochs and leaving (R242, R253, R260, R263 to R265, R268). -/
namespace Sys2Proof.Machine
open Sys2Proof

/-- A map that holds one node alone. -/
def aloneMap (node : Nat) : BitVec 16384 := (1 : BitVec 16384) <<< node

/-- JOIN_NODE_ID_SET (R263). -/
def cmdJoinNodeIdSet (node : BitVec 16) : Command where
  opcode := 0x0401
  queues := q01
  body := fun _ s =>
    let n := node.toNat
    if 16383 < n then deny sBadParam s
    else if s.dp.links.any (fun x => x.2.state != .down) ∨ s.dp.cache.enabled ∨ s.dp.dir.isEmpty = false then
      deny sBadState s
    else okay 0 (onDp (fun p => { p with
      dw := { p.dw with node := n, cur := aloneMap n, curEp := 0, prev := aloneMap n, prevEp := 0, leaveDone := 0,
                        stopOut := false } }) s)

/-- The link's power domain is off (R390). -/
def linkOff (s : State) (j : Nat) : Bool := s.kn.domOff.getLsbD (linkDomain j)
/-- The port's power domain is off (R390). -/
def portOff (s : State) (i : Nat) : Bool := s.kn.domOff.getLsbD (portDomain i)

/-- A link starts training from step 1, or an ACTIVE one retrains (R241). -/
def bringUp (j : Nat) (expect : Option Nat) (p : Plane) : Plane :=
  let l := { link p j with expect := expect }
  match l.state with
  | .active | .retraining => retrainLink j (setLink p j l)
  | _ => setLink p j { l with state := .training, step := 1, width := 0 }

/-- JOIN_LINK_UP (R241, R242). -/
def cmdJoinLinkUp (lnk : Byte) (expect : Bool) (peer : BitVec 14) : Command where
  opcode := 0x0402
  queues := q01
  body := fun h s =>
    let j := lnk.toNat
    if 15 < j then deny sBadParam s
    else if linkOff s j ∨ running s.dp (fun w => w == .linkUp j) then deny sBadState s
    else startOp h 0x0402 (.linkUp j) (onDp (bringUp j (if expect then some peer.toNat else none))) s

/-- A routing entry written for consecutive nodes; its reserved bits read zero (Table 10.5). -/
def putRoutes (first count : Nat) (e : Reg) (p : Plane) : Plane :=
  { p with dw := { p.dw with
      routes := (List.range count).foldl (fun t k => tput 0 t (first + k) (e &&& 0xFFF00000)) p.dw.routes } }

/-- JOIN_ROUTE_SET (R253, R260). -/
def cmdJoinRouteSet (multi : Bool) (lnk : Byte) (first count : BitVec 16) (entry : BitVec 64) (dl : Bool) : Command where
  opcode := 0x0403
  queues := q01
  body := fun _ s =>
    let f := first.toNat
    let n := count.toNat
    if multi then
      if 15 < lnk.toNat ∨ 16383 < f ∨ n ≠ 1 then deny sBadParam s
      else okay 0 (onDp (fun p => { p with
        dw := { p.dw with mcast := tput 0 p.dw.mcast (mcastKey f lnk.toNat) (BitVec.ofBool dl ++ entry) } }) s)
    else if n = 0 ∨ 16384 < f + n then deny sBadParam s
    else okay 0 (onDp (putRoutes f n (entry.setWidth 32)) s)

/-- A chunk of a new map prepared; the first chunk of another epoch discards the earlier preparation (R264). -/
def prepare (ep c : Nat) (v : BitVec 256) (x : Prep) : Prep :=
  let y : Prep := if x.valid ∧ x.epoch = ep then x else { valid := true, epoch := ep }
  { y with chunks := tput 0 y.chunks c v, seen := y.seen ||| BitVec.ofNat 64 (2 ^ c) }

/-- MAP_EPOCH_PREPARE (R264). -/
def cmdMapEpochPrepare (epoch : BitVec 16) (chunk : Byte) (vector : BitVec 256) : Command where
  opcode := 0x0404
  queues := q01
  body := fun _ s =>
    let ep := epoch.toNat
    let c := chunk.toNat
    let pendEp : Bool := match s.dp.dw.pend with
      | some x => x.2.1 == ep
      | none => false
    if 63 < c ∨ ep = s.dp.dw.curEp ∨ pendEp then deny sBadParam s
    else okay 0 (onDp (fun p => { p with dw := { p.dw with prep := prepare ep c vector p.dw.prep } }) s)

/-- The map that the chunks of a preparation make. -/
def mapOf (x : Prep) : BitVec 16384 :=
  x.chunks.foldl (fun (m : BitVec 16384) (y : Nat × BitVec 256) => m ||| (y.2.setWidth 16384 <<< (256 * y.1))) 0

/-- Nodes whose range a window maps (R37). -/
def windowNodes (w : Window) : List Nat :=
  let lo := (w.base.toNat + w.offset.toNat) % 2 ^ 41 / 2 ^ 27
  let hi := (w.limit.toNat + w.offset.toNat) % 2 ^ 41 / 2 ^ 27
  (List.range (hi + 1 - lo)).map fun k => lo + k
/-- A window of this module maps some SPA of a node. -/
def windowOn (p : Plane) (node : Nat) : Bool := p.windows.any fun x =>
  decide ((x.2.base.toNat + x.2.offset.toNat) % 2 ^ 41 / 2 ^ 27 ≤ node ∧
    node ≤ (x.2.limit.toNat + x.2.offset.toNat) % 2 ^ 41 / 2 ^ 27)

/-- The new map omits a node that it may not omit (R265). -/
def omits (p : Plane) (m : BitVec 16384) : Bool :=
  (!present m p.dw.node && p.dw.leaveDone != 4) ||
    p.windows.any fun x => (windowNodes x.2).any fun n => !present m n

/-- MAP_EPOCH_COMMIT (R265). -/
def cmdMapEpochCommit (epoch : BitVec 16) (at_ : BitVec 64) : Command where
  opcode := 0x0405
  queues := q01
  body := fun h s =>
    let x := s.dp.dw.prep
    if x.valid = false ∨ x.epoch ≠ epoch.toNat ∨ x.seen ≠ BitVec.allOnes 64 ∨ omits s.dp (mapOf x) ∨ s.dp.dw.pend.isSome then
      deny sBadState s
    else if 64 ≤ slotsHeld s.dp then deny sNoResource s
    else if at_.toNat ≤ s.dp.epoch then deny sEpochStale s
    else startOp h 0x0405 .commit (onDp fun p => { p with
      dw := { p.dw with pend := some (at_.toNat, epoch.toNat, mapOf x),
                        prep := { p.dw.prep with valid := false, chunks := [], seen := 0 } } }) s

/-! ### Leaving (R268) -/

/-- SNP.FLUSH_ALL to every caching sub-agent of every ACTIVE port. -/
def flushAll (except_ : Bool) (p : Plane) : Plane :=
  let info : BitVec 18 := BitVec.ofNat 18 (p.dw.node % 2 ^ 14 + (if except_ then 2 ^ 14 else 0))
  (List.range 32).foldl (fun q i =>
    if (port q i).state = .active then
      ((List.range 8).filter fun k => (port q i).caching.getLsbD k).foldl
        (fun q k => sendTagged i .flush 1 2 (mkBody 0 k info 0) q) q
    else q) p

/-- Flushes still unanswered, or evictions unacknowledged. -/
def flushing (p : Plane) : Bool :=
  p.ports.any fun x => (x.2.mtags.any fun m => m.2.use == .flush) || x.2.tags.any fun t => t.2.evn

/-- A step of leaving begins (Table 10.9). -/
def beginLeave (step : Nat) (p : Plane) : Plane :=
  let q : Plane := { p with dw := { p.dw with leaving := true } }
  match step with
  | 1 => { q with dw := { q.dw with stopOut := true } }
  | 2 => flushAll true q
  | _ => q

/-- Requests of this module's agents for other nodes that are admitted and not finished (Table 10.9, step 1). -/
def outbound (p : Plane) : Bool :=
  p.entries.any (fun x => !x.2.join && leavesNode p x.2.req) ||
    p.ports.any fun x => x.2.hop.entries.any fun e => e.req.op != .fence && leavesNode p e.req

/-- A step of leaving has ended. -/
def leaveEnded (step : Nat) (o : LongOp) (p : Plane) : Bool :=
  match step with
  | 1 => !outbound p
  | 2 => !flushing p
  | 3 => (nextForeign p o.cursor).isNone && o.inHand == 0 && !p.jobs.any fun j => j.kind == .recall o.id
  | _ => (nextWayFor p o).isNone && o.inHand == 0

/-- NODE_LEAVE (R268). -/
def cmdNodeLeave (step : Byte) : Command where
  opcode := 0x0406
  queues := q01
  body := fun h s =>
    let k := step.toNat
    let host := hostMode s.dp fmLeave
    if 4 < k then deny sBadParam s
    else if (k = 0) = host then deny sModeConflict s
    else if windowOn s.dp s.dp.dw.node ∨ s.dp.dw.leaving ∨ (k ≠ 0 ∧ k ≠ s.dp.dw.leaveDone + 1) then deny sBadState s
    else startOp h 0x0406 (.leave (if k = 0 then 1 else k) (decide (k = 0))) (onDp (beginLeave (if k = 0 then 1 else k))) s

/-! ### Rows -/

/-- JOIN_NODE_ID_SET (R263). -/
def execJoinNodeIdSet (h : Hdr) (node : BitVec 16) (s : State) : Host.Outcome State Fault Refusal :=
  .next (direct h (cmdJoinNodeIdSet node) s)
/-- JOIN_LINK_UP (R241). -/
def execJoinLinkUp (h : Hdr) (lnk : Byte) (expect : Bool) (peer : BitVec 14) (s : State) : Host.Outcome State Fault Refusal :=
  .next (direct h (cmdJoinLinkUp lnk expect peer) s)
/-- JOIN_ROUTE_SET (R253). -/
def execJoinRouteSet (h : Hdr) (multi : Bool) (lnk : Byte) (first count : BitVec 16) (entry : BitVec 64) (dl : Bool)
    (s : State) : Host.Outcome State Fault Refusal :=
  .next (direct h (cmdJoinRouteSet multi lnk first count entry dl) s)
/-- MAP_EPOCH_PREPARE (R264). -/
def execMapEpochPrepare (h : Hdr) (epoch : BitVec 16) (chunk : Byte) (vector : BitVec 256) (s : State) :
    Host.Outcome State Fault Refusal :=
  .next (direct h (cmdMapEpochPrepare epoch chunk vector) s)
/-- MAP_EPOCH_COMMIT (R265). -/
def execMapEpochCommit (h : Hdr) (epoch : BitVec 16) (at_ : BitVec 64) (s : State) : Host.Outcome State Fault Refusal :=
  .next (direct h (cmdMapEpochCommit epoch at_) s)
/-- NODE_LEAVE (R268). -/
def execNodeLeave (h : Hdr) (step : Byte) (s : State) : Host.Outcome State Fault Refusal :=
  .next (direct h (cmdNodeLeave step) s)

end Sys2Proof.Machine
end

