-- ==== Sys2Proof/Machine/UnitCommands.lean ====
section
/-! DEFINITION. Firmware, Sagger and link commands (R309, R383, R415 to R418, R444). -/
namespace Sys2Proof.Machine
open Sys2Proof

/-! ### Firmware (R414 to R418) -/

/-- Bytes in a firmware slot. -/
def slotSize : Nat := 25165824

/-- The slot FW_STAGE writes: the one not running, or in recovery the one the start record does not name. -/
def inactiveSlot (m : Mgmt) : Nat := if m.life = .recovery then 1 - m.startSlot else 1 - m.running

/-- An FW_STAGE runs. -/
def stageRuns (p : Plane) : Bool := running p fun w => w == .fwStage

/-- FW_STAGE (R417); `bytes` is what host memory holds from SRC on. -/
def cmdFwStage (offset length : BitVec 32) (src : BitVec 64) (final : Bool) (bytes : List Byte) : Command where
  opcode := 0x0A01
  queues := q0
  recover := true
  body := fun h s =>
    let n := inactiveSlot s.mg
    if length = 0 ∨ slotSize < offset.toNat + length.toNat then deny sBadParam s
    else if stageRuns s.dp ∨ s.mg.startSlot = n ∨ s.mg.oneShot = some n ∨ s.mg.endpoint = false then deny sBadState s
    else startOp h 0x0A01 .fwStage (fun t =>
      let m := setSlot t.mg n { slotOf t.mg n with valid := false }
      { t with mg := { m with stage := some (offset.toNat, src, (List.range length.toNat).map fun k => bytes.getD k 0, final) } }) s

/-- FW_ACTIVATE (R418). -/
def cmdFwActivate (slot when_ : Byte) : Command where
  opcode := 0x0A02
  queues := q0
  keyed := true
  recover := true
  body := fun _ s =>
    if 1 < slot.toNat ∨ 1 < when_.toNat then deny sBadParam s
    else if stageRuns s.dp ∨ (slotOf s.mg slot.toNat).valid = false then deny sBadState s
    else okay 0 (if when_ = 1 then { s with mg := { s.mg with startSlot := slot.toNat } }
      else { s with mg := { s.mg with oneShot := some slot.toNat } })

/-- FW_INFO (R415, Table 12.14). -/
def cmdFwInfo : Command where
  opcode := 0x0A03
  recover := true
  body := fun _ s =>
    okay (fields [(0, 1, s.mg.running), (1, 1, bit s.mg.slotA.valid), (2, 1, bit s.mg.slotB.valid), (3, 1, s.mg.startSlot),
      (32, 32, s.mg.slotA.version.toNat), (64, 32, s.mg.slotB.version.toNat), (96, 32, slotSize)]) s

/-! ### The Sagger (R383) -/

/-- SAGGER_STATUS: the mirror; zero on ZL1640-MA and while the management die holds none. -/
def cmdSaggerStatus : Command where
  opcode := 0x0B01
  body := fun _ s => okay (if s.dp.variant = .ms ∧ s.mir.present then statusImage s.mir.sag else 0) s

/-! ### Links (R309, R444) -/

/-- A training of a port named by LINK_TRAIN. -/
def trainNamed (i : Nat) (full : Bool) (p : Plane) : Plane :=
  if full = false then retrainPort i p
  else match (port p i).state with
    | .active | .retraining => containHost i p
    | .down | .training => let q := trainPort i p; setPort q i { port q i with state := .down }
    | _ => trainPort i p

/-- LINK_TRAIN (R444). -/
def cmdLinkTrain (prt mode : Byte) : Command where
  opcode := 0x0C01
  queues := q012
  body := fun h s =>
    let i := prt.toNat
    if 31 < i ∨ 1 < mode.toNat then deny sBadParam s
    else if portOff s i ∨ running s.dp (fun w => w == .linkTrain i) ∨ (mode = 0 ∧ (port s.dp i).state ≠ .active) then
      deny sBadState s
    else startOp h 0x0C01 (.linkTrain i) (onDp (trainNamed i (decide (mode = 1)))) s

/-- RESULT of LINK_STATUS (Table 12.14). -/
def linkStatusImage (p : Plane) (kind i : Nat) : BitVec 192 :=
  if kind = 0 then
    let x := port p i
    fields [(0, 8, portCode x.state), (8, 8, if x.state = .active then x.width else 0), (16, 8, x.reason.toNat),
      (24, 8, x.attach.toNat), (32, 32, sat 32 x.retry.sentReqs), (64, 32, sat 32 x.retry.cwTotal), (96, 32, sat 32 x.retrains)]
  else
    let x := link p i
    fields [(0, 8, linkCode x.state), (8, 8, if x.state = .active then x.width else 0), (32, 32, sat 32 x.retry.sentReqs),
      (64, 32, sat 32 x.retry.cwTotal), (96, 32, sat 32 x.retrains)]

/-- LINK_STATUS (R309). -/
def cmdLinkStatus (kind index : Byte) : Command where
  opcode := 0x0C02
  body := fun _ s =>
    if 1 < kind.toNat ∨ (kind = 0 ∧ 31 < index.toNat) ∨ (kind = 1 ∧ 15 < index.toNat) then deny sBadParam s
    else okay (linkStatusImage s.dp kind.toNat index.toNat) s

/-! ### Rows -/

/-- FW_STAGE (R417). -/
def execFwStage (h : Hdr) (offset length : BitVec 32) (final : Bool) (buffer : HostBuffer) (s : State) :
    Host.Outcome State Fault Refusal :=
  .next (direct h (cmdFwStage offset length buffer.src final buffer.bytes) s)
/-- FW_ACTIVATE (R418). -/
def execFwActivate (h : Hdr) (slot when_ : Byte) (s : State) : Host.Outcome State Fault Refusal :=
  .next (direct h (cmdFwActivate slot when_) s)
/-- FW_INFO (R415). -/
def execFwInfo (h : Hdr) (s : State) : Host.Outcome State Fault Refusal := .next (direct h cmdFwInfo s)
/-- SAGGER_STATUS (R383). -/
def execSaggerStatus (h : Hdr) (s : State) : Host.Outcome State Fault Refusal := .next (direct h cmdSaggerStatus s)
/-- LINK_TRAIN (R444). -/
def execLinkTrain (h : Hdr) (prt mode : Byte) (s : State) : Host.Outcome State Fault Refusal :=
  .next (direct h (cmdLinkTrain prt mode) s)
/-- LINK_STATUS (R309). -/
def execLinkStatus (h : Hdr) (kind index : Byte) (s : State) : Host.Outcome State Fault Refusal :=
  .next (direct h (cmdLinkStatus kind index) s)

end Sys2Proof.Machine
end

