-- ==== Sys2Proof/Machine/Power.lean ====
section
/-! DEFINITION. Starts, stops, warm reset and power states (R181, R391, R392, R397, R406 to R423, R441). -/
namespace Sys2Proof.Machine
open Sys2Proof

/-! ### Stops -/

/-- What a powered-off data plane keeps: its variant and what the flash holds. -/
def blankPlane (p : Plane) : Plane :=
  { variant := p.variant, draw := p.draw, flashWays := p.flashWays, flashRows := p.flashRows, flashEvac := p.flashEvac }

/-- The management die as a stop leaves it: what the flash holds. -/
def blankMgmt (s : State) (life : Life) : Mgmt :=
  { life := life, ready := false, hwRev := s.mg.hwRev, slotA := s.mg.slotA, slotB := s.mg.slotB, startSlot := s.mg.startSlot,
    oneShot := s.mg.oneShot, running := s.mg.running, marker := s.mg.marker, settings := s.mg.settings, hours := hoursNow s,
    endpoint := false }

/-- The Kiln as a stop leaves it: the ledger and its numbers, and the regulators' fault flags. -/
def blankKiln (k : Kiln) : Kiln :=
  { ledger := k.ledger, nextSeq := k.nextSeq, lastId := k.lastId, sensors := k.sensors, domFault := k.domFault }

/-- The module stops: all volatile state of the main die is lost. The Sagger runs on; with VIN absent its window is flagged
MAIN_DOWN (R181, R358, R359). -/
def stopMain (life : Life) (power : Nat) (s : State) : State :=
  let m := blankMgmt s life
  { s with mg := { m with power := power }, kn := blankKiln s.kn, mir := {}, dp := blankPlane s.dp,
           rc := { dp := blankPlane s.dp, kn := {}, mir := {} },
           side := { s.side with pwrgd := false, ir := 0xFF, pins := none, lapsed := false },
           sg := if life = .noVin ∧ s.sg.powered then { s.sg with win := s.sg.win.flag fMainDown } else s.sg }

/-- A thermal trip (R397). -/
def trip (s : State) : State :=
  let t := stopMain .tripped 0 s
  { t with side := { t.side with thermtrip := true } }

/-! ### Starts (R406 to R415) -/

/-- The slots a start tries, in order; none: the recovery service. -/
def bootOrder (m : Mgmt) (sel : BitVec 2) : List Nat :=
  match sel.toNat with
  | 0 => [m.startSlot, 1 - m.startSlot]
  | 1 => [1 - m.startSlot, m.startSlot]
  | _ => []

/-- The first valid slot. -/
def bootSlot (m : Mgmt) (order : List Nat) : Option Nat := order.find? fun n => (slotOf m n).valid

/-- MGC_FIRMWARE (Table 18.4). -/
def firmwareEvent (code : BitVec 16) (data : Nat) (s : State) : State :=
  mgEvent 13 code (BitVec.ofNat 32 data) (((slotOf s.mg s.mg.running).version).setWidth 128) s

/-- RESERVE_EN as an evacuation record sets it (R211). -/
def reserveReg (p : Plane) : Table Reg :=
  if p.flashEvac = 0 then [] else tput (rwfReset (aDmcCtrl 0)) [] (aDmcCtrl 0) (rwfReset (aDmcCtrl 0) ||| 0x100)

/-- Spare rows of a bank that the remaps recorded in flash use. -/
def sparesUsed (p : Plane) (ch bank : Nat) : Nat :=
  p.flashRows.foldl (fun n x => if x.1 / 131072 = ch * 16 + bank then max n x.2 else n) 0

/-- The channels after a start: spares in use, and DOWN where training failed. -/
def startChans (p : Plane) (failed : BitVec 64) : Table Chan :=
  (List.range 64).foldl (fun (t : Table Chan) ch =>
    let c : Chan := { state := if failed.getLsbD ch && !p.flashEvac.getLsbD ch then .down else .normal,
                      spares := (List.range 16).foldl (fun u b => tput 0 u b (sparesUsed p ch b)) [] }
    tput {} t ch c) []

/-- The evacuations that the flash records: each EVACUATED, its cursor at the end of its range. -/
def startEvacs (p : Plane) : Table Evac :=
  ((List.range 64).filter fun ch => p.flashEvac.getLsbD ch).foldl
    (fun (t : Table Evac) ch => tput {} t (ch / 16) { state := 2, chan := ch % 16, cursor := liveLines }) []

/-- The ways that the flash records as retired. -/
def startSlices (p : Plane) : Table Slice :=
  p.flashWays.foldl (fun (t : Table Slice) x => tput {} t x.1 { retired := x.2 }) []

/-- The tiles' view of the running window as the time stream gives it; no stream, no stamps (R364, R365). -/
def timed (g : Sag) (p : Plane) : Plane :=
  if p.variant = .ms ∧ g.powered then
    { p with tapTime := g.time, winSeq := g.win.seq, winStart := g.win.start, winEnd := nextEnd g.win.lenMs g.win.start }
  else if p.variant = .ms then (List.range 4).foldl (fun q t => setTap q t { tap q t with down := true }) p
  else p

/-- The data plane at READY (Table 18.2). -/
def startPlane (g : Sag) (failed : BitVec 64) (p : Plane) : Plane :=
  timed g { blankPlane p with inforce := reserveReg p, chans := startChans p failed, evac := startEvacs p,
                              slices := startSlices p, remaps := p.flashRows }

/-- The Kiln at READY: each island at the point of its newest APPLIED entry, every domain on (R403). -/
def startKiln (k : Kiln) : Kiln :=
  let k0 : Kiln := { ledger := k.ledger, nextSeq := k.nextSeq, lastId := k.lastId }
  (List.range 128).foldl (fun (q : Kiln) i => match newestApplied k i with
    | none => q
    | some x => setIsland q i { f := x.1, v := x.2, fCur := x.1 }) k0

/-- A start of the module, from the start instant to READY or to the recovery service. -/
def startMain (boot : Boot) (s : State) : State :=
  let m := blankMgmt s .run
  let order := bootOrder m boot.sel
  let side := { s.side with pwrgd := true, lapsed := s.side.lapsed || s.side.pins.isSome, pins := none }
  match bootSlot m order with
  | none =>
    let t := { s with mg := { m with life := .recovery, endpoint := true, running := m.startSlot }, kn := startKiln s.kn,
                      mir := {}, dp := blankPlane s.dp, side := side }
    { t with rc := { dp := t.dp, kn := t.kn, mir := {} } }
  | some n =>
    let trained := (List.range 64).filter fun ch => !boot.failed.getLsbD ch && !s.dp.flashEvac.getLsbD ch
    let m : Mgmt := { m with endpoint := true, ready := true, running := n, marker := false, unclean := !m.marker,
                             staged := reserveReg s.dp, settings := trained.foldl (fun t ch => tput 0 t ch 5) m.settings }
    let t := { s with mg := m, kn := startKiln s.kn, mir := {}, dp := startPlane s.sg boot.failed s.dp, side := side }
    let t := { t with rc := { dp := t.dp, kn := t.kn, mir := {} } }
    let t := if some n ≠ order.head? then firmwareEvent 1 (1 - n) t else t
    onDp (fun p => ((List.range 64).filter fun ch => (chan p ch).state == .down).foldl
      (fun q ch => raise (tileSrc (ch / 16) (18 + ch % 16)) 1 0 0 q) p) t

/-- VIN is present and within range. -/
def vinOn (s : State) : Bool := s.mg.life != .noVin && s.mg.life != .overVoltage

/-- POWER_ON: VIN rises and RST_N is released (R406). -/
def execPowerOn (boot : Boot) (s : State) : Host.Outcome State Fault Refusal :=
  .next (if s.mg.life = .noVin then startMain boot { s with side := { vio := s.side.vio } } else s)

/-- COLD_RESET: RST_N low for 5 µs or longer, and its release (R407). -/
def execColdReset (boot : Boot) (s : State) : Host.Outcome State Fault Refusal :=
  .next (if vinOn s then startMain boot s else s)

/-- VIN_LOSS: VIN below 10.8 V for 10 µs (R410). -/
def execVinLoss (s : State) : Host.Outcome State Fault Refusal :=
  .next (if s.mg.life = .noVin then s else stopMain .noVin 0 s)

/-- OVER_VOLTAGE_STOP: VIN above 13.5 V for 10 µs (R441). -/
def execOverVoltageStop (s : State) : Host.Outcome State Fault Refusal :=
  .next (if vinOn s then stopMain .overVoltage 0 s else s)

/-- OVER_VOLTAGE_END: VIN falls below 12.6 V (R441). -/
def execOverVoltageEnd (boot : Boot) (s : State) : Host.Outcome State Fault Refusal :=
  .next (if s.mg.life = .overVoltage then startMain boot s else s)

/-- A port of a domain whose regulator has failed; it trains no more. -/
def faultPort (i : Nat) (p : Plane) : Plane :=
  let q := contain i cLinkFault p
  setPort q i { port q i with step := 0, state := if (port q i).state = .training then .down else (port q i).state }
/-- A link of a domain whose regulator has failed. -/
def faultLink (j : Nat) (p : Plane) : Plane :=
  let q := failLink j p
  setLink q j { link q j with step := 0, state := if (link q j).state = .training then .failed else (link q j).state }

/-- REGULATOR_FAULT: a PORTS or JOIN domain goes off; any other fault stops the module (R391). -/
def execRegulatorFault (domain : Fin 64) (s : State) : Host.Outcome State Fault Refusal :=
  let d := domain.val
  let m : BitVec 64 := BitVec.ofNat 64 (2 ^ d)
  let k : Kiln := { s.kn with domFault := s.kn.domFault ||| m }
  .next (if vinOn s = false then s
    else if isPorts d ∨ isJoin d then
      if s.mg.life ≠ .run ∨ s.kn.domOff.getLsbD d then s
      else
        let p := (domainPorts d).foldl (fun q i => faultPort i q) s.dp
        let p := (domainLinks d).foldl (fun q j => faultLink j q) p
        settled (mgEvent 36 3 (BitVec.ofNat 32 d) 0 { s with dp := p, kn := { k with domOff := k.domOff ||| m } })
    else stopMain .tripped 0 { s with kn := k })

/-! ### Warm reset (R419, R304, R286) -/

/-- A warm reset or a change of power state runs (R303). -/
def powerRuns (p : Plane) : Bool := running p fun w => match w with
  | .power _ | .warmReset _ => true
  | _ => false

/-- The operation is kept across a warm reset: evacuations and plans (R211, R402), and the reset itself. -/
def keepsWarm (w : Work) : Bool := match w with
  | .evac _ | .plan | .approve _ | .warmReset _ => true
  | _ => false
/-- Its completion follows the reset (R286). -/
def afterWarm (w : Work) : Bool := match w with
  | .instReset _ | .destroy _ => true
  | _ => false

/-- What an aborted operation leaves undone. -/
def abandon (w : Work) (s : State) : State :=
  match w with
  | .retire t n x => onDp (fun p => let k := 16 * t + n
      setSlice p k { slice p k with retiring := (slice p k).retiring &&& ~~~(BitVec.ofNat 24 (2 ^ x)) }) s
  | .disable => onDp (fun p => { p with cache := { p.cache with wtAll := false } }) s
  | .share i => onDp (fun p => setInst p i { inst p i with staged := none }) s
  | .commit => onDp (fun p => { p with dw := { p.dw with pend := none } }) s
  | .leave _ _ => onDp (fun p => { p with dw := { p.dw with leaving := false } }) s
  | .fwStage => { s with mg := { s.mg with stage := none } }
  | .snapshot _ _ _ _ => { s with mg := { s.mg with
      latched := s.mg.latched.filter fun x => (op? s.dp x.1).any fun o => !(o.work == w) } }
  | _ => s

/-- Every operation that a warm reset ends is ABORTED; its completion goes out, at once or after the reset. -/
def abortAll (s : State) : State :=
  let gone := s.dp.ops.filter fun (o : LongOp) => o.ended.isNone && !keepsWarm o.work
  gone.foldl (fun (s : State) (o : LongOp) =>
    let t := onDp (endOp o.id sAborted) (abandon o.work s)
    if afterWarm o.work then t else sendDone o.id t) s

/-- DEV_RESET_WARM is accepted. -/
def beginWarm (s : State) : State :=
  let t := abortAll { s with mg := { s.mg with ready := false, warm := true },
                             kn := { s.kn with nextCap := [], nextPow := none } }
  if t.mg.life = .run then onDp startDrain t else t

/-- DEV_RESET_WARM (R419). -/
def cmdDevResetWarm : Command where
  opcode := 0x0110
  queues := q01
  keyed := true
  body := fun h s =>
    if powerRuns s.dp then deny sBadState s
    else startOp h 0x0110 (.warmReset false) beginWarm s

/-- RATE_REQ in force (Table 08.8). -/
def rateReq (p : Plane) : Nat := fld (rg p (aDmcCtrl 0)) 0 3

/-- Everything admitted before the reset has reached its finish point. -/
def quiet (p : Plane) : Bool := drained p && p.jobs.isEmpty && p.entries.isEmpty

/-- A reset or destroy of an instance that the warm reset ended: its generation advances (R286). -/
def advanceGens (p : Plane) : Plane :=
  p.insts.foldl (fun (q : Plane) x =>
    let g := if x.2.squashed then x.2.gen else x.2.gen + 1
    match x.2.state with
    | .resetting => setInst q x.1 { x.2 with state := .active, gen := g, stopped := false, squashed := false }
    | .destroying => setInst q x.1 { gen := g }
    | _ => q) p

/-- A warm reset that finds no valid slot: the recovery service runs, READY is not reached, and what a warm reset keeps is kept
(R415, R416, R420). -/
def warmRecovery (id : Nat) (s : State) : State :=
  let p : Plane := if s.mg.life = .run then clearAll s.dp else s.dp
  { s with mg := { s.mg with life := .recovery, ready := false, warm := false, oneShot := none, keyOpen := false,
                             running := s.mg.startSlot },
           dp := { p with rsvs := [], holds := [], ops := p.ops.filter fun o => !(o.id == id) } }

/-- READY after a warm reset: the slot of the records runs, reservations, hold-offs and engines are cleared, credits go back
(Table 18.5). -/
def endWarm (id : Nat) (s : State) : State :=
  let was := s.mg.running
  let want := s.mg.oneShot.getD s.mg.startSlot
  match bootSlot s.mg [want, 1 - want] with
  | none => warmRecovery id s
  | some n =>
    let m := { s.mg with running := n, oneShot := none, ready := true, warm := false, keyOpen := false }
    let p := { advanceGens s.dp with rsvs := [], holds := [] }
    let p := if s.mg.life = .run then endDrain (clearAll p) else p
    let t := { s with mg := m, dp := endOp id sOk p }
    let t := if n ≠ want then firmwareEvent 1 want t else t
    let t := if n ≠ was then firmwareEvent 2 n t else t
    let t := if t.mg.life = .run ∧ hostMode t.dp fmWay = false then onDp retryWays t else t
    settled ((t.dp.ops.map (·.id)).foldl (fun s i => sendDone i s) t)

/-- The next stage of a warm reset: drained and finished; trained at another rate; READY. -/
def stepWarm (o : LongOp) (s : State) : State :=
  if o.cursor = 0 then
    if s.mg.life = .run ∧ quiet s.dp = false then s
    else if s.mg.life = .run ∧ 5 ≤ rateReq s.dp then
      endWarm o.id (mgEvent 16 0 (BitVec.ofNat 32 (rateReq s.dp)) 0 s)
    else if s.mg.life = .run ∧ rateReq s.dp ≠ s.mg.rateCur then
      let chs := (List.range 64).filter fun ch => !(evacuated s.dp ch)
      let p := chs.foldl (fun q ch => setChan q ch { chan q ch with state := .training, pd := false }) s.dp
      { s with dp := setOp p { o with cursor := 1 }, mg := { s.mg with rateCur := rateReq s.dp } }
    else endWarm o.id s
  else if s.dp.chans.any (fun x => x.2.state == .training) then s
  else endWarm o.id s

/-! ### Power states (R392, R421, R422) -/

/-- The current map holds this node alone. -/
def alone (p : Plane) : Bool := p.dw.cur == aloneMap p.dw.node

/-- DEV_POWER_STATE. -/
def cmdDevPowerState (state : Byte) : Command where
  opcode := 0x0111
  queues := q01
  body := fun h s =>
    let n := state.toNat
    let retain := s.mg.life == .retain
    if 3 < n then deny sBadParam s
    else if powerRuns s.dp ∨ (2 ≤ n ∧ alone s.dp = false) ∨ (retain ∧ n = 2) then deny sBadState s
    else startOp h 0x0111 (.power n) (fun t =>
      if retain ∨ n < 2 then t else onDp startDrain t) s

/-- Every dirty line cleaned, then the cache disabled with INV_DONE 0; its arrays lose their contents with their domain. -/
def cleanEvery (p : Plane) : Plane :=
  let q := disabled ((p.ways.filter fun x => x.2.dirty).foldl (fun q x => cleanKey none x.1 q) p)
  { q with ways := [], sramFlips := [], staleTags := [], cache := { q.cache with known := false } }

/-- Nothing is left in any channel's queues. -/
def chansQuiet (p : Plane) : Bool :=
  p.chans.all fun x => x.2.rq.isEmpty && x.2.wq.isEmpty && x.2.wait.isEmpty && x.2.ret.isEmpty && x.2.heldRet.isEmpty

/-- Perturbation cleared; ports and links DOWN (Table 18.7, step 4). -/
def portsDown (p : Plane) : Plane :=
  let q := clearAll p
  let ps := q.ports.map fun (x : Nat × Port) =>
    (x.1, { ({} : Port) with step := 0, attach := x.2.attach, reason := x.2.reason, retrains := x.2.retrains,
                             contains := x.2.contains })
  let all := (List.range 32).foldl (fun (t : Table Port) i => tput {} t i { tget {} ps i with step := 0 }) []
  { q with ports := all,
           links := q.links.map fun (x : Nat × JLink) => (x.1, { x.2 with state := .down, step := 0, width := 0, rx := [] }) }

/-- The oldest entries of the event queue are written while the ring takes them. -/
def writeOut : Nat → State → State
  | 0, s => s
  | n + 1, s => match execEventWrite true s with
    | .next t => writeOut n t
    | _ => s

/-- The module enters RETAIN or OFF. -/
def powerDown (o : LongOp) (n : Nat) (s : State) : State :=
  if n = 2 then
    let p := { portsDown s.dp with gated := 0 }
    let chs := (List.range 64).filter fun ch => !(evacuated p ch)
    let p := chs.foldl (fun q ch => setChan q ch { chan q ch with state := .selfRefresh, pd := false }) p
    sendDone o.id (onDp (endOp o.id sOk) { s with mg := { s.mg with life := .retain, power := 2 }, dp := p })
  else
    let t := sendDone o.id (onDp (endOp o.id sOk) s)
    let t := writeOut (t.dp.evq.length) t
    let t := stopMain .off 3 t
    { t with mg := { t.mg with marker := true } }

/-- RETAIN ends: the home tables are emptied, and each channel in self-refresh runs stored training, with full training where its
verification fails (R200, R422). -/
def powerUp (o : LongOp) (s : State) : State :=
  let bad := Config.storedFails s.dp.draw
  let chs := (List.range 64).filter fun ch => (chan s.dp ch).state == .selfRefresh
  let p := chs.foldl (fun q ch =>
    let c := chan q ch
    setChan q ch (if bad.getLsbD ch then { c with state := .training }
      else { c with state := .normal, lastTemp := c.temp, tTrain := q.clock })) (draw1 s.dp)
  { s with mg := { s.mg with life := .run },
           dp := setOp { p with dir := [], dirFlips := [], rsvs := [], taps := [], frames := [] } { o with cursor := 3 } }

/-- Its channels trained, the saved state is in force and ports train (R422). -/
def powerReady (o : LongOp) (n : Nat) (s : State) : State :=
  let p := (List.range 32).foldl (fun q i =>
    setPort q i { port q i with step := if s.kn.domOff.getLsbD (portDomain i) then 0 else 1 }) s.dp
  let t := applyAllFires { s with mg := { s.mg with power := n }, dp := timed s.sg (endDrain p) }
  settled (sendDone o.id (onDp (endOp o.id sOk) t))

/-- The next stage of a change of power state. -/
def stepPower (o : LongOp) (n : Nat) (s : State) : State :=
  if s.mg.life = .retain then (if n = 3 then powerDown o 3 s else powerUp o s)
  else if o.cursor = 3 then (if s.dp.chans.any fun x => x.2.state == .training then s else powerReady o n s)
  else if n < 2 then
    sendDone o.id (onDp (endOp o.id sOk) { s with mg := { s.mg with power := n },
                                                   dp := if n = 0 then { s.dp with gated := 0 } else s.dp })
  else if o.cursor = 0 then
    if drained s.dp then settled (onDp (fun p => flushAll false (setOp p { o with cursor := 1 })) s) else s
  else if o.cursor = 1 then
    if flushing s.dp ∨ s.dp.jobs.isEmpty = false then s
    else onDp (fun p => cleanEvery (setOp p { o with cursor := 2 })) s
  else if chansQuiet s.dp ∧ quiet s.dp then powerDown o n s
  else s

/-- FLUSH_SILENCE_TIMEOUT: a port that has not answered its flush for 10 ms is treated as DETACHED (Table 18.7). -/
def execFlushSilenceTimeout (p : Fin 32) (s : State) : Host.Outcome State Fault Refusal :=
  .next (if s.mg.life = .run ∧ (port s.dp p).mtags.any (fun x => x.2.use == .flush) ∧
      running s.dp (fun w => match w with
        | .power _ => true
        | _ => false) then settled (onDp (detach p) s) else s)

/-! ### Rows -/

/-- DEV_RESET_WARM (R419). -/
def execDevResetWarm (h : Hdr) (s : State) : Host.Outcome State Fault Refusal := .next (direct h cmdDevResetWarm s)
/-- DEV_POWER_STATE (R421). -/
def execDevPowerState (h : Hdr) (state : Byte) (s : State) : Host.Outcome State Fault Refusal :=
  .next (direct h (cmdDevPowerState state) s)

end Sys2Proof.Machine
end

