-- ==== Sys2Proof/Machine/Climate.lean ====
section
/-! DEFINITION. Temperature samples, canaries, plans, retunes and the management epoch's boundary (R14, R15, R348, R393 to R402,
R434, R435). -/
namespace Sys2Proof.Machine
open Sys2Proof

/-- The Kiln's planner and events run. -/
def kilnOn (s : State) : Bool := s.mg.life == .run || s.mg.life == .retain

/-! ### Samples (R393, R394, R397, R434, R435) -/

/-- The conditions of ALERT_STAT in a sample (Table 19.6). -/
def alertNow (k : Kiln) (x : Side) : BitVec 8 :=
  BitVec.ofNat 8 (bit (decide (x.alertTj.toInt ≤ x.tjMax.toInt)) + 2 * bit (decide (x.vin.toNat < 11400 ∨ 12600 < x.vin.toNat)) +
    4 * bit (decide (10 * x.alertPw.toNat ≤ x.pin.toNat)) + 8 * bit (k.domFault != 0) +
    16 * bit ((List.range 96).any fun n => (sensor k n).fault) + 32 * bit x.thermtrip)

/-- Readings refreshed, ALERT_STAT bits set, and ALERT_N driven low when an enabled bit goes from 0 to 1. -/
def refresh (k : Kiln) (vin pin : BitVec 16) (x : Side) : Side :=
  let y : Side := { x with tjMax := tjMaxOf k, tileTj := (List.range 4).foldl (fun t n => tput 0 t n (tileTjOf k n)) [],
                           vin := vin, pin := pin }
  let new := alertNow k y
  { y with alertStat := y.alertStat ||| new, alert := y.alert || (new &&& ~~~y.alertStat &&& y.alertMask) != 0 }

/-- DRAM temperatures read from the devices; a channel that has moved 2 °C from its last training becomes due (R201). -/
def readDram (dram : List Byte) (p : Plane) : Plane :=
  (List.range 64).foldl (fun q ch =>
    let was := wantsRetrain q ch || (chan q ch).due
    let q := setChan q ch { chan q ch with temp := dram.getD ch (chan q ch).temp }
    if was then q else becomeDue ch q) p

/-- TEMPERATURE_SAMPLE: the sensors are read; above 115 °C the module trips (R393, R394, R397). -/
def execTemperatureSample (temps : List (BitVec 16)) (bad : BitVec 96) (dram : List Byte) (vin pin : BitVec 16) (s : State) :
    Host.Outcome State Fault Refusal :=
  .next (if vinOn s = false then s
    else
      let x := readSensors temps bad s.kn s.dp
      let t : State := { s with kn := x.1, dp := if kilnOn s then x.2 else s.dp }
      let t : State := if t.mg.life = .run then
          let y : Kiln × Plane := sampleAll t.kn (readDram dram t.dp)
          { t with kn := y.1, dp := y.2 }
        else t
      let t : State := if tooHot t.kn ∧ t.mg.life ≠ .tripped then trip t else t
      { t with side := refresh t.kn vin pin { t.side with thermtrip := t.side.thermtrip || tooHot t.kn } })

/-! ### Canaries, plans, retunes (R398 to R401) -/

/-- A canary's slack is below GUARD_PS ÷ 2. -/
def tightCanary (p : Plane) (x : Canary) : Bool := x.valid && decide (2 * x.slack.toInt < (guardPs p : Int))

/-- CANARY_READING: a canary's average over a second (R399). -/
def execCanaryReading (c : Byte) (slack : BitVec 16) (s : State) : Host.Outcome State Fault Refusal :=
  .next (if kilnOn s = false then s
    else
      let n := c.toNat
      let new : Canary := { valid := true, slack := slack }
      let fell := tightCanary s.dp new && !(tightCanary s.dp (canary s.kn n))
      let t : State := { s with kn := { s.kn with canaries := tput {} s.kn.canaries n new } }
      if fell then
        let t : State := mgEvent 35 0 (BitVec.ofNat 32 n) (slack.setWidth 128) t
        if hostMode s.dp fmMargin then t
        else { t with kn := { t.kn with asked := t.kn.asked ++ [(islandMask [n / 2], none)] } }
      else t)

/-- PERIODIC_PLAN: PERIOD_H hours of powered time have passed (R400). -/
def execPeriodicPlan (s : State) : Host.Outcome State Fault Refusal :=
  .next (if kilnOn s ∧ fld (rg s.dp aKlnCfg) 0 16 ≠ 0 then { s with kn := { s.kn with asked := s.kn.asked ++ [(0, none)] } }
    else s)

/-- MARGIN_PLAN_MADE: the planner has finished a plan (R400, R401). -/
def execMarginPlanMade (s : State) : Host.Outcome State Fault Refusal :=
  .next (if kilnOn s ∧ s.mg.warm = false then onKiln (planMade (hoursNow s)) s else s)

/-- RETUNE_END: an island's pause is over (R398). -/
def execRetuneEnd (i : Fin 128) (s : State) : Host.Outcome State Fault Refusal :=
  .next { s with kn := setIsland s.kn i { island s.kn i with paused := false } }

/-! ### The epoch boundary (R14, R15, R348) -/

/-- The counters of a snapshot, and those counters zeroed. -/
def snapCounters (first count : Nat) (p : Plane) : List (BitVec 64) :=
  (List.range count).map fun k => (tget {} p.counters (first + k)).value
def zeroCounters (first count : Nat) (p : Plane) : Plane :=
  { p with counters := (List.range count).foldl (fun (t : Table Counter) k =>
      tput {} t (first + k) { tget {} t (first + k) with value := 0 }) p.counters }

/-- A running snapshot latches its counters at the boundary, and takes the count of the epoch that begins. -/
def latchOne (at_ : Nat) (o : LongOp) (s : State) : State :=
  match o.work with
  | .snapshot f n dest clear =>
    if o.ended.isSome ∨ o.cursor ≠ 0 then s
    else
      let values := snapCounters f n s.dp
      let p := if clear then zeroCounters f n s.dp else s.dp
      { s with mg := { s.mg with latched := s.mg.latched ++ [(o.id, dest.toNat, values)] },
               dp := setOp p { o with cursor := 1, a := at_ } }
  | _ => s

/-- EPOCH_BOUNDARY: the epoch timer's mark; changes staged for it take effect (R14, R15). -/
def execEpochBoundary (rates : BitVec 128) (rfm watts : BitVec 16) (s : State) : Host.Outcome State Fault Refusal :=
  .next (if mgcOn s = false then s
    else if s.mg.life = .recovery then
      onDp (fun p => { p with epoch := (p.epoch + 1) % 2 ^ 64, clock := max p.clock ((p.epoch + 1) * epochLen) }) s
    else
      let t : State := s.dp.ops.foldl (fun t o => latchOne ((s.dp.epoch + 1) % 2 ^ 64) o t) s
      let t : State := onDp (epochPlane rates rfm) t
      let run := s.mg.life == .run && !s.mg.warm
      settled (onKiln (fun x => epochKiln watts.toNat (hoursNow t) run x.1 x.2) t))

end Sys2Proof.Machine
end

