-- ==== Sys2Proof/Machine/InstCommands.lean ====
section
/-! DEFINITION. Instance commands: create, destroy, reset, share, window and status (R37, R38, R273, R280, R284, R287, R288). -/
namespace Sys2Proof.Machine
open Sys2Proof

/-- A share breaks Table 11.2. -/
def shareBad (x : Share) : Bool := x.poolW == 0 || x.bwW == 0

/-- Every named position is bound to an instance. -/
def allBound (p : Plane) (m : BitVec 256) (i : Nat) : Bool :=
  (List.range 256).all fun k => !m.getLsbD k || tget 0 p.binds k == i

/-- INST_CREATE (R273, Table 11.1). -/
def cmdInstCreate (instn op : Byte) (share : BitVec 32) (mem : BitVec 256) : Command where
  opcode := 0x0301
  queues := q01
  body := fun _ s =>
    let i := instn.toNat
    let x := inst s.dp i
    let sh := decodeShare share
    if i = 0 ∨ 127 < i ∨ 2 < op.toNat ∨ (op ≠ 0 ∧ mem = 0) ∨ (op = 0 ∧ shareBad sh) then deny sBadParam s
    else if op = 0 then
      if x.state ≠ .free ∨ allBound s.dp mem 0 = false then deny sBadState s
      else okay 0 (onDp (fun p => bindAll i mem (setInst p i { x with state := .active, share := sh })) s)
    else if op = 1 then
      if x.state ≠ .active ∨ allBound s.dp mem 0 = false then deny sBadState s
      else okay 0 (onDp (bindAll i mem) s)
    else if x.state ≠ .active ∨ allBound s.dp mem i = false then deny sBadState s
    else okay 0 (onDp (bindAll 0 mem) s)

/-- A share operation of an instance. -/
def isShare (i : Nat) (w : Work) : Bool := w == .share i

/-- INST_DESTROY (R287). -/
def cmdInstDestroy (instn : Byte) : Command where
  opcode := 0x0302
  queues := q01
  body := fun h s =>
    let i := instn.toNat
    if i = 0 ∨ 127 < i then deny sBadParam s
    else if (inst s.dp i).state ≠ .active ∨ s.dp.windows.any (fun x => x.1 / 64 == i) ∨
        s.dp.regions.any (fun x => x.2.owner.toNat == i) then deny sBadState s
    else startOp h 0x0302 (.destroy i) (fun t => endNow (isShare i) sAborted (onDp (destroyStop i) t)) s

/-- INST_RESET (R284). -/
def cmdInstReset (instn step : Byte) (drainUs : BitVec 16) : Command where
  opcode := 0x0303
  queues := q01
  body := fun h s =>
    let i := instn.toNat
    let x := inst s.dp i
    let host := hostMode s.dp fmInst
    if 127 < i ∨ 10000 < drainUs.toNat ∨ 2 < step.toNat then deny sBadParam s
    else if (step = 0) = host then deny sModeConflict s
    else if x.state = .free ∨ x.state = .destroying ∨ (step ≠ 2 ∧ x.state = .resetting) ∨
        (step = 2 ∧ (x.state ≠ .resetting ∨ x.stopped = false)) then deny sBadState s
    else if step = 1 then okay 0 (onDp (stopInst i .resetting) s)
    else if step = 0 then startOp h 0x0303 (.instReset i) (onDp (stopInst i .resetting)) s
    else startOp h 0x0303 (.instReset i) (onDp (Sys2Proof.Machine.squash i)) s

/-- INST_SHARE_SET (R280). -/
def cmdInstShareSet (instn : Byte) (share : BitVec 32) : Command where
  opcode := 0x0304
  queues := q01
  body := fun h s =>
    let i := instn.toNat
    let x := inst s.dp i
    let sh := decodeShare share
    if 127 < i ∨ shareBad sh then deny sBadParam s
    else if x.state = .free ∨ x.state = .destroying then deny sBadState s
    else if 64 ≤ slotsHeld s.dp then deny sNoResource s
    else acceptOp h 0x0304 (.share i) (onDp fun p => setInst p i { inst p i with staged := some (sh, p.clock) })
      (endNow (isShare i) sAborted s)

/-- The window's translated range crosses the top of the address space (R38). -/
def windowWraps (w : Window) : Bool :=
  (w.base.toNat + w.offset.toNat) / 2 ^ 41 != (w.limit.toNat + w.offset.toNat) / 2 ^ 41

/-- The window overlaps another of its instance. -/
def windowOverlaps (p : Plane) (i k : Nat) (w : Window) : Bool :=
  p.windows.any fun x => x.1 / 64 == i && x.1 % 64 != k && decide (w.base ≤ x.2.limit) && decide (x.2.base ≤ w.limit)

/-- INST_WINDOW_SET (R37, R38). -/
def cmdInstWindowSet (instn window : Byte) (entry : BitVec 256) : Command where
  opcode := 0x0305
  queues := q01
  body := fun _ s =>
    let i := instn.toNat
    let k := window.toNat
    let w := decodeWindow entry
    if 127 < i ∨ 63 < k ∨ w.limit < w.base ∨ windowWraps w ∨ (w.valid ∧ windowOverlaps s.dp i k w) then deny sBadParam s
    else if existsInst s.dp i = false then deny sBadState s
    else if w.valid ∧ 2048 ≤ s.dp.windows.length ∧ (tfind s.dp.windows (64 * i + k)).isNone then deny sNoResource s
    else okay 0 (onDp (fun p => { p with
      windows := if w.valid then tset p.windows (64 * i + k) w else tdel p.windows (64 * i + k) }) s)

/-- Ways of a slice locked to an instance. -/
def ownMask (x : Slice) (i : Nat) : BitVec 24 :=
  x.locks.foldl (fun m y => if y.2 = i then m ||| BitVec.ofNat 24 (2 ^ y.1) else m) 0

/-- RESULT of INST_STATUS (Table 12.14). -/
def instStatusImage (p : Plane) (i part : Nat) : BitVec 192 :=
  let x := inst p i
  match part with
  | 0 =>
    let staged := match x.staged with
      | some y => (encodeShare y.1).toNat
      | none => 0
    fields [(0, 8, instCode x.state), (8, 8, x.gen.toNat), (16, 8, (p.windows.filter fun y => y.1 / 64 == i).length),
      (24, 1, bit x.staged.isSome), (32, 32, (encodeShare x.share).toNat), (64, 32, staged),
      (96, 16, ((List.range 4).map fun t => poolUse p t i).sum)]
  | 1 => ((members p i).extractLsb' 0 128).setWidth 192
  | 2 => ((members p i).extractLsb' 128 128).setWidth 192
  | k => fields ((List.range 8).map fun n => (24 * n, 24, (ownMask (slice p (8 * (k - 3) + n)) i).toNat))

/-- INST_STATUS (R288). -/
def cmdInstStatus (instn part : Byte) : Command where
  opcode := 0x0306
  body := fun _ s =>
    if 127 < instn.toNat ∨ 10 < part.toNat then deny sBadParam s
    else okay (instStatusImage s.dp instn.toNat part.toNat) s

/-! ### Rows -/

/-- INST_CREATE (R273). -/
def execInstCreate (h : Hdr) (instn op : Byte) (share : BitVec 32) (mem : BitVec 256) (s : State) :
    Host.Outcome State Fault Refusal :=
  .next (direct h (cmdInstCreate instn op share mem) s)
/-- INST_DESTROY (R287). -/
def execInstDestroy (h : Hdr) (instn : Byte) (s : State) : Host.Outcome State Fault Refusal :=
  .next (direct h (cmdInstDestroy instn) s)
/-- INST_RESET (R284). -/
def execInstReset (h : Hdr) (instn step : Byte) (drainUs : BitVec 16) (s : State) : Host.Outcome State Fault Refusal :=
  .next (direct h (cmdInstReset instn step drainUs) s)
/-- INST_SHARE_SET (R280). -/
def execInstShareSet (h : Hdr) (instn : Byte) (share : BitVec 32) (s : State) : Host.Outcome State Fault Refusal :=
  .next (direct h (cmdInstShareSet instn share) s)
/-- INST_WINDOW_SET (R38). -/
def execInstWindowSet (h : Hdr) (instn window : Byte) (entry : BitVec 256) (s : State) : Host.Outcome State Fault Refusal :=
  .next (direct h (cmdInstWindowSet instn window entry) s)
/-- INST_STATUS (R288). -/
def execInstStatus (h : Hdr) (instn part : Byte) (s : State) : Host.Outcome State Fault Refusal :=
  .next (direct h (cmdInstStatus instn part) s)

end Sys2Proof.Machine
end

