-- ==== Sys2Proof/Machine/PerturbCommands.lean ====
section
/-! DEFINITION. Perturbation and error injection (R350 to R356). -/
namespace Sys2Proof.Machine
open Sys2Proof

/-! ### Perturbation -/

/-- Targets of an engine number (Table 15.1). -/
def engineTargets (engine : Nat) : Nat := if engine = 4 then 64 else if engine = 5 then 16 else 32

/-- A setting of an engine, with what it holds and withholds; a SEED of 0 is replaced (R352, R353). -/
def setEngineTo (e : Engine) (mode value vmax : Nat) (pattern seed : BitVec 64) : Engine :=
  { e with mode := mode, value := value, valMax := vmax, pattern := pattern,
           gen := if seed = 0 then 0x9E3779B97F4A7C15 else seed }

/-- What a smaller depth of the reorder engine no longer holds is sent on in arrival order (R352). -/
def shrink (pt : Port) : Port :=
  let e := engineOf pt 2
  let n := e.held.length - e.value
  setEngine { pt with txq := pt.txq ++ (e.held.take n).map (·.2) } 2 { e with held := e.held.drop n }

/-- Engine `n` of a port set. -/
def perturbPort (i n mode value vmax : Nat) (pattern seed : BitVec 64) (p : Plane) : Plane :=
  if mode = 0 then clearEngine i n p
  else
    let pt := port p i
    let e := setEngineTo (engineOf pt n) mode value vmax pattern seed
    if n = 1 then
      let x := periodOf { e with bit := 0 }
      let e := { x.2 with period := x.1 }
      if e.pattern.getLsbD 0 then setPort p i (setEngine pt 1 e)
      else
        let pt := setEngine pt 1 { e with keptReq := 0, keptDat := 0 }
        setPort p i (returnCredits pt { req := e.keptReq, dat := e.keptDat })
    else if n = 2 then pump i (setPort p i (shrink (setEngine pt 2 e)))
    else setPort p i (setEngine pt n e)

/-- One engine set. -/
def perturb (engine t mode value vmax : Nat) (pattern seed : BitVec 64) (p : Plane) : Plane :=
  if engine < 4 then perturbPort t engine mode value vmax pattern seed p
  else if engine = 4 then
    if mode = 0 then clearChan t p
    else setChan p t { chan p t with engine := setEngineTo (chan p t).engine mode value vmax pattern seed }
  else
    let l := link p t
    if mode = 0 then
      setLink p t { l with engine := {}, retry := l.engine.held.foldl (fun r x => sendFlit r x.2) l.retry }
    else setLink p t { l with engine := setEngineTo l.engine mode value vmax pattern seed }

/-- PERTURB_SET (R352). -/
def cmdPerturbSet (engine target mode : Byte) (value valueMax : BitVec 16) (pattern seed : BitVec 64) : Command where
  opcode := 0x0901
  queues := q03
  keyed := true
  noLock := true
  body := fun _ s =>
    let n := engine.toNat
    if 5 < n ∨ engineTargets n ≤ target.toNat ∨ 2 < mode.toNat ∨ (mode = 2 ∧ valueMax < value) ∨
        (n = 2 ∧ 63 < value.toNat) ∨ (n = 1 ∧ pattern = BitVec.allOnes 64) then deny sBadParam s
    else okay 0 (onDp (perturb n target.toNat mode.toNat value.toNat valueMax.toNat pattern seed) s)

/-- PERTURB_CLEAR (R354). -/
def cmdPerturbClear : Command where
  opcode := 0x0902
  queues := q03
  body := fun _ s => okay 0 (onDp clearAll s)

/-! ### Error injection -/

/-- The stored word of the line where it lies now, with 0xFF in every symbol named (Table 15.2, kind 0). -/
def corruptDram (line : Nat) (symbols : BitVec 72) (p : Plane) : Plane :=
  let l := place p line
  let base := (l.1 * chanSpan + l.2) * 72
  let named := (List.range 72).filter fun k => symbols.getLsbD k
  { p with dram := named.foldl (fun (t : Table Byte) k => tput 0 t (base + k) (tget 0 t (base + k) ^^^ 0xFF)) p.dram }

/-- The bits that a kind 1 injection flips. -/
def flipMask (bit0 bit1 : Nat) : BitVec 72 :=
  (if bit0 < 72 then BitVec.ofNat 72 (2 ^ bit0) else 0) ^^^ (if bit1 < 72 then BitVec.ofNat 72 (2 ^ bit1) else 0)

/-- The SRAM word of a kind 1 injection: its table and key; none where the line is absent or has no entry. -/
def sramWord (p : Plane) (line word : Nat) : Option (Bool × Nat) :=
  if word < 9 then (lookup p line).map fun x => (true, wayKey (sliceOf line) (cSet (lineCl line)) x.1 * 9 + word)
  else (dirFind p line).map fun x => (false, 2 * dKey (lineTile line) (dSet line) x.1 + (if word = 9 then 1 else 0))

/-- Bits of a SRAM word inverted (kind 1). -/
def corruptSram (key : Bool × Nat) (m : BitVec 72) (p : Plane) : Plane :=
  if key.1 then { p with sramFlips := tput 0 p.sramFlips key.2 (tget 0 p.sramFlips key.2 ^^^ m) }
  else { p with dirFlips := tput 0 p.dirFlips key.2 (tget 0 p.dirFlips key.2 ^^^ m) }

/-- The home copy poisoned: the DRAM copy written as poison, POISON set in a slice copy (kind 2). -/
def corruptHome (job line : Nat) (p : Plane) : Plane :=
  let q := dmcWrite (some job) { wr := true, line := line, raw := 0, data := 0, poison := true } p
  match lookup q line with
  | none => q
  | some x => putWay q (sliceOf line) (cSet (lineCl line)) x.1 { x.2 with poison := true }

/-- What keeps a kind 0 to 2 injection from acting (R356). -/
def injectBad (p : Plane) (kind line word : Nat) : Bool :=
  match kind with
  | 0 => chanDown p line || evacuated' p line
  | 1 => (sramWord p line word).isNone
  | _ => false
where
  /-- The line's channel is EVACUATED. -/
  evacuated' (p : Plane) (line : Nat) : Bool :=
    let e := evacOf p (lineTile line)
    (chan p (16 * lineTile line + lineChan line)).state == .down || (e.state == 2 && e.chan == lineChan line)

/-- An injection of kind 0 to 2 acts on its line, which the internal operation `job` holds. -/
def injectAct (job kind line : Nat) (symbols : BitVec 72) (word bit0 bit1 : Nat) (s : State) : Ret :=
  let done := fun (f : Plane → Plane) => okay 0 (onDp (fun p => finish job (f p)) s)
  if injectBad s.dp kind line word then deny sBadState (onDp (finish job) s)
  else match kind with
    | 0 => done (corruptDram line symbols)
    | 1 => match sramWord s.dp line word with
      | none => deny sBadState (onDp (finish job) s)
      | some k => done (corruptSram k (flipMask bit0 bit1))
    | _ => done (corruptHome job line)

/-- A write of the line waits for the array, so that a read of the stored word would not see it (R189). -/
def writeWaits (p : Plane) (line : Nat) : Bool :=
  p.chans.any fun x => (x.2.wq ++ x.2.wait).any fun a => a.wr && a.line == line

/-- An injection may act: it holds its line, and for kind 0 no write of it is still on its way to the array. -/
def injectMay (p : Plane) (job kind line : Nat) : Bool := holdsLine p job && !(kind == 0 && writeWaits p line)

/-- A bit position of a kind 1 injection exists. -/
def bitOk (word b : Nat) : Bool := b == 255 || (decide (b < 72) && !(word == 8 && decide (40 ≤ b ∧ b < 64)))

/-- The parameters of an injection are out of range (R356). -/
def injectParam (p : Plane) (kind target count : Nat) (spa : Spa) (symbols : BitVec 72) (word bit0 bit1 : Nat) : Bool :=
  match kind with
  | 0 => spaNode spa != p.dw.node || symbols == 0
  | 1 => spaNode spa != p.dw.node || decide (10 < word) || !(bitOk word bit0) || !(bitOk word bit1) || bit0 == bit1
  | 2 => spaNode spa != p.dw.node
  | 3 => decide (47 < target ∨ count = 0)
  | _ => true

/-- The link of a kind 3 injection is ACTIVE. -/
def injectLinkUp (p : Plane) (target : Nat) : Bool :=
  if target < 32 then (port p target).state == .active else (link p (target - 32)).state == .active

/-- The codewords to be corrupted on a link (kind 3). -/
def injectLink (target count : Nat) (p : Plane) : Plane :=
  if target < 32 then setPort p target { port p target with retry := { (port p target).retry with inject := count } }
  else setLink p (target - 32) { link p (target - 32) with retry := { (link p (target - 32)).retry with inject := count } }

/-- ERR_INJECT (R355, R356). -/
def cmdErrInject (kind target : Byte) (count : BitVec 16) (spa : Spa) (symbols : BitVec 72) (word bit0 bit1 : Byte) :
    Command where
  opcode := 0x0903
  queues := q03
  keyed := true
  noLock := true
  body := fun h s =>
    let k := kind.toNat
    let line := spaLine spa
    if injectParam s.dp k target.toNat count.toNat spa symbols word.toNat bit0.toNat bit1.toNat then deny sBadParam s
    else if k = 3 then
      if injectLinkUp s.dp target.toNat then okay 0 (onDp (injectLink target.toNat count.toNat) s) else deny sBadState s
    else if injectBad s.dp k line word.toNat then deny sBadState s
    else
      let id := s.dp.nextJob
      let t := onDp (reachIntern .command line 0) s
      if injectMay t.dp id k line then injectAct id k line symbols word.toNat bit0.toNat bit1.toNat t
      else waits { queue := h.queue, seq := h.seq, opcode := 0x0903, job := id, replyOk := h.replyOk,
                   work := .inject k line symbols word.toNat bit0.toNat bit1.toNat } t

/-! ### Rows -/

/-- PERTURB_SET (R352). -/
def execPerturbSet (h : Hdr) (engine target mode : Byte) (value valueMax : BitVec 16) (pattern seed : BitVec 64) (s : State) :
    Host.Outcome State Fault Refusal :=
  .next (direct h (cmdPerturbSet engine target mode value valueMax pattern seed) s)
/-- PERTURB_CLEAR (R354). -/
def execPerturbClear (h : Hdr) (s : State) : Host.Outcome State Fault Refusal := .next (direct h cmdPerturbClear s)
/-- ERR_INJECT (R355). -/
def execErrInject (h : Hdr) (kind target : Byte) (count : BitVec 16) (spa : Spa) (symbols : BitVec 72) (word bit0 bit1 : Byte)
    (s : State) : Host.Outcome State Fault Refusal :=
  .next (direct h (cmdErrInject kind target count spa symbols word bit0 bit1) s)

end Sys2Proof.Machine
end

