-- ==== Sys2Proof/Machine/LongOps.lean ====
section
/-! DEFINITION. How long operations end, and the command that waits for a busy line (R131 to R133, R141, R142, R146, R149, R211,
R231, R268, R302, R309, R348, R355, R414, R417, R444). -/
namespace Sys2Proof.Machine
open Sys2Proof

/-- An operation ends with a status, and its completion goes out. -/
def endWith (o : LongOp) (status : BitVec 8) (s : State) : State := sendDone o.id (onDp (endOp o.id status) s)

/-- OK, or PARTIAL when something was skipped. -/
def partialIf (n : Nat) : BitVec 8 := if n = 0 then sOk else sPartial

/-! ### Way retirement and disable -/

/-- The way is retired, its lock removed with it, and the flash records it (R149, R150). -/
def wayRetired (n w : Nat) (p : Plane) : Plane :=
  let m : BitVec 24 := BitVec.ofNat 24 (2 ^ w)
  let x := slice p n
  setSlice { p with flashWays := tput 0 p.flashWays n (tget 0 p.flashWays n ||| m) } n
    { x with retired := x.retired ||| m, retiring := x.retiring &&& ~~~m, locks := tdel x.locks w }

/-- The cache is disabled, and the retirements that waited for it go on (R146, R303). -/
def cacheOff (p : Plane) : Plane := retryWaits (disabled p)

/-! ### Leaving (R268) -/

/-- A step of leaving has ended, with its completion: hardware mode goes on with the next, until step 4 (R268). -/
def leaveStep (o : LongOp) (k : Nat) (all : Bool) (s : State) : State :=
  let t := onDp (fun p => { p with dw := { p.dw with leaveDone := k, leaving := false } }) s
  if all ∧ k < 4 then
    sendStep o sOk (onDp (fun p => beginLeave (k + 1) (setOp p { o with work := .leave (k + 1) true, cursor := 0, inHand := 0 })) t)
  else endWith o sOk t

/-! ### Firmware (R414, R417) -/

/-- Byte `k` of a slot; what has never been written reads as 0xFF. -/
def slotByte (x : FwSlot) (k : Nat) : Byte := tget 0xFF x.bytes k
/-- A little-endian word of a slot. -/
def slotWord (x : FwSlot) (k : Nat) : Nat :=
  (slotByte x k).toNat + 256 * (slotByte x (k + 1)).toNat + 65536 * (slotByte x (k + 2)).toNat +
    16777216 * (slotByte x (k + 3)).toNat

/-- Bytes written to a slot from an offset on. -/
def slotWrite (x : FwSlot) (off : Nat) (bytes : List Byte) : FwSlot :=
  { x with bytes := (bytes.foldl (fun (t : Table Byte × Nat) b => (tput 0xFF t.1 t.2 b, t.2 + 1)) (x.bytes, off)).1 }

/-- The image in a slot is valid (R414): its header bytes 0x00 to 0x0F, the bytes from 0x200 on, and its signature. -/
def imageValid (x : FwSlot) : Bool :=
  let len := slotWord x 8
  slotWord x 0 == 0x594E5841 && decide (512 ≤ len ∧ len ≤ slotSize) &&
    Config.signatureHolds (((List.range 16).map (slotByte x)) ++
      ((List.range (len - 512)).map fun k => slotByte x (512 + k)) ++ ((List.range 96).map fun k => slotByte x (16 + k)))

/-- The staged bytes are in the slot, which FINAL verifies. -/
def stageEnd (o : LongOp) (s : State) : State :=
  match s.mg.stage with
  | none => endWith o sOk s
  | some (off, _, bytes, final) =>
    let n := inactiveSlot s.mg
    let x := slotWrite (slotOf s.mg n) off bytes
    let ok := final && imageValid x
    let m := setSlot s.mg n { x with valid := ok, version := BitVec.ofNat 32 (slotWord x 4) }
    endWith o (if final && !ok then sDenied else sOk) { s with mg := { m with stage := none } }

/-! ### Snapshots (R348) -/

/-- The latched values of a snapshot are written from DEST on, 8 B each. -/
def snapEnd (o : LongOp) (s : State) : State :=
  match s.mg.latched.find? fun x => x.1 == o.id with
  | none => s
  | some (_, dest, values) =>
    if hostOn s = false then s
    else
      let w := values.foldl (fun (t : Table (BitVec 64) × Nat) v => (tput 0 t.1 (t.2 % 2 ^ 64) v, t.2 + 8)) (s.mg.dumps, dest)
      endWith o sOk { s with mg := { s.mg with dumps := w.1, latched := s.mg.latched.filter fun x => !(x.1 == o.id) } }

/-! ### The end of an operation -/

/-- A walk has examined all it has to, with no line in hand. -/
def walked (o : LongOp) (p : Plane) : Bool := (nextWayFor p o).isNone && o.inHand == 0

/-- No write waits for a DMC write-queue entry (R146). -/
def writesQueued (p : Plane) : Bool := p.chans.all fun x => !x.2.wait.any fun a => a.wr

/-- A running operation whose work is done ends, or goes on with its next stage; any other is left as it is. -/
def finishWork (o : LongOp) (s : State) : State :=
  match o.work with
  | .clean _ _ | .cleanAll | .inval _ _ _ | .clinv _ _ =>
    if walked o s.dp then endWith o (partialIf o.c) s else s
  | .wayLock _ _ => if walked o s.dp then endWith o sOk s else s
  | .pin _ _ lines _ => if lines ≤ o.cursor ∧ o.inHand = 0 then endWith o (partialIf o.b) s else s
  | .retire t n w =>
    if walked o s.dp then endWith o sOk (onDp (wayRetired (16 * t + n) w) s) else s
  | .disable => if walked o s.dp && writesQueued s.dp then endWith o sOk (onDp cacheOff (onDp (endOp o.id sOk) s)) else s
  | .linkUp j => if (link s.dp j).state = .active then endWith o sOk s else s
  | .linkTrain i => if (port s.dp i).state = .active then endWith o sOk s else s
  | .leave k all => if leaveEnded k o s.dp then leaveStep o k all s else s
  | .evac ch => if evacuated s.dp ch then endWith o sOk s else s
  | .range _ lines => if lines ≤ o.cursor ∧ o.inHand = 0 then endWith o sOk s else s
  | .fwStage => stageEnd o s
  | .snapshot _ _ _ _ => snapEnd o s
  | .power n => stepPower o n s
  | .warmReset _ => stepWarm o s
  | .domain _ _ => endWith o sOk s
  | .train chs _ => if chs &&& ~~~o.mask = 0 then endWith o (partialIf o.a) s else s
  | .instReset _ | .destroy _ | .share _ | .commit | .pageRetire _ _ _ | .plan | .approve _ => s

/-- LONG_OPERATION_COMPLETE: an operation whose work is done ends, and its completion goes out (R302). -/
def execLongOperationComplete (op : Nat) (s : State) : Host.Outcome State Fault Refusal :=
  .next (match op? s.dp op with
    | none => s
    | some o =>
      if o.ended.isNone then settled (finishWork o s)
      else if s.mg.warm ∧ afterWarm o.work then s
      else sendDone op s)

/-- TRAINING_COMMAND_TIMEOUT: a LINK_TRAIN or JOIN_LINK_UP whose link is not ACTIVE 1 s after acceptance (R309, R444). -/
def execTrainingCommandTimeout (op : Nat) (s : State) : Host.Outcome State Fault Refusal :=
  .next (match op? s.dp op with
    | none => s
    | some o =>
      if o.ended.isSome then s
      else match o.work with
        | .linkUp j => if (link s.dp j).state = .active then s else endWith o sTimeout s
        | .linkTrain i => if (port s.dp i).state = .active then s else endWith o sTimeout s
        | _ => s)

/-! ### A command that waits for a busy line (R142, R355) -/

/-- The waiting command ends with its reply, unless it waits again. -/
def heldReply (h : HeldCmd) (r : Ret) : State :=
  match r.2 with
  | none => r.1
  | some (st, res) =>
    let t : State := { r.1 with mg := { r.1.mg with held := none } }
    if h.mute then t else replyTo h.queue h.replyOk h.opcode st h.seq res t

/-- The waiting command acts once it holds its line; where the way it names holds no line, or another, any longer, it begins anew. -/
def retryHeld (s : State) : State :=
  match s.mg.held with
  | none => s
  | some h => match h.work with
    | .setway n set way op ok =>
      let now := setwayLine s.dp n set way
      if now.isNone ∨ (holdsLine s.dp h.job ∧ (job? s.dp h.job).map (·.line) ≠ now) then
        heldReply h (setwayTry h n set way op ok (onDp (leaveLine h.job) s))
      else if holdsLine s.dp h.job then heldReply h (setwayAct h.job n set way op ok s)
      else s
    | .inject kind line symbols word bit0 bit1 =>
      if injectMay s.dp h.job kind line then heldReply h (injectAct h.job kind line symbols word bit0 bit1 s) else s

/-- BUSY_LINE_TIMEOUT: the line is still busy 90 µs after the command's start: TIMEOUT, and nothing is done (R142, R355). -/
def execBusyLineTimeout (s : State) : Host.Outcome State Fault Refusal :=
  .next (match s.mg.held with
    | none => s
    | some h => heldReply h (onDp (leaveLine h.job) s, some (sTimeout, 0)))

end Sys2Proof.Machine
end

