-- ==== Sys2Proof/Machine/OdoCommands.lean ====
section
/-! DEFINITION. Odometer commands: counters, snapshots and histograms (R342 to R348, Tables 14.5 and 14.6). -/
namespace Sys2Proof.Machine
open Sys2Proof

/-- The counter event codes of Table 14.5. -/
def counterCodes : List Nat :=
  [0x0001, 0x0002, 0x0003, 0x0004, 0x0005, 0x1001, 0x1002, 0x1003, 0x1004, 0x1005, 0x1006, 0x2001, 0x2002, 0x2003, 0x2004,
   0x2005, 0x2006, 0x3001, 0x3002, 0x3003, 0x3004, 0x4001, 0x4002, 0x4003, 0x4004, 0x4005, 0x4006, 0x4007, 0x5001, 0x5002,
   0x5003, 0x5004, 0x6001, 0x6002, 0x6003, 0x7001, 0x7002, 0x7003, 0xF001]

/-- The filters of a packet (Table 12.12). -/
def decodeFilter (flags : BitVec 6) (f : BitVec 256) : Filter :=
  { privEn := flags.getLsbD 3, priv := flags.getLsbD 4, agent := f.extractLsb' 0 22, agentMask := f.extractLsb' 32 22,
    addrLo := f.extractLsb' 64 53, addrHi := f.extractLsb' 128 53, mclassMask := f.extractLsb' 192 6,
    classMask := f.extractLsb' 200 4, opcodeMask := f.extractLsb' 224 32 }

/-- Counters other than one that are assigned to an instance. -/
def countersOf (p : Plane) (n i : Nat) : Nat := (p.counters.filter fun x => x.1 != n && x.2.userEn && x.2.user == i).length

/-- ODO_CONFIG (R342). -/
def cmdOdoConfig (counter event : BitVec 16) (flags : BitVec 6) (user : Byte) (filters : BitVec 256) : Command where
  opcode := 0x0801
  body := fun _ s =>
    let n := counter.toNat
    let i := (user.extractLsb' 0 7).toNat
    let userEn := user.getLsbD 7
    if 1023 < n ∨ counterCodes.contains event.toNat = false ∨ (flags.getLsbD 1 ∧ n % 256 = 255) then deny sBadParam s
    else if userEn ∧ (inst s.dp i).state = .free then deny sBadState s
    else if userEn ∧ 512 ≤ countersOf s.dp n i then deny sNoResource s
    else
      let c := tget {} s.dp.counters n
      let c' : Counter := { c with
        event := event, enable := flags.getLsbD 0, chain := flags.getLsbD 1, sample := flags.getLsbD 2, userEn := userEn,
        user := i, filter := decodeFilter flags filters, value := if flags.getLsbD 5 then 0 else c.value }
      okay 0 (onDp (fun p => { p with counters := tput {} p.counters n c' }) s)

/-- ODO_SNAPSHOT (R348). -/
def cmdOdoSnapshot (first count : BitVec 16) (clear : Bool) (dest : BitVec 64) : Command where
  opcode := 0x0802
  body := fun h s =>
    let f := first.toNat
    let n := count.toNat
    if n = 0 ∨ 1024 < f + n ∨ dest.extractLsb' 0 3 ≠ 0 then deny sBadParam s
    else startOp h 0x0802 (.snapshot f n dest clear) id s

/-- HIST_CONFIG (R347). -/
def cmdHistConfig (hist : Byte) (event : BitVec 16) (flags : BitVec 6) (filters : BitVec 256) : Command where
  opcode := 0x0803
  body := fun _ s =>
    let n := hist.toNat
    if 63 < n ∨ event = 0 ∨ 7 < event.toNat then deny sBadParam s
    else
      let x := tget {} s.dp.hists n
      let x' : Hist := { x with event := event, enable := flags.getLsbD 0, filter := decodeFilter flags filters,
                                bins := if flags.getLsbD 5 then [] else x.bins }
      okay 0 (onDp (fun p => { p with hists := tput {} p.hists n x' }) s)

/-- ODO_CONFIG (R342). -/
def execOdoConfig (h : Hdr) (counter event : BitVec 16) (flags : BitVec 6) (user : Byte) (filters : BitVec 256) (s : State) :
    Host.Outcome State Fault Refusal :=
  .next (direct h (cmdOdoConfig counter event flags user filters) s)
/-- ODO_SNAPSHOT (R348). -/
def execOdoSnapshot (h : Hdr) (first count : BitVec 16) (clear : Bool) (dest : BitVec 64) (s : State) :
    Host.Outcome State Fault Refusal :=
  .next (direct h (cmdOdoSnapshot first count clear dest) s)
/-- HIST_CONFIG (R347). -/
def execHistConfig (h : Hdr) (hist : Byte) (event : BitVec 16) (flags : BitVec 6) (filters : BitVec 256) (s : State) :
    Host.Outcome State Fault Refusal :=
  .next (direct h (cmdHistConfig hist event flags filters) s)

end Sys2Proof.Machine
end

