-- ==== Sys2Proof/Machine/Packets.lean ====
section
/-! DEFINITION. Command packets: their parameters at the offsets of Tables 12.8 to 12.13, and the interpreter's rounds (R292, R299,
R300, R307, R308). -/
namespace Sys2Proof.Machine
open Sys2Proof

/-- `w` bits of a packet from a byte offset on. -/
def pk (x : BitVec 512) (off w : Nat) : BitVec w := x.extractLsb' (8 * off) w
/-- Bit 0 of the byte at an offset. -/
def pkBit (x : BitVec 512) (off : Nat) : Bool := x.getLsbD (8 * off)

/-- Device and cache commands (Table 12.8). -/
def packetCache (x : BitVec 512) : Option Command :=
  match (pk x 0 16).toNat with
  | 0x0101 => some cmdDevInfo
  | 0x0102 => some cmdDevStatus
  | 0x0110 => some cmdDevResetWarm
  | 0x0111 => some (cmdDevPowerState (pk x 8 8))
  | 0x0120 => some (cmdFuncModeSet (pk x 8 8) (pkBit x 9))
  | 0x0121 => some cmdFuncModeGet
  | 0x0140 => some (cmdRegionSet (pk x 8 8) (pk x 0x10 128))
  | 0x0141 => some (cmdRegionGet (pk x 8 8))
  | 0x0201 => some cmdCacheEnable
  | 0x0202 => some cmdCacheDisable
  | 0x0203 => some cmdCacheInvalidateAll
  | 0x0204 => some cmdCacheCleanAll
  | 0x0210 => some (cmdCleanRange (pk x 0x10 53) (pk x 0x18 34))
  | 0x0211 => some (cmdInvalRange (pkBit x 8) (pk x 0x10 53) (pk x 0x18 34))
  | 0x0212 => some (cmdClinvRange (pk x 0x10 53) (pk x 0x18 34))
  | 0x0218 => some (cmdSetway (pk x 8 8) (pk x 9 8) (pk x 0xA 16) (pk x 0xC 8) (pk x 0xD 8) (pkBit x 0xE))
  | 0x0220 => some (cmdWayLock (pk x 8 8) (pk x 0xC 24) (pk x 0x10 64))
  | 0x0221 => some (cmdWayUnlock (pk x 8 8) (pk x 0xC 24) (pk x 0x10 64))
  | 0x0222 => some (cmdLinePin (pk x 8 8) (pkBit x 9) (pk x 0xC 32) (pk x 0x10 53))
  | 0x0228 => some (cmdWayRetire (pk x 8 8) (pk x 9 8) (pk x 0xA 8) (pkBit x 0xB))
  | 0x0230 => some (cmdReplayDescSet (pk x 8 8) (pk x 0x10 256))
  | _ => none

/-- Instance and join commands (Tables 12.9 and 12.10). -/
def packetJoin (x : BitVec 512) : Option Command :=
  match (pk x 0 16).toNat with
  | 0x0301 => some (cmdInstCreate (pk x 8 8) (pk x 9 8) (pk x 0xC 32) (pk x 0x10 256))
  | 0x0302 => some (cmdInstDestroy (pk x 8 8))
  | 0x0303 => some (cmdInstReset (pk x 8 8) (pk x 9 8) (pk x 0xC 16))
  | 0x0304 => some (cmdInstShareSet (pk x 8 8) (pk x 0xC 32))
  | 0x0305 => some (cmdInstWindowSet (pk x 8 8) (pk x 9 8) (pk x 0x10 256))
  | 0x0306 => some (cmdInstStatus (pk x 8 8) (pk x 9 8))
  | 0x0401 => some (cmdJoinNodeIdSet (pk x 8 16))
  | 0x0402 => some (cmdJoinLinkUp (pk x 8 8) (pkBit x 9) (pk x 0xA 14))
  | 0x0403 => some (cmdJoinRouteSet (pkBit x 8) (pk x 9 8) (pk x 0xA 16) (pk x 0xC 16) (pk x 0x10 64) (pkBit x 0x18))
  | 0x0404 => some (cmdMapEpochPrepare (pk x 8 16) (pk x 0xA 8) (pk x 0x10 256))
  | 0x0405 => some (cmdMapEpochCommit (pk x 8 16) (pk x 0x10 64))
  | 0x0406 => some (cmdNodeLeave (pk x 8 8))
  | _ => none

/-- Memory and integrity commands (Table 12.11). -/
def packetMem (x : BitVec 512) : Option Command :=
  match (pk x 0 16).toNat with
  | 0x0501 => some (cmdMemTrain (pk x 8 8) (pk x 0x10 64))
  | 0x0502 => some (cmdMemChannelEvacuate (pk x 8 8) (pkBit x 9))
  | 0x0503 => some (cmdMemPageRetire (pk x 8 8) (pk x 9 8) (pk x 0xA 8) (pk x 0xC 32) (pk x 0x10 53))
  | 0x0601 => some (cmdEccScrubCfg (pk x 8 8) (pk x 9 8) (pk x 0xA 8) (pk x 0x10 53) (pk x 0x18 34))
  | 0x0602 => some (cmdEccCountRead (pk x 8 8) (pk x 9 8) (pk x 0xA 8) (pkBit x 0xB))
  | _ => none

/-- Kiln and Odometer commands (Table 12.12). -/
def packetKiln (x : BitVec 512) : Option Command :=
  match (pk x 0 16).toNat with
  | 0x0701 => some (cmdMarginReplan (pk x 8 8) (pk x 0xC 32) (pk x 0x10 128))
  | 0x0702 => some (cmdMarginLedgerRead (pk x 8 16))
  | 0x0703 => some (cmdThermalCfg (pk x 8 8) (pk x 0xA 16) (pk x 0xC 16))
  | 0x0704 => some (cmdDomainPower (pk x 8 8) (pkBit x 9))
  | 0x0801 => some (cmdOdoConfig (pk x 8 16) (pk x 0xA 16) (pk x 0xC 6) (pk x 0xD 8) (pk x 0x10 256))
  | 0x0802 => some (cmdOdoSnapshot (pk x 8 16) (pk x 0xA 16) (pkBit x 0xC) (pk x 0x10 64))
  | 0x0803 => some (cmdHistConfig (pk x 8 8) (pk x 0xA 16) (pk x 0xC 6) (pk x 0x10 256))
  | _ => none

/-- Perturbation, firmware and link commands (Table 12.13); `bytes` is what the host memory that FW_STAGE names holds. -/
def packetUnit (x : BitVec 512) (bytes : List Byte) : Option Command :=
  match (pk x 0 16).toNat with
  | 0x0901 => some (cmdPerturbSet (pk x 8 8) (pk x 9 8) (pk x 0xA 8) (pk x 0xC 16) (pk x 0xE 16) (pk x 0x10 64) (pk x 0x18 64))
  | 0x0902 => some cmdPerturbClear
  | 0x0903 => some (cmdErrInject (pk x 8 8) (pk x 9 8) (pk x 0xA 16) (pk x 0x10 53) (pk x 0x18 72) (pk x 0x21 8) (pk x 0x22 8)
      (pk x 0x23 8))
  | 0x0A01 => some (cmdFwStage (pk x 8 32) (pk x 0xC 32) (pk x 0x10 64) (pkBit x 0x18) bytes)
  | 0x0A02 => some (cmdFwActivate (pk x 8 8) (pk x 9 8))
  | 0x0A03 => some cmdFwInfo
  | 0x0B01 => some cmdSaggerStatus
  | 0x0C01 => some (cmdLinkTrain (pk x 8 8) (pk x 9 8))
  | 0x0C02 => some (cmdLinkStatus (pk x 8 8) (pk x 9 8))
  | _ => none

/-- The command a packet gives; none where its opcode is not in Table 12.7. -/
def packetCmd (x : BitVec 512) (bytes : List Byte) : Option Command :=
  match packetCache x, packetJoin x, packetMem x, packetKiln x, packetUnit x bytes with
  | some c, _, _, _, _ => some c
  | none, some c, _, _, _ => some c
  | none, none, some c, _, _ => some c
  | none, none, none, some c, _ => some c
  | none, none, none, none, c => c

/-- A fetched packet is started and answered (Table 12.3). -/
def startPacket (q : Fin 5) (ok : Bool) (x : BitVec 512) (bytes : List Byte) (s : State) : State :=
  let h : Hdr := { queue := q, seq := pk x 4 32, key := pk x 2 16, replyOk := ok }
  match packetCmd x bytes with
  | none => replyTo q ok (pk x 0 16) sBadOpcode (pk x 4 32) 0 s
  | some c => conclude h c.opcode (perform' h c s)

/-- The packet that a queue's next command is fetched from. -/
def nextPacket (m : Mgmt) (q : Nat) : BitVec 512 :=
  if q = 4 then m.spi.cmd.getD 0 else tget 0 (ring m q).packets (ring m q).sqHead.toNat

/-- COMMAND_START: the interpreter starts the next command of the queue whose turn it is; a fetch or a reply that fails stops the queue
(R295, R300, R331). -/
def execCommandStart (bytes : List Byte) (host : HostAccess) (s : State) : Host.Outcome State Fault Refusal :=
  .next (if mayStart s = false then s
    else match turnOf (queueReady s) s.mg.round with
      | none => s
      | some q =>
        let t : State := { s with mg := { s.mg with round := (q + 1) % 5 } }
        if q = 4 then
          startPacket 4 host.reply (nextPacket s.mg 4) bytes
            { t with mg := { t.mg with spi := { t.mg.spi with cmd := none } } }
        else if host.packet = false then
          hostFault q t
        else startPacket (Fin.ofNat 5 q) host.reply (nextPacket s.mg q) bytes t)

end Sys2Proof.Machine
end

