-- ==== Sys2Proof/Machine/Sideband.lean ====
section
/-! DEFINITION. The SMBus sideband, the JTAG port and VIO (R427, R433 to R437). -/
namespace Sys2Proof.Machine
open Sys2Proof

/-- Some island is in a throttle. -/
def throttled (k : Kiln) : Bool := (List.range 128).any fun i => (island k i).hard || decide ((island k i).soft < 2400)

/-- STATUS (Table 19.6). -/
def smbStatus (s : State) : Nat :=
  s.mg.power % 4 + 4 * bit (s.mg.life == .recovery) + 8 * bit s.mg.ready + 16 * bit s.mg.unclean + 32 * bit (throttled s.kn) +
    64 * bit s.side.thermtrip

/-- A register of Table 19.6, as bytes, low byte first; none for an unlisted code. -/
def smbRead (s : State) (code : Nat) : Option (List Byte) :=
  match code with
  | 0x00 => some (bytesOf 1 (smbStatus s))
  | 0x01 => some [s.side.alertStat]
  | 0x02 => some [s.side.alertMask]
  | 0x03 => some (bytesOf 2 s.side.tjMax.toNat)
  | 0x04 => some (bytesOf 2 (tget 0 s.side.tileTj 0).toNat)
  | 0x05 => some (bytesOf 2 (tget 0 s.side.tileTj 1).toNat)
  | 0x06 => some (bytesOf 2 (tget 0 s.side.tileTj 2).toNat)
  | 0x07 => some (bytesOf 2 (tget 0 s.side.tileTj 3).toNat)
  | 0x08 => some (bytesOf 2 s.side.vin.toNat)
  | 0x09 => some (bytesOf 2 s.side.pin.toNat)
  | 0x0A => some (bytesOf 2 s.side.alertTj.toNat)
  | 0x0B => some (bytesOf 2 s.side.alertPw.toNat)
  | 0x0C => some [BitVec.ofNat 8 (bit (s.dp.variant == .ms && s.sg.powered))]
  | 0x10 => some (bytesOf 2 0x1640 ++ [BitVec.ofNat 8 (bit (s.dp.variant == .ms)), s.mg.hwRev])
  | _ => none

/-- SMBUS_READ: the register's bytes; an unlisted code is NACKed (R433, R434). -/
def execSmbusRead (code : Byte) (s : State) : Host.Outcome State Fault Refusal :=
  .next (if s.mg.life = .noVin then s
    else match smbRead s code.toNat with
      | some bs => { s with side := { s.side with out := bs, nack := false } }
      | none => { s with side := { s.side with out := [], nack := true } })

/-- What a write leaves: ALERT_STAT W1C, ALERT_MASK, ALERT_TJ and ALERT_PW; other registers are read-only. -/
def smbPut (code : Nat) (v : BitVec 16) (x : Side) : Side :=
  match code with
  | 0x01 => { x with alertStat := x.alertStat &&& ~~~(v.setWidth 8) }
  | 0x02 => { x with alertMask := v.setWidth 8 }
  | 0x0A => { x with alertTj := v }
  | 0x0B => { x with alertPw := v }
  | _ => x

/-- SMBUS_WRITE: a wrong PEC or an unlisted code is NACKed (R434). -/
def execSmbusWrite (code : Byte) (value : BitVec 16) (pecOk : Bool) (s : State) : Host.Outcome State Fault Refusal :=
  .next (if s.mg.life = .noVin then s
    else if (smbRead s code.toNat).isNone ∨ pecOk = false then { s with side := { s.side with nack := true } }
    else { s with side := { smbPut code.toNat value s.side with nack := false } })

/-- ALERT_RESPONSE_ADDRESS: answered with 0xBC while ALERT_N is low, which it releases (R435). -/
def execAlertResponse (s : State) : Host.Outcome State Fault Refusal :=
  .next (if s.mg.life = .noVin then s
    else if s.side.alert then { s with side := { s.side with out := [0xBC], nack := false, alert := false } }
    else { s with side := { s.side with out := [], nack := true } })

/-- SMBUS_CLOCK_LOW_TIMEOUT: the transaction in progress is given up, and nothing of it is kept (R433). -/
def execSmbusClockLowTimeout (s : State) : Host.Outcome State Fault Refusal :=
  .next (if s.mg.life = .noVin then s else { s with side := { s.side with out := [] } })

/-- The instruction a loaded code selects: 0x40 to 0x7F are BYPASS under the debug lock, unlisted codes always (Table 19.7). -/
def tapCode (locked : Bool) (code : Byte) : Byte :=
  if code = 0 ∨ code = 1 ∨ code = 2 ∨ code = 3 then code
  else if 0x40 ≤ code.toNat ∧ code.toNat < 0x80 ∧ locked = false then code
  else 0xFF

/-- TAP_INSTRUCTION_LOAD: EXTEST, CLAMP and HIGHZ take the pins only while RST_N is low (R436, R437). -/
def execTapInstructionLoad (code : Byte) (rstLow : Bool) (s : State) : Host.Outcome State Fault Refusal :=
  let c := tapCode (locked s) code
  let takes := c = 0 ∨ c = 2 ∨ c = 3
  .next (if mgcOn s = false then s
    else if takes ∧ rstLow then { s with side := { s.side with ir := c, pins := some c, lapsed := false } }
    else { s with side := { s.side with ir := if takes then 0xFF else c, pins := none, lapsed := false } })

/-- VIO_CHANGE: the push-pull output stages gain or lose their supply (R427). -/
def execVioChange (present : Bool) (s : State) : Host.Outcome State Fault Refusal :=
  .next { s with side := { s.side with vio := present } }

end Sys2Proof.Machine
end

