-- ==== Sys2Proof/Machine/Dispatch.lean ====
section
/-! DEFINITION. What each command does: one arm for each constructor, in the order of the opcode table. -/
namespace Sys2Proof.Machine
open Sys2Proof

def exec (i : Instr) (s : State) : Host.Outcome State Fault Refusal :=
  match i with
  | .devInfo a => Sys2Proof.Machine.execDevInfo a s
  | .devStatus a => Sys2Proof.Machine.execDevStatus a s
  | .devResetWarm a => Sys2Proof.Machine.execDevResetWarm a s
  | .devPowerState a b => Sys2Proof.Machine.execDevPowerState a b s
  | .funcModeSet a b c => Sys2Proof.Machine.execFuncModeSet a b c s
  | .funcModeGet a => Sys2Proof.Machine.execFuncModeGet a s
  | .regionSet a b c => Sys2Proof.Machine.execRegionSet a b c s
  | .regionGet a b => Sys2Proof.Machine.execRegionGet a b s
  | .cacheEnable a => Sys2Proof.Machine.execCacheEnable a s
  | .cacheDisable a => Sys2Proof.Machine.execCacheDisable a s
  | .cacheInvalidateAll a => Sys2Proof.Machine.execCacheInvalidateAll a s
  | .cacheCleanAll a => Sys2Proof.Machine.execCacheCleanAll a s
  | .cacheCleanRange a b c => Sys2Proof.Machine.execCacheCleanRange a b c s
  | .cacheInvalRange a b c d => Sys2Proof.Machine.execCacheInvalRange a b c d s
  | .cacheClinvRange a b c => Sys2Proof.Machine.execCacheClinvRange a b c s
  | .cacheSetwayOp a b c d e f g => Sys2Proof.Machine.execCacheSetwayOp a b c d e f g s
  | .wayLock a b c d => Sys2Proof.Machine.execWayLock a b c d s
  | .wayUnlock a b c d => Sys2Proof.Machine.execWayUnlock a b c d s
  | .linePin a b c d e => Sys2Proof.Machine.execLinePin a b c d e s
  | .wayRetire a b c d e => Sys2Proof.Machine.execWayRetire a b c d e s
  | .replayDescSet a b c => Sys2Proof.Machine.execReplayDescSet a b c s
  | .instCreate a b c d e => Sys2Proof.Machine.execInstCreate a b c d e s
  | .instDestroy a b => Sys2Proof.Machine.execInstDestroy a b s
  | .instReset a b c d => Sys2Proof.Machine.execInstReset a b c d s
  | .instShareSet a b c => Sys2Proof.Machine.execInstShareSet a b c s
  | .instWindowSet a b c d => Sys2Proof.Machine.execInstWindowSet a b c d s
  | .instStatus a b c => Sys2Proof.Machine.execInstStatus a b c s
  | .joinNodeIdSet a b => Sys2Proof.Machine.execJoinNodeIdSet a b s
  | .joinLinkUp a b c d => Sys2Proof.Machine.execJoinLinkUp a b c d s
  | .joinRouteSet a b c d e f g => Sys2Proof.Machine.execJoinRouteSet a b c d e f g s
  | .mapEpochPrepare a b c d => Sys2Proof.Machine.execMapEpochPrepare a b c d s
  | .mapEpochCommit a b c => Sys2Proof.Machine.execMapEpochCommit a b c s
  | .nodeLeave a b => Sys2Proof.Machine.execNodeLeave a b s
  | .memTrain a b c => Sys2Proof.Machine.execMemTrain a b c s
  | .memChannelEvacuate a b c => Sys2Proof.Machine.execMemChannelEvacuate a b c s
  | .memPageRetire a b c d e f => Sys2Proof.Machine.execMemPageRetire a b c d e f s
  | .eccScrubCfg a b c d e f => Sys2Proof.Machine.execEccScrubCfg a b c d e f s
  | .eccCountRead a b c d e => Sys2Proof.Machine.execEccCountRead a b c d e s
  | .marginReplan a b c d => Sys2Proof.Machine.execMarginReplan a b c d s
  | .marginLedgerRead a b => Sys2Proof.Machine.execMarginLedgerRead a b s
  | .thermalCfg a b c d => Sys2Proof.Machine.execThermalCfg a b c d s
  | .domainPower a b c => Sys2Proof.Machine.execDomainPower a b c s
  | .odoConfig a b c d e f => Sys2Proof.Machine.execOdoConfig a b c d e f s
  | .odoSnapshot a b c d e => Sys2Proof.Machine.execOdoSnapshot a b c d e s
  | .histConfig a b c d e => Sys2Proof.Machine.execHistConfig a b c d e s
  | .perturbSet a b c d e f g h => Sys2Proof.Machine.execPerturbSet a b c d e f g h s
  | .perturbClear a => Sys2Proof.Machine.execPerturbClear a s
  | .errInject a b c d e f g h k => Sys2Proof.Machine.execErrInject a b c d e f g h k s
  | .fwStage a b c d e => Sys2Proof.Machine.execFwStage a b c d e s
  | .fwActivate a b c => Sys2Proof.Machine.execFwActivate a b c s
  | .fwInfo a => Sys2Proof.Machine.execFwInfo a s
  | .saggerStatus a => Sys2Proof.Machine.execSaggerStatus a s
  | .linkTrain a b c => Sys2Proof.Machine.execLinkTrain a b c s
  | .linkStatus a b c => Sys2Proof.Machine.execLinkStatus a b c s
  | .sqTail a b c => Sys2Proof.Machine.execSqTail a b c s
  | .rqHead a b => Sys2Proof.Machine.execRqHead a b s
  | .commandStart a b => Sys2Proof.Machine.execCommandStart a b s
  | .spiCmd a => Sys2Proof.Machine.execSpiCmd a s
  | .spiReply => Sys2Proof.Machine.execSpiReply s
  | .spiStat => Sys2Proof.Machine.execSpiStat s
  | .spiCompl => Sys2Proof.Machine.execSpiCompl s
  | .mtrStatus => Sys2Proof.Machine.execMtrStatus s
  | .mtrTime => Sys2Proof.Machine.execMtrTime s
  | .windowRead a => Sys2Proof.Machine.execWindowRead a s
  | .auditRead a => Sys2Proof.Machine.execAuditRead a s
  | .paramGet a b => Sys2Proof.Machine.execParamGet a b s
  | .paramSet a b c => Sys2Proof.Machine.execParamSet a b c s
  | .setTime a => Sys2Proof.Machine.execSetTime a s
  | .cfgFire a => Sys2Proof.Machine.execCfgFire a s
  | .fireApply a b => Sys2Proof.Machine.execFireApply a b s
  | .keyGate a => Sys2Proof.Machine.execKeyGate a s
  | .devCtrl a => Sys2Proof.Machine.execDevCtrl a s
  | .cmdqCtrl a b => Sys2Proof.Machine.execCmdqCtrl a b s
  | .cmdqBaseWrite a b c => Sys2Proof.Machine.execCmdqBaseWrite a b c s
  | .evtCtrl a => Sys2Proof.Machine.execEvtCtrl a s
  | .evtHead a => Sys2Proof.Machine.execEvtHead a s
  | .lowWordRead a => Sys2Proof.Machine.execLowWordRead a s
  | .registerWrite a b c => Sys2Proof.Machine.execRegisterWrite a b c s
  | .smbusRead a => Sys2Proof.Machine.execSmbusRead a s
  | .smbusWrite a b c => Sys2Proof.Machine.execSmbusWrite a b c s
  | .alertResponse => Sys2Proof.Machine.execAlertResponse s
  | .tapInstructionLoad a b => Sys2Proof.Machine.execTapInstructionLoad a b s
  | .powerOn a => Sys2Proof.Machine.execPowerOn a s
  | .coldReset a => Sys2Proof.Machine.execColdReset a s
  | .vinLoss => Sys2Proof.Machine.execVinLoss s
  | .overVoltageStop => Sys2Proof.Machine.execOverVoltageStop s
  | .regulatorFault a => Sys2Proof.Machine.execRegulatorFault a s
  | .endpointDisable => Sys2Proof.Machine.execEndpointDisable s
  | .vsagPowerUp => Sys2Proof.Machine.execVsagPowerUp s
  | .vsagRemoval => Sys2Proof.Machine.execVsagRemoval s
  | .flitReceive a b c => Sys2Proof.Machine.execFlitReceive a b c s
  | .retryReq a b => Sys2Proof.Machine.execRetryReq a b s
  | .retryReqRepeat a => Sys2Proof.Machine.execRetryReqRepeat a s
  | .param a b => Sys2Proof.Machine.execParam a b s
  | .jparam a b => Sys2Proof.Machine.execJparam a b s
  | .signalLoss a => Sys2Proof.Machine.execSignalLoss a s
  | .trainingStepTimeout a => Sys2Proof.Machine.execTrainingStepTimeout a s
  | .trainingRestart a => Sys2Proof.Machine.execTrainingRestart a s
  | .trainingEnd a b => Sys2Proof.Machine.execTrainingEnd a b s
  | .containTimeout a => Sys2Proof.Machine.execContainTimeout a s
  | .reqRdShared a b => Sys2Proof.Machine.execReqRdShared a b s
  | .reqRdUnique a b => Sys2Proof.Machine.execReqRdUnique a b s
  | .reqRdOnce a b => Sys2Proof.Machine.execReqRdOnce a b s
  | .reqCleanUnique a b => Sys2Proof.Machine.execReqCleanUnique a b s
  | .reqWrFull a b => Sys2Proof.Machine.execReqWrFull a b s
  | .reqWrPartial a b => Sys2Proof.Machine.execReqWrPartial a b s
  | .reqLdRsv a b => Sys2Proof.Machine.execReqLdRsv a b s
  | .reqStCond a b => Sys2Proof.Machine.execReqStCond a b s
  | .reqAtAdd a b => Sys2Proof.Machine.execReqAtAdd a b s
  | .reqAtSwap a b => Sys2Proof.Machine.execReqAtSwap a b s
  | .reqAtCas a b => Sys2Proof.Machine.execReqAtCas a b s
  | .reqIoRd a b => Sys2Proof.Machine.execReqIoRd a b s
  | .reqIoWr a b => Sys2Proof.Machine.execReqIoWr a b s
  | .reqFence a b => Sys2Proof.Machine.execReqFence a b s
  | .evnWbData a b => Sys2Proof.Machine.execEvnWbData a b s
  | .datData a b => Sys2Proof.Machine.execDatData a b s
  | .datDataPoison a b => Sys2Proof.Machine.execDatDataPoison a b s
  | .rspI a b => Sys2Proof.Machine.execRspI a b s
  | .rspS a b => Sys2Proof.Machine.execRspS a b s
  | .rspIWbpend a b => Sys2Proof.Machine.execRspIWbpend a b s
  | .rspComp a b => Sys2Proof.Machine.execRspComp a b s
  | .rspCompErr a b => Sys2Proof.Machine.execRspCompErr a b s
  | .rspCompAck a b => Sys2Proof.Machine.execRspCompAck a b s
  | .rspLevel a b => Sys2Proof.Machine.execRspLevel a b s
  | .relRelease a b => Sys2Proof.Machine.execRelRelease a b s
  | .acceptanceNotice a b => Sys2Proof.Machine.execAcceptanceNotice a b s
  | .visibilityNotice a b => Sys2Proof.Machine.execVisibilityNotice a b s
  | .rspScFailRpt a b => Sys2Proof.Machine.execRspScFailRpt a b s
  | .rspLinkFailover a b c => Sys2Proof.Machine.execRspLinkFailover a b c s
  | .failoverNoticeTimeout a => Sys2Proof.Machine.execFailoverNoticeTimeout a s
  | .multicastCopy a b c d e => Sys2Proof.Machine.execMulticastCopy a b c d e s
  | .joinSnoopDelivery a b c d => Sys2Proof.Machine.execJoinSnoopDelivery a b c d s
  | .originAnswerDelivery a b c d e => Sys2Proof.Machine.execOriginAnswerDelivery a b c d e s
  | .messageForward a b => Sys2Proof.Machine.execMessageForward a b s
  | .transactionStart a => Sys2Proof.Machine.execTransactionStart a s
  | .fetchedData a => Sys2Proof.Machine.execFetchedData a s
  | .broadcastToken a => Sys2Proof.Machine.execBroadcastToken a s
  | .rsvHold a b => Sys2Proof.Machine.execRsvHold a b s
  | .admission a => Sys2Proof.Machine.execAdmission a s
  | .dmcQueueGrant a b => Sys2Proof.Machine.execDmcQueueGrant a b s
  | .dramCommandIssue a => Sys2Proof.Machine.execDramCommandIssue a s
  | .refreshDue a b => Sys2Proof.Machine.execRefreshDue a b s
  | .pageIdleTimer a b => Sys2Proof.Machine.execPageIdleTimer a b s
  | .devicePowerDown a => Sys2Proof.Machine.execDevicePowerDown a s
  | .starve a b => Sys2Proof.Machine.execStarve a b s
  | .retrainDue a => Sys2Proof.Machine.execRetrainDue a s
  | .retrainDeferralExpiry a => Sys2Proof.Machine.execRetrainDeferralExpiry a s
  | .retrainPauseEnd a b => Sys2Proof.Machine.execRetrainPauseEnd a b s
  | .evacuationCopy a => Sys2Proof.Machine.execEvacuationCopy a s
  | .glazePassRead a => Sys2Proof.Machine.execGlazePassRead a s
  | .sramPassRead a => Sys2Proof.Machine.execSramPassRead a s
  | .rangeScrubRead a => Sys2Proof.Machine.execRangeScrubRead a s
  | .rowRetirement a b c => Sys2Proof.Machine.execRowRetirement a b c s
  | .rowCopy a => Sys2Proof.Machine.execRowCopy a s
  | .trackerExpiry a b c => Sys2Proof.Machine.execTrackerExpiry a b c s
  | .replayPrefetch a => Sys2Proof.Machine.execReplayPrefetch a s
  | .maintenanceLineOp a => Sys2Proof.Machine.execMaintenanceLineOp a s
  | .hopperAcceptance a => Sys2Proof.Machine.execHopperAcceptance a s
  | .hopperReadResume a => Sys2Proof.Machine.execHopperReadResume a s
  | .fenceComplete a => Sys2Proof.Machine.execFenceComplete a s
  | .ioWrSend a => Sys2Proof.Machine.execIoWrSend a s
  | .ioTimeout a b => Sys2Proof.Machine.execIoTimeout a b s
  | .hopDrainStall a => Sys2Proof.Machine.execHopDrainStall a s
  | .squash a => Sys2Proof.Machine.execSquash a s
  | .ismResetStall a => Sys2Proof.Machine.execIsmResetStall a s
  | .resetComplete a => Sys2Proof.Machine.execResetComplete a s
  | .epochBoundary a b c => Sys2Proof.Machine.execEpochBoundary a b c s
  | .temperatureSample a b c d e => Sys2Proof.Machine.execTemperatureSample a b c d e s
  | .canaryReading a b => Sys2Proof.Machine.execCanaryReading a b s
  | .periodicPlan => Sys2Proof.Machine.execPeriodicPlan s
  | .retuneEnd a => Sys2Proof.Machine.execRetuneEnd a s
  | .islandClockGate a => Sys2Proof.Machine.execIslandClockGate a s
  | .eventWrite a => Sys2Proof.Machine.execEventWrite a s
  | .holdOffEnd a => Sys2Proof.Machine.execHoldOffEnd a s
  | .coalescingTimeout a => Sys2Proof.Machine.execCoalescingTimeout a s
  | .longOperationComplete a => Sys2Proof.Machine.execLongOperationComplete a s
  | .perturbationRelease a b c => Sys2Proof.Machine.execPerturbationRelease a b c s
  | .creditPatternPeriod a => Sys2Proof.Machine.execCreditPatternPeriod a s
  | .tapBucketEnd a => Sys2Proof.Machine.execTapBucketEnd a s
  | .frameOrphanTimeout a b => Sys2Proof.Machine.execFrameOrphanTimeout a b s
  | .timeLinkDown a => Sys2Proof.Machine.execTimeLinkDown a s
  | .timeStreamReturn a => Sys2Proof.Machine.execTimeStreamReturn a s
  | .windowBoundary => Sys2Proof.Machine.execWindowBoundary s
  | .tapRecord a => Sys2Proof.Machine.execTapRecord a s
  | .windowRecordClose => Sys2Proof.Machine.execWindowRecordClose s
  | .sealN a => Sys2Proof.Machine.execSealN a s
  | .referenceLoss => Sys2Proof.Machine.execReferenceLoss s
  | .referenceLock => Sys2Proof.Machine.execReferenceLock s
  | .mirrorLoss => Sys2Proof.Machine.execMirrorLoss s
  | .signalDetect a => Sys2Proof.Machine.execSignalDetect a s
  | .slowClockEdge => Sys2Proof.Machine.execSlowClockEdge s
  | .endpointEnable => Sys2Proof.Machine.execEndpointEnable s
  | .referenceReturn => Sys2Proof.Machine.execReferenceReturn s
  | .saggerMirrorUpdate => Sys2Proof.Machine.execSaggerMirrorUpdate s
  | .saggerSecondEdge => Sys2Proof.Machine.execSaggerSecondEdge s
  | .trainingCommandTimeout a => Sys2Proof.Machine.execTrainingCommandTimeout a s
  | .busyLineTimeout => Sys2Proof.Machine.execBusyLineTimeout s
  | .flushSilenceTimeout a => Sys2Proof.Machine.execFlushSilenceTimeout a s
  | .overVoltageEnd a => Sys2Proof.Machine.execOverVoltageEnd a s
  | .vioChange a => Sys2Proof.Machine.execVioChange a s
  | .marginPlanMade => Sys2Proof.Machine.execMarginPlanMade s
  | .smbusClockLowTimeout => Sys2Proof.Machine.execSmbusClockLowTimeout s

end Sys2Proof.Machine
end

