-- ==== Sys2Proof/Machine/Tick.lean ====
section
/-! DEFINITION. One tick of 0.5 ns: what happens while no command waits (R10, R14, R142, R343, R355, R364, R370, R377). -/
namespace Sys2Proof.Machine
open Sys2Proof

/-- The Odometer's counts of cycles on a tile: a transaction in H_TOKEN, a full hopper, a period of the reference
(Table 14.5). -/
def cycleCounts (t : Nat) (p : Plane) : Plane :=
  let q := if (htile p t).tokq.isEmpty then p else occur t 0x1006 {} p
  let q := if (List.range 8).any fun i => decide (1016 ≤ hopGeneral (hopOf q (8 * t + i))) then occur t 0x3003 {} q else q
  if q.clock % 20 = 0 then occur t 0xF001 {} q else q

/-- The tick on the data plane. -/
def tickPlane (p : Plane) : Plane := [0, 1, 2, 3].foldl (fun q t => cycleCounts t q) { p with clock := p.clock + 1 }

/-- The tick on the Sagger: a pending SET_TIME applies at a second edge, and a window ends at its boundary. -/
def tickSag (s : State) : State :=
  let g := s.sg
  if (s.dp.variant = .ms ∧ g.powered) = false then s
  else if g.setPend.isSome ∧ (g.time + 1) % secLen = 0 then turnBoth (secondEdge (mainDown s)) s
  else if nextEnd g.win.lenMs g.win.start ≤ g.time + 1 then
    turnBoth (fun g => let e := nextEnd g.win.lenMs g.win.start; turnWindow e e false (mainDown s) g) s
  else
    { s with sg := { g with time := g.time + 1 },
             dp := if s.mg.life = .run then { s.dp with tapTime := s.dp.tapTime + 1 } else s.dp }

/-- The tick on the clocked part of the main die. -/
def tickMain (s : State) : State :=
  if s.mg.life = .run then { s with dp := tickPlane s.dp }
  else if s.mg.life = .retain ∨ s.mg.life = .recovery then { s with dp := { s.dp with clock := s.dp.clock + 1 } }
  else s

/-- One tick. -/
def tick (s : State) : State := tickSag (tickMain (retryHeld s))

end Sys2Proof.Machine
end

