-- ==== Sys2Proof/WellFormed.lean ====
section
/-! DEFINITION. Which commands the module can be given: the places, counts and lengths that the spec's tables allow. Parameters of a
command packet are not among them: a packet carries any value, and the module answers BAD_PARAM (R308). -/
namespace Sys2Proof

/-- A message that only agents and join links send (R56, Table 10.2). -/
def From.outside : From → Bool
  | .net _ _ => false
  | _ => true

/-- The maximum widths an end can send (R47). -/
def widthOk (w : BitVec 4) : Bool := w == 1 || w == 2 || w == 4 || w == 8

/-- The command can be given. -/
def Instr.wf : Instr → Bool
  | .fwStage _ _ length _ buffer => buffer.bytes.length == length.toNat
  | .sqTail _ _ packets => decide (packets.length ≤ 255)
  | .lowWordRead offset => offset.extractLsb' 0 2 == 0
  | .registerWrite offset _ _ => offset.extractLsb' 0 2 == 0
  | .temperatureSample temps _ dram _ _ => temps.length == 96 && dram.length == 64
  | .trainingEnd _ t => widthOk t.peerMax
  | .reqRdShared f _ | .reqRdUnique f _ | .reqRdOnce f _ | .reqCleanUnique f _ | .reqWrFull f _ | .reqWrPartial f _
  | .reqLdRsv f _ | .reqStCond f _ | .reqAtAdd f _ | .reqAtSwap f _ | .reqAtCas f _ | .reqIoRd f _ | .reqIoWr f _
  | .reqFence f _ | .evnWbData f _ | .datData f _ | .datDataPoison f _ | .rspI f _ | .rspS f _ | .rspIWbpend f _
  | .rspComp f _ | .rspCompErr f _ | .rspCompAck f _ | .rspLevel f _ => f.outside
  | _ => true

end Sys2Proof
end

