-- ==== Sys2Proof/Safety.lean ====
section
/-! DEFINITION. What the claims speak of: runs that go on, invariants of the state, which command a row gives and to whom it is
granted, its reply, and the rows of the data plane. -/
namespace Sys2Proof.Machine
open Sys2Proof

/-! ### Runs and invariants -/

/-- A step that goes on. -/
def goesOn (s : State) : Prop := ∃ t, step s = .next t

/-- The canonical form of the array of DRAM symbols: keys strictly rising, no symbol listed that is 0 (R413). -/
abbrev Memory.wf (s : State) : Prop := twf 0 s.dp.dram = true

/-- The legal parameters lie in Table 16.5, the audit log holds at most 1,024 entries, and each count of the seal counter has
its entry (R374, R376). -/
structure Sag.Legal (g : Sag) : Prop where
  len : 1 ≤ g.lenMs ∧ g.lenMs ≤ 86400000
  lenNext : 1 ≤ g.lenNext ∧ g.lenNext ≤ 86400000
  winLen : 1 ≤ g.win.lenMs ∧ g.win.lenMs ≤ 86400000
  refSel : g.refSel ≤ 2
  policy : g.policy ≤ 2
  limit : 1 ≤ g.limitS
  log : g.audit.length ≤ 1024
  seal_ : g.sealCnt.toNat ≤ g.audit.length

/-! ### Command packets (R290, R298, R299, R302) -/

/-- The command that a row carries out, and its header; none for a row that is no command packet. -/
def commandOf : Instr → Option (Hdr × Command)
  | .devInfo h => some (h, cmdDevInfo)
  | .devStatus h => some (h, cmdDevStatus)
  | .devResetWarm h => some (h, cmdDevResetWarm)
  | .devPowerState h state => some (h, cmdDevPowerState state)
  | .funcModeSet h func mode => some (h, cmdFuncModeSet func mode)
  | .funcModeGet h => some (h, cmdFuncModeGet)
  | .regionSet h index entry => some (h, cmdRegionSet index entry)
  | .regionGet h index => some (h, cmdRegionGet index)
  | .cacheEnable h => some (h, cmdCacheEnable)
  | .cacheDisable h => some (h, cmdCacheDisable)
  | .cacheInvalidateAll h => some (h, cmdCacheInvalidateAll)
  | .cacheCleanAll h => some (h, cmdCacheCleanAll)
  | .cacheCleanRange h base lines => some (h, cmdCleanRange base lines)
  | .cacheInvalRange h ok base lines => some (h, cmdInvalRange ok base lines)
  | .cacheClinvRange h base lines => some (h, cmdClinvRange base lines)
  | .cacheSetwayOp h tile slc set way op ok => some (h, cmdSetway tile slc set way op ok)
  | .wayLock h i ways slices => some (h, cmdWayLock i ways slices)
  | .wayUnlock h i ways slices => some (h, cmdWayUnlock i ways slices)
  | .linePin h i unpin lines base => some (h, cmdLinePin i unpin lines base)
  | .wayRetire h tile slc way restore => some (h, cmdWayRetire tile slc way restore)
  | .replayDescSet h desc d => some (h, cmdReplayDescSet desc d)
  | .instCreate h i op share mem => some (h, cmdInstCreate i op share mem)
  | .instDestroy h i => some (h, cmdInstDestroy i)
  | .instReset h i step us => some (h, cmdInstReset i step us)
  | .instShareSet h i share => some (h, cmdInstShareSet i share)
  | .instWindowSet h i window entry => some (h, cmdInstWindowSet i window entry)
  | .instStatus h i part => some (h, cmdInstStatus i part)
  | .joinNodeIdSet h node => some (h, cmdJoinNodeIdSet node)
  | .joinLinkUp h lnk expect peer => some (h, cmdJoinLinkUp lnk expect peer)
  | .joinRouteSet h multi lnk first count entry dl => some (h, cmdJoinRouteSet multi lnk first count entry dl)
  | .mapEpochPrepare h epoch chunk vector => some (h, cmdMapEpochPrepare epoch chunk vector)
  | .mapEpochCommit h epoch at_ => some (h, cmdMapEpochCommit epoch at_)
  | .nodeLeave h step => some (h, cmdNodeLeave step)
  | .memTrain h mode channels => some (h, cmdMemTrain mode channels)
  | .memChannelEvacuate h channel clear => some (h, cmdMemChannelEvacuate channel clear)
  | .memPageRetire h mode channel bank row spa => some (h, cmdMemPageRetire mode channel bank row spa)
  | .eccScrubCfg h op dram sram base lines => some (h, cmdEccScrubCfg op dram sram base lines)
  | .eccCountRead h tile kind index clear => some (h, cmdEccCountRead tile kind index clear)
  | .marginReplan h op planId islands => some (h, cmdMarginReplan op planId islands)
  | .marginLedgerRead h index => some (h, cmdMarginLedgerRead index)
  | .thermalCfg h isl freq power => some (h, cmdThermalCfg isl freq power)
  | .domainPower h domain on => some (h, cmdDomainPower domain on)
  | .odoConfig h counter event flags user filters => some (h, cmdOdoConfig counter event flags user filters)
  | .odoSnapshot h first count clear dest => some (h, cmdOdoSnapshot first count clear dest)
  | .histConfig h hist event flags filters => some (h, cmdHistConfig hist event flags filters)
  | .perturbSet h engine target mode value vmax pattern seed => some (h, cmdPerturbSet engine target mode value vmax pattern seed)
  | .perturbClear h => some (h, cmdPerturbClear)
  | .errInject h kind target count spa symbols word b0 b1 => some (h, cmdErrInject kind target count spa symbols word b0 b1)
  | .fwStage h offset length final buffer => some (h, cmdFwStage offset length buffer.src final buffer.bytes)
  | .fwActivate h slot when_ => some (h, cmdFwActivate slot when_)
  | .fwInfo h => some (h, cmdFwInfo)
  | .saggerStatus h => some (h, cmdSaggerStatus)
  | .linkTrain h prt mode => some (h, cmdLinkTrain prt mode)
  | .linkStatus h kind index => some (h, cmdLinkStatus kind index)
  | _ => none

/-- The queue whose rights a packet has: the SPI port has those of Q0 (R305). -/
def rightsOf (h : Hdr) : Nat := if h.queue = 4 then 0 else h.queue.val

/-- The packet is the next of its queue, and outside the recovery service its queue and key may give the command: `qs` are the
queues of Table 12.7, and Q3 none while DBG_LOCK is 1. -/
def mayGive (qs : List Nat) (keyed : Bool) (h : Hdr) (s : State) : Prop :=
  rowReady h s = true ∧ s.mg.life ≠ .recovery ∧ rightsOf h ∈ qs ∧ (keyed = true → h.key = 0xB7E5) ∧
    (locked s = true → rightsOf h ≠ 3)

/-- The outcome of a command that ends at once: reply OK with a RESULT, after `f` has acted. -/
def answered (h : Hdr) (opcode : Nat) (res : BitVec 192) (f : State → State) (s : State) : Host.Outcome State Fault Refusal :=
  .next (replyTo h.queue h.replyOk (BitVec.ofNat 16 opcode) sOk h.seq res (settled (f (enterRow h s))))

/-- The outcome of a long operation: reply ACCEPTED, an operation slot taken, after `f` has acted. -/
def accepted (h : Hdr) (opcode : Nat) (w : Work) (f : State → State) (s : State) : Host.Outcome State Fault Refusal :=
  .next (replyTo h.queue h.replyOk (BitVec.ofNat 16 opcode) sAccepted h.seq 0
    (settled (f (onDp (newOp h.queue h.seq (BitVec.ofNat 16 opcode) w) (enterRow h s)))))

/-- The outcome of a refusal: the reply, which may have a RESULT, and nothing else (R299). -/
def turnedAway (h : Hdr) (opcode : Nat) (status : BitVec 8) (res : BitVec 192) (s : State) : Host.Outcome State Fault Refusal :=
  .next (replyTo h.queue h.replyOk (BitVec.ofNat 16 opcode) status h.seq res (enterRow h s))

/-- The outcome of a command whose line is busy: it waits in the line's conflict queue, and its queue with it (R93, R142, R355). -/
def waiting (h : Hdr) (opcode : Nat) (w : HeldWork) (line : Nat) (s : State) : Host.Outcome State Fault Refusal :=
  let t := onDp (reachIntern .command line 0) (enterRow h s)
  .next { t with mg := { t.mg with held := some { queue := h.queue, seq := h.seq, opcode := BitVec.ofNat 16 opcode,
                                                  job := s.dp.nextJob, replyOk := h.replyOk, work := w } } }

/-- An operation slot is free (R303). -/
def slotFree (s : State) : Prop := slotsHeld s.dp < 64

/-! ### Rows of the data plane -/

/-- The outcome of a row that leaves the data plane as `p`, where what ends or wakes at once has done so. -/
def planeTurns (p : Plane) (s : State) : Host.Outcome State Fault Refusal := .next { s with dp := wake (tidy p) }

/-- The rows of the data plane: messages, links, home, hoppers, memory, walks, taps. -/
def planeRow : Instr → Bool
  | .flitReceive _ _ _ | .retryReq _ _ | .retryReqRepeat _ | .param _ _ | .jparam _ _ | .signalLoss _
  | .trainingStepTimeout _ | .trainingRestart _ | .trainingEnd _ _ | .containTimeout _ | .reqRdShared _ _
  | .reqRdUnique _ _ | .reqRdOnce _ _ | .reqCleanUnique _ _ | .reqWrFull _ _ | .reqWrPartial _ _ | .reqLdRsv _ _
  | .reqStCond _ _ | .reqAtAdd _ _ | .reqAtSwap _ _ | .reqAtCas _ _ | .reqIoRd _ _ | .reqIoWr _ _ | .reqFence _ _
  | .evnWbData _ _ | .datData _ _ | .datDataPoison _ _ | .rspI _ _ | .rspS _ _ | .rspIWbpend _ _ | .rspComp _ _
  | .rspCompErr _ _ | .rspCompAck _ _ | .rspLevel _ _ | .relRelease _ _ | .acceptanceNotice _ _
  | .visibilityNotice _ _ | .rspScFailRpt _ _ | .rspLinkFailover _ _ _ | .failoverNoticeTimeout _
  | .multicastCopy _ _ _ _ _ | .joinSnoopDelivery _ _ _ _ | .originAnswerDelivery _ _ _ _ _ | .messageForward _ _
  | .transactionStart _ | .fetchedData _ | .broadcastToken _ | .rsvHold _ _ | .admission _ | .dmcQueueGrant _ _
  | .dramCommandIssue _ | .refreshDue _ _ | .pageIdleTimer _ _ | .devicePowerDown _ | .starve _ _ | .retrainDue _
  | .retrainDeferralExpiry _ | .evacuationCopy _ | .glazePassRead _ | .sramPassRead _ | .rangeScrubRead _
  | .rowRetirement _ _ _ | .rowCopy _ | .trackerExpiry _ _ _ | .replayPrefetch _ | .maintenanceLineOp _
  | .hopperAcceptance _ | .hopperReadResume _ | .fenceComplete _ | .ioWrSend _ | .ioTimeout _ _ | .hopDrainStall _
  | .squash _ | .ismResetStall _ | .resetComplete _ | .islandClockGate _ | .perturbationRelease _ _ _
  | .creditPatternPeriod _ | .tapBucketEnd _ | .frameOrphanTimeout _ _ | .timeLinkDown _ | .timeStreamReturn _
  | .signalDetect _ => true
  | _ => false

/-- The row of a request opcode. -/
def reqRow : ReqOp → From → Body → Instr
  | .rdShared => .reqRdShared
  | .rdUnique => .reqRdUnique
  | .rdOnce => .reqRdOnce
  | .cleanUnique => .reqCleanUnique
  | .wrFull => .reqWrFull
  | .wrPartial => .reqWrPartial
  | .ldRsv => .reqLdRsv
  | .stCond => .reqStCond
  | .atAdd => .reqAtAdd
  | .atSwap => .reqAtSwap
  | .atCas => .reqAtCas
  | .ioRd => .reqIoRd
  | .ioWr => .reqIoWr
  | .fence => .reqFence

/-- A message that an ACTIVE port receives now, in order: the slots of its code, from a sub-agent that is present, with a credit
(Table 03.11); it does not stand in the receive buffer already. -/
def freshMessage (p : Plane) (i : Nat) (cls : BitVec 3) (op : BitVec 5) (b : Body) : Prop :=
  (port p i).state = .active ∧ (port p i).rx.contains (cls, op, b) = false ∧ badMessage (port p i) cls op b = none

/-- A message for this node that an ACTIVE join link receives now, with a credit; it does not stand in the link's buffer
already. -/
def freshJoin (p : Plane) (j : Nat) (r : Route) (g : BitVec 64) (cls : BitVec 3) (op : BitVec 5) (b : Body) : Prop :=
  (link p j).state = .active ∧ r.dst.toNat = p.dw.node ∧ (link p j).rx.contains (.join r g cls op b) = false ∧
    0 < credit (joinGiven (link p j) r.vcb) cls.toNat

/-- `p` is the data plane `s` once a port has taken an agent's message: received now, its credit used and the message counted, or out of
the receive buffer, where a flit has left it. -/
def agentTakes (s p : Plane) (i : Nat) (cls : BitVec 3) (op : BitVec 5) (b : Body) : Prop :=
  (freshMessage s i cls op b ∧ p = takeMessage i cls op b s) ∨
    ((port s i).rx.contains (cls, op, b) = true ∧
      p = setPort s i { port s i with rx := (port s i).rx.erase (cls, op, b) })

/-- The data plane once a join link's message has been taken: its credit used, the message counted. -/
def joinTaken (j : Nat) (r : Route) (g : BitVec 64) (cls : BitVec 3) (op : BitVec 5) (b : Body) (p : Plane) : Plane :=
  (joinTake j (.join r g cls op b) cls.toNat r.vcb p).getD p

/-- `p` is the data plane `s` once a join link has taken a message for this node: received now, or out of the receive buffer. -/
def linkTakes (s p : Plane) (j : Nat) (r : Route) (g : BitVec 64) (cls : BitVec 3) (op : BitVec 5) (b : Body) : Prop :=
  (freshJoin s j r g cls op b ∧ p = joinTaken j r g cls op b s) ∨
    (r.dst.toNat = s.dw.node ∧ (link s j).rx.contains (.join r g cls op b) = true ∧
      p = setLink s j { link s j with rx := (link s j).rx.erase (.join r g cls op b) })

end Sys2Proof.Machine
end

