-- ==== Sys2Proof/Certificates/Slice0/Obligations.lean ====
section
/-! DEFINITION. The statements about the model, for the provers. -/
open Sys2Proof
open Sys2Proof.Machine

/-- A step carries out the command at the front of the queue, on the state with the rest of the queue. The queue of waiting commands is the
model's own (notes/assumptions/1.md). -/
def Obligations.StepRunsTheFrontCommand : Prop :=
  ∀ (c : Instr) (rest : List Instr) (s : State), s.pending = c :: rest → step s = exec c { s with pending := rest }

/-- With no command waiting, a step is one tick (the model's choice, notes/assumptions/2.md), and no command appears by itself. -/
def Obligations.AnIdleStepIsOneTick : Prop :=
  ∀ s : State, s.pending = [] → step s = .next (tick s) ∧ (tick s).pending = []

/-- No command faults or is refused, and none touches the queue of waiting commands. That a row which its sender could not send changes
nothing, and goes on too, is the model's choice (notes/assumptions/14.md). -/
def Obligations.EveryCommandGoesOn : Prop :=
  ∀ (c : Instr) (s : State), ∃ t, exec c s = .next t ∧ t.pending = s.pending

/-- Table 18.2: the state at READY. Of what the spec gives no value, the DRAM array without symbols and the flash without evacuations or
remaps are the model's choices (notes/assumptions/12.md and 82.md). -/
def Obligations.ResetHoldsTheTabledState : Prop :=
  let s := State.reset
  s.dp.dw.node = 0 ∧ s.dp.dw.routes = [] ∧ s.dp.dw.cur = aloneMap 0 ∧
    s.dp.cache.enabled = false ∧ s.dp.cache.invDone = false ∧ s.dp.ways = [] ∧ s.dp.slices = [] ∧
    (inst s.dp 0).state = .active ∧ (∀ i, 0 < i → (inst s.dp i).state = .free) ∧ (∀ k, tget 0 s.dp.binds k = 0) ∧
    s.dp.regions = [] ∧ s.dp.windows = [] ∧ s.dp.descs = [] ∧ s.dp.remaps = [] ∧ s.dp.flashEvac = 0 ∧
    s.dp.modes = 0 ∧ s.dp.counters = [] ∧ s.dp.hists = [] ∧ enabled (evCtlOf s.mg.ev) = false ∧
    (∀ q, enabled (ctlOf (ring s.mg q)) = false) ∧
    (∀ i, (port s.dp i).state ≠ .active) ∧ (∀ j, (link s.dp j).state = .down) ∧ s.dp.dram = [] ∧
    s.mg.ready = true ∧ locked s = false ∧ s.pending = []

/-- The two invariants at reset. The Sagger's parameter values there are the model's (notes/assumptions/8.md). -/
def Obligations.InvariantsHoldAtReset : Prop := Memory.wf State.reset ∧ Sag.Legal State.reset.sg

/-- The legal state of the Sagger stays in its tables, whatever the step. -/
def Obligations.LegalMetrologyIsKept : Prop :=
  ∀ s t : State, Sag.Legal s.sg → step s = .next t → Sag.Legal t.sg

/-- R358, R374 to R376 over the whole machine: only PARAM_SET under the seal changes a legal parameter, and it leaves its trace. -/
def Obligations.SealedParametersChangeOnlyByLoggedCommands : Prop :=
  ∀ s t : State, Sag.Legal s.sg → step s = .next t →
    s.sg.audit <+: t.sg.audit ∧ s.sg.sealCnt.toNat ≤ t.sg.sealCnt.toNat ∧
    ((t.sg.lenNext ≠ s.sg.lenNext ∨ t.sg.labelsNext ≠ s.sg.labelsNext ∨ t.sg.refSel ≠ s.sg.refSel ∨
        t.sg.policy ≠ s.sg.policy ∨ t.sg.limitS ≠ s.sg.limitS) →
      s.sg.sealN = true ∧ (∃ param i v rest, s.pending = .paramSet param i v :: rest) ∧
        t.sg.sealCnt.toNat = s.sg.sealCnt.toNat + 1 ∧ t.sg.audit.length = s.sg.audit.length + 1)

/-- The last sentence of R328. Its loss with the power of the management die is inferred (notes/assumptions/33.md). -/
def Obligations.DebugLockHolds : Prop :=
  ∀ s t : State, locked s = true → step s = .next t →
    locked t = true ∨ mgcOn t = false ∨
      ∃ b rest, s.pending = .powerOn b :: rest ∨ s.pending = .coldReset b :: rest ∨ s.pending = .overVoltageEnd b :: rest

/-- The last sentence of R299, for every packet row. The PHASE bit of an SPI reply is a free value (notes/assumptions/3.md), so a reply
there draws one. -/
def Obligations.RefusedCommandsChangeNothing : Prop :=
  ∀ (c : Instr) (h : Hdr) (cmd : Command) (s : State), commandOf c = some (h, cmd) → rowReady h s = true →
    (∀ st, gate h cmd s = some st → exec c s = turnedAway h cmd.opcode st 0 s) ∧
    (∀ st res t, gate h cmd s = none → cmd.body h (enterRow h s) = (t, some (st, res)) → 0x10 ≤ st.toNat →
      exec c s = turnedAway h cmd.opcode st res s) ∧
    (∀ st res t, turnedAway h cmd.opcode st res s = .next t →
      t.kn = s.kn ∧ t.side = s.side ∧ t.sg = s.sg ∧ t.mir = s.mir ∧ t.rc = s.rc ∧ t.pending = s.pending ∧
        (h.queue = 4 → t.dp = draw1 s.dp) ∧ (h.queue ≠ 4 → h.replyOk = true → t.dp = s.dp) ∧
        (h.queue ≠ 4 → h.replyOk = false → t = hostFault h.queue (enterRow h s)) ∧ t.mg.staged = s.mg.staged ∧ t.mg.fires = s.mg.fires ∧
        t.mg.dbgLock = s.mg.dbgLock ∧ t.mg.keyOpen = s.mg.keyOpen ∧ t.mg.slotA = s.mg.slotA ∧ t.mg.slotB = s.mg.slotB ∧
        t.mg.startSlot = s.mg.startSlot ∧ t.mg.oneShot = s.mg.oneShot ∧ t.mg.life = s.mg.life ∧ t.mg.power = s.mg.power)

/-- R298: the key of a keyed command, which has nothing to do with KEY_GATE. -/
def Obligations.KeyedCommandsNeedTheKey : Prop :=
  ∀ (c : Instr) (h : Hdr) (cmd : Command) (s : State), commandOf c = some (h, cmd) → cmd.keyed = true →
    (rowReady h s = true → h.key ≠ 0xB7E5 → exec c s = turnedAway h cmd.opcode sDenied 0 s) ∧
    (∀ t, exec c s = .next t → t.mg.keyOpen = s.mg.keyOpen)

/-- R416 on command packets. The order of DENIED and BAD_STATE in the recovery service is inferred (notes/assumptions/21.md). -/
def Obligations.RecoveryServesItsCommands : Prop :=
  ∀ (h : Hdr) (s : State), rowReady h s = true → s.mg.life = .recovery →
    (rightsOf h = 0 →
      exec (.devInfo h) s = answered h 0x0101 (fields [(0, 16, 0x1640), (16, 8, bit (s.dp.variant == .ms)),
        (24, 8, s.mg.hwRev.toNat), (32, 8, 1), (40, 8, 1), (64, 32, 0)]) id s ∧
      exec (.devStatus h) s = answered h 0x0102 (fields [(0, 2, 0), (2, 1, bit s.mg.unclean), (3, 1, bit s.dp.cache.enabled),
        (4, 1, bit (locked s)), (32, 32, 0), (64, 16, 0), (80, 16, (tjMaxOf s.kn).toNat), (128, 64, s.dp.epoch)]) id s ∧
      exec (.fwInfo h) s = answered h 0x0A03 (fields [(0, 1, s.mg.running), (1, 1, bit s.mg.slotA.valid),
        (2, 1, bit s.mg.slotB.valid), (3, 1, s.mg.startSlot), (32, 32, s.mg.slotA.version.toNat),
        (64, 32, s.mg.slotB.version.toNat), (96, 32, 25165824)]) id s) ∧
    (∀ c cmd, commandOf c = some (h, cmd) → rightsOf h ≠ 0 → exec c s = turnedAway h cmd.opcode sDenied 0 s) ∧
    (∀ c cmd, commandOf c = some (h, cmd) → rightsOf h = 0 → cmd.recover = false → (cmd.keyed = true → h.key = 0xB7E5) →
      (cmd.noLock = true → locked s = false) → exec c s = turnedAway h cmd.opcode sBadState 0 s)

/-- R294. -/
def Obligations.AFullReplyRingHoldsBackItsOwnQueue : Prop :=
  ∀ (q : Fin 4) (s : State), (ring s.mg q).rqTail + 1 = (ring s.mg q).rqHead →
    queueReady s q = false ∧ (∀ h : Hdr, h.queue.val = q.val → rowReady h s = false) ∧
    (∀ bytes ok replyOk t, exec (.commandStart bytes ⟨ok, replyOk⟩) s = .next t →
      (ring t.mg q).sqHead = (ring s.mg q).sqHead ∧ (ring t.mg q).rqTail = (ring s.mg q).rqTail ∧
        (ring t.mg q).replies = (ring s.mg q).replies) ∧
    (∀ (r : Ring) (k : Nat), k < 5 → k ≠ q.val → queueReady { s with mg := setRing s.mg q r } k = queueReady s k)

/-- The commands that only answer (Tables 12.7 and 12.14). -/
def Obligations.InquiriesAnswer : Prop :=
  ∀ (h : Hdr) (s : State), mayGive [0, 1, 2, 3] false h s →
    exec (.devInfo h) s = answered h 0x0101 (fields [(0, 16, 0x1640), (16, 8, bit (s.dp.variant == .ms)),
      (24, 8, s.mg.hwRev.toNat), (32, 8, 1), (40, 8, 1), (64, 32, (slotOf s.mg s.mg.running).version.toNat)]) id s ∧
    exec (.devStatus h) s = answered h 0x0102 (fields [(0, 2, s.mg.power), (2, 1, bit s.mg.unclean),
      (3, 1, bit s.dp.cache.enabled), (4, 1, bit (locked s)), (32, 32, portsActive s.dp), (64, 16, linksActive s.dp),
      (80, 16, (tjMaxOf s.kn).toNat), (128, 64, s.dp.epoch)]) id s ∧
    exec (.funcModeGet h) s = answered h 0x0121 (s.dp.modes.setWidth 192) id s ∧
    (∀ index r, tfind s.dp.regions index.toNat = some r →
      exec (.regionGet h index) s = answered h 0x0141 ((encodeRegion r).setWidth 192) id s) ∧
    (∀ index, tfind s.dp.regions index.toNat = none → exec (.regionGet h index) s = answered h 0x0141 0 id s) ∧
    (∀ i part, i.toNat ≤ 127 → part.toNat ≤ 10 →
      exec (.instStatus h i part) s = answered h 0x0306 (instStatusImage s.dp i.toNat part.toNat) id s) ∧
    (∀ tile kind index clear, tile.toNat ≤ 3 → kind.toNat ≤ 2 → (kind ≠ 2 → index.toNat ≤ 15) →
      (clear = true → rightsOf h ≠ 3) →
      let c := countsOf s.dp tile.toNat kind.toNat index.toNat
      exec (.eccCountRead h tile kind index clear) s =
        answered h 0x0602 (fields [(0, 32, sat 32 c.1), (32, 32, sat 32 c.2.1), (64, 32, sat 32 c.2.2)])
          (fun t => if clear then onDp (zeroCounts tile.toNat kind.toNat index.toNat) t else t) s) ∧
    (∀ index, index.toNat ≤ 4095 → exec (.marginLedgerRead h index) s = answered h 0x0702 (tget 0 s.kn.ledger index.toNat) id s) ∧
    exec (.fwInfo h) s = answered h 0x0A03 (fields [(0, 1, s.mg.running), (1, 1, bit s.mg.slotA.valid),
      (2, 1, bit s.mg.slotB.valid), (3, 1, s.mg.startSlot), (32, 32, s.mg.slotA.version.toNat),
      (64, 32, s.mg.slotB.version.toNat), (96, 32, 25165824)]) id s ∧
    exec (.saggerStatus h) s =
      answered h 0x0B01 (if s.dp.variant = .ms ∧ s.mir.present = true then statusImage s.mir.sag else 0) id s ∧
    (∀ kind index, (kind = 0 ∧ index.toNat ≤ 31 ∨ kind = 1 ∧ index.toNat ≤ 15) →
      exec (.linkStatus h kind index) s = answered h 0x0C02 (linkStatusImage s.dp kind.toNat index.toNat) id s)

/-- Device commands from Q0 and Q1 (R31, R310, R311, R419, R421). What a switch of a function does at once (notes/assumptions/31.md), that
an owner exists in every state but FREE (97.md) and that RETAIN takes commands (20.md) are the model's. -/
def Obligations.DeviceCommandsAct : Prop :=
  ∀ (h : Hdr) (s : State), mayGive [0, 1] false h s →
    (∀ func mode, func.toNat ≤ 11 → modeBusy func.toNat s = false → hostMode s.dp func.toNat ≠ mode →
      exec (.funcModeSet h func mode) s = answered h 0x0120 0 (fun t => switchMode func.toNat mode
        (onDp (fun p => { p with modes := if mode then p.modes ||| BitVec.ofNat 12 (2 ^ func.toNat)
          else p.modes &&& ~~~(BitVec.ofNat 12 (2 ^ func.toNat)) }) t)) s) ∧
    (∀ func mode, func.toNat ≤ 11 → modeBusy func.toNat s = false → hostMode s.dp func.toNat = mode →
      exec (.funcModeSet h func mode) s = answered h 0x0120 0 id s) ∧
    (∀ index entry, regionBad (decodeRegion entry) = false → existsInst s.dp (decodeRegion entry).owner.toNat = true →
      exec (.regionSet h index entry) s =
        answered h 0x0140 0 (onDp fun p => { p with regions := tset p.regions index.toNat (decodeRegion entry) }) s) ∧
    (powerRuns s.dp = false → slotFree s →
      (h.key = 0xB7E5 → exec (.devResetWarm h) s = accepted h 0x0110 (.warmReset false) beginWarm s) ∧
      (∀ state : Byte, state.toNat ≤ 3 → (2 ≤ state.toNat → alone s.dp = true ∧ s.mg.life ≠ .retain) →
        exec (.devPowerState h state) s = accepted h 0x0111 (.power state.toNat)
          (fun t => if s.mg.life = .retain ∨ state.toNat < 2 then t else onDp startDrain t) s) ∧
      (s.mg.life = .retain → alone s.dp = true → exec (.devPowerState h 3) s = accepted h 0x0111 (.power 3) id s))

/-- Switching the cache on and off (R143 to R147). That CACHE_INVALIDATE_ALL clears the entries of ways without a line is inferred
(notes/assumptions/52.md). -/
def Obligations.CacheSwitchesAct : Prop :=
  ∀ (h : Hdr) (s : State), mayGive [0, 1] false h s → maintRuns s.dp = false → disableRuns s.dp = false →
    (s.dp.cache.enabled = false →
      exec (.cacheInvalidateAll h) s = answered h 0x0203 0 (onDp fun p => { p with
        ways := [], sramFlips := [], staleTags := [], cache := { p.cache with invDone := true, known := true } }) s ∧
      (s.dp.cache.invDone = true →
        exec (.cacheEnable h) s = answered h 0x0201 0 (onDp fun p => { p with cache := { p.cache with enabled := true } }) s) ∧
      (s.dp.cache.invDone = false → exec (.cacheEnable h) s = turnedAway h 0x0201 sNeedsInvalidate 0 s) ∧
      exec (.cacheDisable h) s = answered h 0x0202 0 id s) ∧
    (s.dp.cache.enabled = true →
      exec (.cacheEnable h) s = answered h 0x0201 0 id s ∧
      (hostMode s.dp fmCache = false → slotFree s →
        exec (.cacheDisable h) s =
          accepted h 0x0202 .disable (onDp fun p => { p with cache := { p.cache with wtAll := true } }) s) ∧
      (hostMode s.dp fmCache = true → dirtyLines s.dp = 0 →
        exec (.cacheDisable h) s = answered h 0x0202 0 (onDp fun p => { p with
          cache := { p.cache with enabled := false, invDone := false, wtAll := false } }) s) ∧
      (hostMode s.dp fmCache = true → dirtyLines s.dp ≠ 0 →
        exec (.cacheDisable h) s = turnedAway h 0x0202 sDirtyPresent (fields [(0, 32, dirtyLines s.dp)]) s))

/-- The long operations of the cache start (R131, R133, R139 to R141, R149). Walks of a disabled cache (notes/assumptions/53.md), a second
retirement of a way (54.md), that an instance exists in every state but FREE (97.md), that the lock of a way being retired stays (98.md)
and one line in hand (87.md) are the model's. -/
def Obligations.CacheWalksAreAccepted : Prop :=
  ∀ (h : Hdr) (s : State), slotFree s → disableRuns s.dp = false →
    let skip := fun (t : State) => if s.dp.cache.enabled then t else onDp (skipAll s.dp.nextOp) t
    (mayGive [0, 1, 2] false h s →
      exec (.cacheCleanAll h) s = accepted h 0x0204 .cleanAll skip s ∧
      (∀ base lines, rangeBad s.dp base lines = false →
        exec (.cacheCleanRange h base lines) s = accepted h 0x0210 (.clean (spaLine base) lines.toNat) skip s ∧
        (∀ ok, exec (.cacheInvalRange h ok base lines) s = accepted h 0x0211 (.inval (spaLine base) lines.toNat ok) skip s) ∧
        exec (.cacheClinvRange h base lines) s = accepted h 0x0212 (.clinv (spaLine base) lines.toNat) skip s) ∧
      (∀ tile slc way : Byte, tile.toNat ≤ 3 → slc.toNat ≤ 15 → way.toNat ≤ 23 →
        let x := slice s.dp (16 * tile.toNat + slc.toNat)
        x.retired.getLsbD way.toNat = false →
        (countBits (x.retired ||| x.retiring) 24 < 8 ∨ x.retiring.getLsbD way.toNat = true) →
        exec (.wayRetire h tile slc way false) s = accepted h 0x0228 (.retire tile.toNat slc.toNat way.toNat)
          (onDp (beginRetire (16 * tile.toNat + slc.toNat) way.toNat)) s)) ∧
    (mayGive [0, 1] false h s →
      (∀ i ways slices, i.toNat ≤ 127 → ways ≠ 0 → slices ≠ 0 → existsInst s.dp i.toNat = true →
        lockBad s.dp i.toNat slices ways = false → lockFull s.dp slices ways = false →
        exec (.wayLock h i ways slices) s =
          accepted h 0x0220 (.wayLock i.toNat (freshWays slices ways s.dp)) (fun t => skip (onDp (lockWays i.toNat slices ways) t)) s) ∧
      (∀ i unpin lines base, i.toNat ≤ 127 → 0 < lines.toNat → lines.toNat ≤ 65536 → base.extractLsb' 0 6 = 0 →
        allPattern s.dp i.toNat base lines.toNat 1 = true → existsInst s.dp i.toNat = true → s.dp.cache.enabled = true →
        exec (.linePin h i unpin lines base) s = accepted h 0x0222 (.pin i.toNat (spaLine base) lines.toNat unpin) id s))

/-- Commands on ways and descriptors that end at once (R132, R135, R140, R142, R149), and the one that waits for its line (R93). The entry
that READ_TAG returns before a CACHE_INVALIDATE_ALL is a free value (notes/assumptions/3.md). The entry of a way without a line (52.md),
what RESTORE clears (54.md) and that an instance exists in every state but FREE (97.md) are the model's. -/
def Obligations.CacheTableCommandsAct : Prop :=
  ∀ (h : Hdr) (s : State),
    (∀ (tile slc : Byte) (set : BitVec 16) (way : Byte) ok, tile.toNat ≤ 3 → slc.toNat ≤ 15 → set.toNat ≤ 4095 → way.toNat ≤ 23 →
      let n := 16 * tile.toNat + slc.toNat
      (mayGive [0, 1, 2, 3] false h s → exec (.cacheSetwayOp h tile slc set way 3 ok) s =
        answered h 0x0218 (fields [(0, 40, (tagRead (readTag n set.toNat way.toNat s.dp) n set.toNat way.toNat).toNat),
          (40, 2, bit (lockOwner s.dp n way.toNat).isSome + 2 * bit (isRetired s.dp n way.toNat))])
          (onDp fun p => draw1 (readTag n set.toNat way.toNat p)) s) ∧
      (mayGive [0, 1, 2] false h s → ∀ op : Byte, op.toNat < 3 →
        ((s.dp.cache.enabled = false ∨ isRetired s.dp n way.toNat = true ∨
            tfind s.dp.ways (wayKey n set.toNat way.toNat) = none) →
          exec (.cacheSetwayOp h tile slc set way op ok) s = answered h 0x0218 0 id s) ∧
        (∀ l, s.dp.cache.enabled = true → isRetired s.dp n way.toNat = false →
          tfind s.dp.ways (wayKey n set.toNat way.toNat) = some l → job? s.dp s.dp.nextJob = none →
          let line := wayLineNo n set.toNat l
          (busy s.dp line = true → exec (.cacheSetwayOp h tile slc set way op ok) s =
            waiting h 0x0218 (.setway n set.toNat way.toNat op.toNat ok) line s) ∧
          ((∀ j ∈ s.dp.jobs, j.line ≠ line) →
            let t := onDp (reachIntern .command line 0) (enterRow h s)
            let r := maintain (some s.dp.nextJob) op.toNat ok (wayKey n set.toNat way.toNat)
              (readTag n set.toNat way.toNat t.dp)
            exec (.cacheSetwayOp h tile slc set way op ok) s =
              .next (replyTo h.queue h.replyOk 0x0218 (if r.2.2.2 = 0 then sOk else sPartial) h.seq
                (fields [(64, 3, r.2.1 + 2 * r.2.2.1 + 4 * r.2.2.2)])
                (settled (onDp (fun _ => finish s.dp.nextJob r.1) t))))))) ∧
    (mayGive [0, 1] false h s →
      (∀ i ways slices, i.toNat ≤ 127 →
        ((slicesOf slices).any fun n => (waysOf ways).any fun w => lockOwner s.dp n w != some i.toNat) = false →
        exec (.wayUnlock h i ways slices) s = answered h 0x0221 0 (onDp (unlockWays i.toNat slices ways)) s) ∧
      (∀ desc d, let r := decodeReplay d
        (r.valid = true → r.count ≠ 0 ∧ r.stride ≠ 0 ∧ r.lead ≠ 0 ∧
          allPattern s.dp r.inst.toNat r.start r.count.toNat r.stride.toNat = true ∧ existsInst s.dp r.inst.toNat = true) →
        exec (.replayDescSet h desc d) s =
          answered h 0x0230 0 (onDp fun p => { p with descs := tset p.descs desc.toNat { d := r } }) s)) ∧
    (mayGive [0] true h s → ∀ tile slc way : Byte, tile.toNat ≤ 3 → slc.toNat ≤ 15 → way.toNat ≤ 23 →
      exec (.wayRetire h tile slc way true) s =
        answered h 0x0228 0 (onDp (restoreWay (16 * tile.toNat + slc.toNat) way.toNat)) s)

/-- Instance commands from Q0 and Q1 (R37, R38, R273, R280, R284, R287). That INST_WINDOW_SET takes a DESTROYING instance as existing is
the model's choice (notes/assumptions/97.md). -/
def Obligations.InstanceCommandsAct : Prop :=
  ∀ (h : Hdr) (s : State), mayGive [0, 1] false h s → ∀ i : Byte, i.toNat ≤ 127 →
    let n := i.toNat
    let x := inst s.dp n
    (n ≠ 0 →
      (∀ share mem, x.state = .free → shareBad (decodeShare share) = false → allBound s.dp mem 0 = true →
        exec (.instCreate h i 0 share mem) s = answered h 0x0301 0 (onDp fun p =>
          bindAll n mem (setInst p n { x with state := .active, share := decodeShare share })) s) ∧
      (∀ share mem, x.state = .active → mem ≠ 0 → allBound s.dp mem 0 = true →
        exec (.instCreate h i 1 share mem) s = answered h 0x0301 0 (onDp (bindAll n mem)) s) ∧
      (∀ share mem, x.state = .active → mem ≠ 0 → allBound s.dp mem n = true →
        exec (.instCreate h i 2 share mem) s = answered h 0x0301 0 (onDp (bindAll 0 mem)) s) ∧
      (x.state = .active → (s.dp.windows.any fun y => y.1 / 64 == n) = false →
        (s.dp.regions.any fun y => y.2.owner.toNat == n) = false → slotFree s →
        exec (.instDestroy h i) s = accepted h 0x0302 (.destroy n)
          (fun t => endNow (isShare n) sAborted (onDp (destroyStop n) t)) s)) ∧
    (∀ us : BitVec 16, us.toNat ≤ 10000 →
      (hostMode s.dp fmInst = false → x.state = .active → slotFree s →
        exec (.instReset h i 0 us) s = accepted h 0x0303 (.instReset n) (onDp (stopInst n .resetting)) s) ∧
      (hostMode s.dp fmInst = true → x.state = .active →
        exec (.instReset h i 1 us) s = answered h 0x0303 0 (onDp (stopInst n .resetting)) s) ∧
      (hostMode s.dp fmInst = true → x.state = .resetting → x.stopped = true → slotFree s →
        exec (.instReset h i 2 us) s = accepted h 0x0303 (.instReset n) (onDp (Sys2Proof.Machine.squash n)) s)) ∧
    (∀ share, shareBad (decodeShare share) = false → (x.state = .active ∨ x.state = .resetting) → slotFree s →
      exec (.instShareSet h i share) s =
        .next (replyTo h.queue h.replyOk 0x0304 sAccepted h.seq 0 (settled (onDp
          (fun p => setInst p n { inst p n with staged := some (decodeShare share, p.clock) })
          (onDp (newOp h.queue h.seq 0x0304 (.share n)) (endNow (isShare n) sAborted (enterRow h s))))))) ∧
    (∀ (window : Byte) (entry : BitVec 256), window.toNat ≤ 63 → existsInst s.dp n = true →
      let w := decodeWindow entry
      w.base ≤ w.limit → windowWraps w = false →
      (w.valid = false → exec (.instWindowSet h i window entry) s =
        answered h 0x0305 0 (onDp fun p => { p with windows := tdel p.windows (64 * n + window.toNat) }) s) ∧
      (w.valid = true → windowOverlaps s.dp n window.toNat w = false →
        (s.dp.windows.length < 2048 ∨ (tfind s.dp.windows (64 * n + window.toNat)).isSome = true) →
        exec (.instWindowSet h i window entry) s =
          answered h 0x0305 0 (onDp fun p => { p with windows := tset p.windows (64 * n + window.toNat) w }) s))

/-- Drayway commands from Q0 and Q1 (R241, R253, R260, R263 to R265, R268). What JOIN_NODE_ID_SET resets beside the node
(notes/assumptions/57.md), JOIN_LINK_UP on a TRAINING link (32.md) and the four steps of NODE_LEAVE as one operation (58.md) are the
model's. -/
def Obligations.JoinCommandsAct : Prop :=
  ∀ (h : Hdr) (s : State), mayGive [0, 1] false h s →
    (∀ node : BitVec 16, node.toNat ≤ 16383 → (s.dp.links.any fun x => x.2.state != .down) = false →
      s.dp.cache.enabled = false → s.dp.dir = [] →
      exec (.joinNodeIdSet h node) s = answered h 0x0401 0 (onDp fun p => { p with dw := { p.dw with
        node := node.toNat, cur := aloneMap node.toNat, curEp := 0, prev := aloneMap node.toNat, prevEp := 0, leaveDone := 0,
        stopOut := false } }) s) ∧
    (∀ (lnk : Byte) expect peer, lnk.toNat ≤ 15 → linkOff s lnk.toNat = false →
      (running s.dp fun w => w == .linkUp lnk.toNat) = false → slotFree s →
      exec (.joinLinkUp h lnk expect peer) s =
        accepted h 0x0402 (.linkUp lnk.toNat) (onDp (bringUp lnk.toNat (if expect then some peer.toNat else none))) s) ∧
    (∀ (lnk : Byte) (first count : BitVec 16) entry dl,
      (count.toNat ≠ 0 → first.toNat + count.toNat ≤ 16384 →
        exec (.joinRouteSet h false lnk first count entry dl) s =
          answered h 0x0403 0 (onDp (putRoutes first.toNat count.toNat (entry.setWidth 32))) s) ∧
      (lnk.toNat ≤ 15 → first.toNat ≤ 16383 → count = 1 →
        exec (.joinRouteSet h true lnk first count entry dl) s = answered h 0x0403 0 (onDp fun p => { p with
          dw := { p.dw with mcast := tput 0 p.dw.mcast (mcastKey first.toNat lnk.toNat) (BitVec.ofBool dl ++ entry) } }) s)) ∧
    (∀ (epoch : BitVec 16) (chunk : Byte) vector, chunk.toNat ≤ 63 → epoch.toNat ≠ s.dp.dw.curEp →
      (∀ x, s.dp.dw.pend = some x → x.2.1 ≠ epoch.toNat) →
      exec (.mapEpochPrepare h epoch chunk vector) s = answered h 0x0404 0 (onDp fun p => { p with
        dw := { p.dw with prep := prepare epoch.toNat chunk.toNat vector p.dw.prep } }) s) ∧
    (∀ (epoch : BitVec 16) (at_ : BitVec 64), s.dp.dw.prep.valid = true → s.dp.dw.prep.epoch = epoch.toNat →
      s.dp.dw.prep.seen = BitVec.allOnes 64 → omits s.dp (mapOf s.dp.dw.prep) = false → s.dp.dw.pend = none →
      s.dp.epoch < at_.toNat → slotFree s →
      exec (.mapEpochCommit h epoch at_) s = accepted h 0x0405 .commit (onDp fun p => { p with
        dw := { p.dw with pend := some (at_.toNat, epoch.toNat, mapOf s.dp.dw.prep),
                          prep := { p.dw.prep with valid := false, chunks := [], seen := 0 } } }) s) ∧
    (windowOn s.dp s.dp.dw.node = false → s.dp.dw.leaving = false → slotFree s →
      (hostMode s.dp fmLeave = false → exec (.nodeLeave h 0) s = accepted h 0x0406 (.leave 1 true) (onDp (beginLeave 1)) s) ∧
      (∀ step : Byte, hostMode s.dp fmLeave = true → 1 ≤ step.toNat → step.toNat ≤ 4 → step.toNat = s.dp.dw.leaveDone + 1 →
        exec (.nodeLeave h step) s = accepted h 0x0406 (.leave step.toNat false) (onDp (beginLeave step.toNat)) s))

/-- Memory commands (R204, R207, R211, R230, R231, R237). A second retirement of a row being copied (notes/assumptions/67.md) and one line
in hand of a copy (87.md) are the model's. -/
def Obligations.MemoryCommandsAct : Prop :=
  ∀ (h : Hdr) (s : State),
    (mayGive [0, 1, 2] false h s → slotFree s →
      (∀ (mode : Byte) channels, mode.toNat ≤ 1 → channels ≠ 0 → trainRuns s.dp channels = false →
        (mode = 1 → ∀ ch ∈ chansOf channels, evacuated s.dp ch = true ∨ (chan s.dp ch).state = .down) →
        exec (.memTrain h mode channels) s = accepted h 0x0501 (.train channels (decide (mode = 1)))
          (onDp (beginTrain s.dp.nextOp (decide (mode = 1)) channels)) s) ∧
      (∀ (mode channel bank : Byte) (row : BitVec 32) (spa : Spa),
        (mode = 0 ∧ spaNode spa = s.dp.dw.node ∨
          mode = 1 ∧ channel.toNat ≤ 63 ∧ bank.toNat ≤ 15 ∧ row.toNat ≤ 131071) →
        let x := pageNamed mode channel bank row spa
        (chan s.dp x.1).state ≠ .down → evacuating s.dp x.1 = false → tget 0 (chan s.dp x.1).spares x.2.1 < 64 →
        exec (.memPageRetire h mode channel bank row spa) s =
          accepted h 0x0503 (.pageRetire x.1 x.2.1 x.2.2) (onDp (startRowCopy x.1 x.2.1 x.2.2)) s) ∧
      (∀ (dram sram : Byte) base lines, rangeBad s.dp base lines = false →
        exec (.eccScrubCfg h 1 dram sram base lines) s = accepted h 0x0601 (.range (spaLine base) lines.toNat) id s)) ∧
    (mayGive [0, 1, 2] false h s → ∀ (dram sram : Byte) base lines, 1 ≤ dram.toNat → dram.toNat ≤ 168 → 1 ≤ sram.toNat →
      sram.toNat ≤ 24 →
      exec (.eccScrubCfg h 0 dram sram base lines) s =
        answered h 0x0601 0 (onDp fun p => { p with dramHours := dram.toNat, sramHours := sram.toNat }) s) ∧
    (∀ channel : Byte, channel.toNat ≤ 63 →
      (mayGive [0, 1] true h s → canEvac s.dp channel.toNat = true → slotFree s →
        exec (.memChannelEvacuate h channel false) s = accepted h 0x0502 (.evac channel.toNat) (onDp (startEvac channel.toNat)) s) ∧
      (mayGive [0] true h s →
        exec (.memChannelEvacuate h channel true) s = answered h 0x0502 0 (onDp fun p => { p with
          flashEvac := p.flashEvac &&& ~~~(BitVec.ofNat 64 (2 ^ channel.toNat)) }) s))

/-- Kiln and Odometer commands (R342, R347, R348, R390, R395, R401). That DOMAIN_POWER acts at acceptance (notes/assumptions/44.md) and
the ledger entries of a plan that is dropped (107.md) are the model's. -/
def Obligations.KilnAndOdometerCommandsAct : Prop :=
  ∀ (h : Hdr) (s : State),
    (mayGive [0, 1, 2] false h s →
      (slotFree s →
        (∀ id islands, exec (.marginReplan h 0 id islands) s = accepted h 0x0701 .plan
          (fun t => { t with kn := { t.kn with asked := t.kn.asked ++ [(islands, some s.dp.nextOp)] } }) s) ∧
        (∀ pl islands, s.kn.pend = some pl →
          exec (.marginReplan h 1 pl.id islands) s = accepted h 0x0701 (.approve pl.id) (fun t => { t with
            kn := { t.kn with pend := none, applying := t.kn.applying ++ [{ pl with op := some s.dp.nextOp }] } }) s ∧
          exec (.marginReplan h 2 pl.id islands) s = accepted h 0x0701 (.approve pl.id) (fun t => sendDone s.dp.nextOp
            (onDp (endPlanOp (some s.dp.nextOp) sOk pl.id) (onKiln (dropPlan sOk pl (hoursNow t)) t))) s)) ∧
      (∀ (isl : Byte) (freq power : BitVec 16), (isl.toNat ≤ 127 ∨ isl = 255) → freqOk freq.toNat = true →
        powerOk power.toNat = true →
        exec (.thermalCfg h isl freq power) s = answered h 0x0703 0 (fun t => { t with kn := { t.kn with
          nextCap := (if isl = 255 then List.range 128 else [isl.toNat]).foldl (fun c i => tset c i freq.toNat) t.kn.nextCap,
          nextPow := some power.toNat } }) s)) ∧
    (mayGive [0, 1] true h s → slotFree s → ∀ (d : Byte) on, (isPorts d.toNat = true ∨ isJoin d.toNat = true) →
      (on = false → domainIdle s.dp d.toNat = true) →
      exec (.domainPower h d on) s = accepted h 0x0704 (.domain d.toNat on) (fun t =>
        mgEvent 36 (if on then 1 else 2) (BitVec.ofNat 32 d.toNat) 0 { t with
          kn := { t.kn with domOff := if on then t.kn.domOff &&& ~~~(BitVec.ofNat 64 (2 ^ d.toNat))
                                      else t.kn.domOff ||| BitVec.ofNat 64 (2 ^ d.toNat) },
          dp := if on then t.dp else domainDown d.toNat t.dp }) s) ∧
    (mayGive [0, 1, 2, 3] false h s →
      (∀ (counter event : BitVec 16) (flags : BitVec 6) (user : Byte) filters, counter.toNat ≤ 1023 →
        counterCodes.contains event.toNat = true → (flags.getLsbD 1 = true → counter.toNat % 256 ≠ 255) →
        let i := (user.extractLsb' 0 7).toNat
        (user.getLsbD 7 = true → (inst s.dp i).state ≠ .free ∧ countersOf s.dp counter.toNat i < 512) →
        let c := tget {} s.dp.counters counter.toNat
        exec (.odoConfig h counter event flags user filters) s = answered h 0x0801 0 (onDp fun p => { p with
          counters := tput {} p.counters counter.toNat { c with
            event := event, enable := flags.getLsbD 0, chain := flags.getLsbD 1, sample := flags.getLsbD 2,
            userEn := user.getLsbD 7, user := i, filter := decodeFilter flags filters,
            value := if flags.getLsbD 5 then 0 else c.value } }) s) ∧
      (∀ (first count : BitVec 16) clear (dest : BitVec 64), count ≠ 0 → first.toNat + count.toNat ≤ 1024 →
        dest.extractLsb' 0 3 = 0 → slotFree s →
        exec (.odoSnapshot h first count clear dest) s =
          accepted h 0x0802 (.snapshot first.toNat count.toNat dest clear) id s) ∧
      (∀ (hist : Byte) (event : BitVec 16) (flags : BitVec 6) filters, hist.toNat ≤ 63 → 1 ≤ event.toNat → event.toNat ≤ 7 →
        let x := tget {} s.dp.hists hist.toNat
        exec (.histConfig h hist event flags filters) s = answered h 0x0803 0 (onDp fun p => { p with
          hists := tput {} p.hists hist.toNat { x with
            event := event, enable := flags.getLsbD 0, filter := decodeFilter flags filters, bins := if flags.getLsbD 5 then [] else x.bins } }) s))

/-- Perturbation, firmware and link commands (R352, R354 to R356, R417, R418, R444). The bytes that come with FW_STAGE
(notes/assumptions/48.md), ERR_INJECT's wait for queued writes (55.md), MODE 2 with VALUE_MAX below VALUE (56.md) and LINK_TRAIN on a port
that is not ACTIVE (32.md) are the model's. -/
def Obligations.DebugAndUnitCommandsAct : Prop :=
  ∀ (h : Hdr) (s : State),
    (mayGive [0, 3] false h s → exec (.perturbClear h) s = answered h 0x0902 0 (onDp clearAll) s) ∧
    (mayGive [0, 3] true h s → locked s = false →
      (∀ (engine target mode : Byte) (value vmax : BitVec 16) (pattern seed : BitVec 64), engine.toNat ≤ 5 →
        target.toNat < engineTargets engine.toNat → mode.toNat ≤ 2 → (mode = 2 → value ≤ vmax) →
        (engine = 2 → value.toNat ≤ 63) → (engine = 1 → pattern ≠ BitVec.allOnes 64) →
        exec (.perturbSet h engine target mode value vmax pattern seed) s =
          answered h 0x0901 0 (onDp (perturb engine.toNat target.toNat mode.toNat value.toNat vmax.toNat pattern seed)) s) ∧
      (∀ (kind target : Byte) (count : BitVec 16) (spa : Spa) symbols (word b0 b1 : Byte),
        injectParam s.dp kind.toNat target.toNat count.toNat spa symbols word.toNat b0.toNat b1.toNat = false →
        (kind = 3 → injectLinkUp s.dp target.toNat = true →
          exec (.errInject h kind target count spa symbols word b0 b1) s =
            answered h 0x0903 0 (onDp (injectLink target.toNat count.toNat)) s) ∧
        (kind ≠ 3 → injectBad s.dp kind.toNat (spaLine spa) word.toNat = false →
          job? s.dp s.dp.nextJob = none →
          let line := spaLine spa
          let id := s.dp.nextJob
          ((busy s.dp line = true ∨ kind = 0 ∧ writeWaits s.dp line = true) →
            exec (.errInject h kind target count spa symbols word b0 b1) s =
              waiting h 0x0903 (.inject kind.toNat line symbols word.toNat b0.toNat b1.toNat) line s) ∧
          ((∀ j ∈ s.dp.jobs, j.line ≠ line) → (kind = 0 → writeWaits s.dp line = false) →
            (kind = 0 → exec (.errInject h kind target count spa symbols word b0 b1) s =
              answered h 0x0903 0 (onDp fun p => finish id (corruptDram line symbols (reachIntern .command line 0 p))) s) ∧
            (kind = 1 → ∀ k, sramWord s.dp line word.toNat = some k →
              exec (.errInject h kind target count spa symbols word b0 b1) s = answered h 0x0903 0 (onDp fun p =>
                finish id (corruptSram k (flipMask b0.toNat b1.toNat) (reachIntern .command line 0 p))) s) ∧
            (kind = 2 → exec (.errInject h kind target count spa symbols word b0 b1) s =
              answered h 0x0903 0 (onDp fun p => finish id (corruptHome id line (reachIntern .command line 0 p))) s))))) ∧
    (mayGive [0] false h s → ∀ (offset length : BitVec 32) (src : BitVec 64) final bytes, length ≠ 0 →
      offset.toNat + length.toNat ≤ 25165824 → stageRuns s.dp = false → s.mg.endpoint = true → slotFree s →
      s.mg.startSlot ≠ 1 - s.mg.running → s.mg.oneShot ≠ some (1 - s.mg.running) →
      exec (.fwStage h offset length final ⟨src, bytes⟩) s = accepted h 0x0A01 .fwStage (fun t =>
        let m := setSlot t.mg (1 - s.mg.running) { slotOf t.mg (1 - s.mg.running) with valid := false }
        { t with mg := { m with
          stage := some (offset.toNat, src, (List.range length.toNat).map fun k => bytes.getD k 0, final) } }) s) ∧
    (mayGive [0] true h s → ∀ slot : Byte, slot.toNat ≤ 1 → stageRuns s.dp = false → (slotOf s.mg slot.toNat).valid = true →
      exec (.fwActivate h slot 1) s =
        answered h 0x0A02 0 (fun t => { t with mg := { t.mg with startSlot := slot.toNat } }) s ∧
      exec (.fwActivate h slot 0) s =
        answered h 0x0A02 0 (fun t => { t with mg := { t.mg with oneShot := some slot.toNat } }) s) ∧
    (mayGive [0, 1, 2] false h s → slotFree s → ∀ (prt mode : Byte), prt.toNat ≤ 31 → mode.toNat ≤ 1 →
      portOff s prt.toNat = false → (running s.dp fun w => w == .linkTrain prt.toNat) = false →
      (mode = 0 → (port s.dp prt.toNat).state = .active) →
      exec (.linkTrain h prt mode) s =
        accepted h 0x0C01 (.linkTrain prt.toNat) (onDp (trainNamed prt.toNat (decide (mode = 1)))) s)

/-- The doorbells (R293, R295). The packets that come with a doorbell are the model's (notes/assumptions/25.md). -/
def Obligations.DoorbellsMoveTheirPointers : Prop :=
  ∀ (q : Fin 4) (s : State), hostOn s = true →
    let r := ring s.mg q
    let bad : State := mgEvent 11 1 (BitVec.ofNat 32 q) 0 { s with mg := setRing s.mg q { r with err := true } }
    (∀ tail packets,
      (enabled (ctlOf r) = true → (r.sqTail - r.sqHead).toNat ≤ (tail - r.sqHead).toNat →
        exec (.sqTail q tail packets) s = .next { s with mg := setRing s.mg q { r with
          sqTail := tail, packets := putPackets r.packets r.sqTail (packets.take (tail - r.sqTail).toNat) } }) ∧
      ((enabled (ctlOf r) = false ∨ (tail - r.sqHead).toNat < (r.sqTail - r.sqHead).toNat) →
        exec (.sqTail q tail packets) s = .next bad)) ∧
    (∀ head,
      (enabled (ctlOf r) = true → (head - r.rqHead).toNat ≤ (r.rqTail - r.rqHead).toNat →
        exec (.rqHead q head) s = .next { s with mg := setRing s.mg q { r with rqHead := head } }) ∧
      ((enabled (ctlOf r) = false ∨ (r.rqTail - r.rqHead).toNat < (head - r.rqHead).toNat) →
        exec (.rqHead q head) s = .next bad)) ∧
    (∀ bytes replyOk, mayStart s = true → turnOf (queueReady s) s.mg.round = some q.val →
      ∃ t, exec (.commandStart bytes ⟨false, replyOk⟩) s = .next t ∧ enabled (ctlOf (ring t.mg q)) = false ∧
        (ring t.mg q).err = true ∧
        (s.mg.life ≠ .recovery → t.dp = raise 11 3 (BitVec.ofNat 32 q) 0 s.dp))

/-- The interpreter starts a command (R292, R295, R299, R300, R305). The bytes that come with the row are the model's
(notes/assumptions/48.md). -/
def Obligations.CommandStartTakesTheNextPacket : Prop :=
  ∀ (bytes : List Byte) (replyOk : Bool) (s : State), mayStart s = true →
    (∀ q : Fin 4, turnOf (queueReady s) s.mg.round = some q.val →
      let x := tget 0 (ring s.mg q).packets (ring s.mg q).sqHead.toNat
      let t : State := { s with mg := { s.mg with round := (q.val + 1) % 5 } }
      let h : Hdr := { queue := q.castSucc, seq := pk x 4 32, key := pk x 2 16, replyOk := replyOk }
      exec (.commandStart bytes ⟨true, replyOk⟩) s = .next (match packetCmd x bytes with
        | some c => conclude h c.opcode (perform' h c t)
        | none => replyTo q replyOk (pk x 0 16) sBadOpcode (pk x 4 32) 0 t)) ∧
    (∀ ok x, turnOf (queueReady s) s.mg.round = some 4 → s.mg.spi.cmd = some x →
      let t : State := { s with mg := { s.mg with round := 0, spi := { s.mg.spi with cmd := none } } }
      let h : Hdr := { queue := 4, seq := pk x 4 32, key := pk x 2 16, replyOk := replyOk }
      exec (.commandStart bytes ⟨ok, replyOk⟩) s = .next (match packetCmd x bytes with
        | some c => conclude h c.opcode (perform' h c t)
        | none => replyTo 4 replyOk (pk x 0 16) sBadOpcode (pk x 4 32) 0 t)) ∧
    (turnOf (queueReady s) s.mg.round = none → ∀ ok, exec (.commandStart bytes ⟨ok, replyOk⟩) s = .next s)

/-- The SPI port (R305, R427). What an empty REPLY or COMPL frame returns is a free value (notes/assumptions/3.md). When a bit of STAT is
set is inferred (notes/assumptions/24.md). -/
def Obligations.SpiFramesAct : Prop :=
  ∀ s : State, mgcOn s = true →
    (∀ x, (s.mg.spi.cmd = none ∧ runsHeld s.mg 4 = false ∧ s.mg.spi.reply = none →
        exec (.spiCmd x) s = .next { s with mg := { s.mg with spi := { s.mg.spi with cmd := some x, cmdNew := true } } }) ∧
      (s.mg.spi.cmd ≠ none ∨ runsHeld s.mg 4 = true ∨ s.mg.spi.reply ≠ none →
        exec (.spiCmd x) s = .next { s with mg := { s.mg with spi := { s.mg.spi with discarded := true } } })) ∧
    (∃ t, exec .spiReply s = .next t ∧ t.mg.spi.reply = none ∧
      (∀ w, s.mg.spi.reply = some w → s.side.vio = true →
        t = { s with mg := { s.mg with spi := { s.mg.spi with reply := none, out := w } } }) ∧
      (s.mg.spi.reply = none ∨ s.side.vio = false → t = { s with
        mg := { s.mg with spi := { s.mg.spi with reply := none, out := Config.spiBits s.dp.draw } }, dp := draw1 s.dp })) ∧
    (s.side.vio = true → exec .spiStat s = .next { s with mg := { s.mg with spi := { s.mg.spi with
      overflow := false, discarded := false, replyNew := false, cmdNew := false, complNew := false,
      out := BitVec.ofNat 256 (bit (s.mg.spi.replyNew && s.mg.spi.reply.isSome) +
        2 * bit (s.mg.spi.cmdNew && (s.mg.spi.cmd.isSome || runsHeld s.mg 4)) +
        4 * bit (s.mg.spi.complNew && !s.mg.spi.compl.isEmpty) + 8 * bit s.mg.spi.overflow +
        16 * bit s.mg.spi.discarded) } } }) ∧
    (∀ w rest, s.mg.spi.compl = w :: rest → s.side.vio = true →
      exec .spiCompl s = .next { s with mg := { s.mg with spi := { s.mg.spi with compl := rest, out := w } } })

/-- The key gate and the one keyed register (R322, R323, R328, R354). -/
def Obligations.KeyGateAdmitsOneKeyedWrite : Prop :=
  ∀ (v : Reg) (s : State), hostOn s = true →
    (v.setWidth 16 = (0xB7E5 : BitVec 16) → exec (.keyGate v) s = .next { s with mg := { s.mg with keyOpen := true } }) ∧
    (v.setWidth 16 ≠ (0xB7E5 : BitVec 16) → exec (.keyGate v) s = .next (mgEvent 10 2 0x600000 0 { s with mg := { s.mg with
      keyOpen := false, badKeys := if s.mg.badKeys = 65535 then 65535 else s.mg.badKeys + 1 } })) ∧
    (s.mg.keyOpen = true → v.getLsbD 0 = true → ∃ t, exec (.devCtrl v) s = .next t ∧ locked t = true ∧
      t = { s with mg := { s.mg with keyOpen := false, dbgLock := ⟨true, true, true⟩ },
                   dp := if s.mg.life = .run then clearAll s.dp else s.dp,
                   side := if 0x40 ≤ s.side.ir.toNat ∧ s.side.ir.toNat < 0x80 then { s.side with ir := 0xFF } else s.side }) ∧
    (s.mg.keyOpen = true → v.getLsbD 0 = false →
      exec (.devCtrl v) s = .next { s with mg := { s.mg with keyOpen := false } }) ∧
    (s.mg.keyOpen = false →
      exec (.devCtrl v) s = .next (mgEvent 10 3 8 0 { s with mg := { s.mg with dropped := true } }))

/-- The controls of the queues and of the event ring (R291, R331, R336). -/
def Obligations.QueueAndEventControlsAct : Prop :=
  ∀ (v : Reg) (s : State), hostOn s = true →
    (∀ q : Fin 4, let r := ring s.mg q
      let c : Voted Reg := ⟨v &&& 0x8000007F, v &&& 0x8000007F, v &&& 0x8000007F⟩
      (enabled (ctlOf r) = true ∧ v.getLsbD 31 = false ∧ runsHeld s.mg q = false →
        exec (.cmdqCtrl q v) s = .next { s with mg := setRing s.mg q { r with
          ctrl := c, sqHead := 0, sqTail := 0, rqHead := 0, rqTail := 0, phase := true, stopping := false } }) ∧
      (enabled (ctlOf r) = true ∧ v.getLsbD 31 = false ∧ runsHeld s.mg q = true →
        exec (.cmdqCtrl q v) s = .next { s with mg := setRing s.mg q { r with ctrl := c, stopping := true } }) ∧
      (enabled (ctlOf r) = false ∨ v.getLsbD 31 = true →
        exec (.cmdqCtrl q v) s = .next { s with mg := setRing s.mg q { r with ctrl := c } }) ∧
      (enabled (ctlOf r) = true → ∀ w, exec (.cmdqBaseWrite q w v) s =
        .next (mgEvent 11 2 (BitVec.ofNat 32 q) 0 { s with mg := setRing s.mg q { r with err := true } })) ∧
      (enabled (ctlOf r) = false →
        exec (.cmdqBaseWrite q 0 v) s = .next { s with mg := setRing s.mg q { r with
          sqBase := highWord r.sqBase ++ (v &&& 0xFFFFC000) } } ∧
        exec (.cmdqBaseWrite q 1 v) s = .next { s with mg := setRing s.mg q { r with sqBase := v ++ lowWord r.sqBase } } ∧
        exec (.cmdqBaseWrite q 2 v) s = .next { s with mg := setRing s.mg q { r with
          rqBase := highWord r.rqBase ++ (v &&& 0xFFFFE000) } } ∧
        exec (.cmdqBaseWrite q 3 v) s = .next { s with mg := setRing s.mg q { r with rqBase := v ++ lowWord r.rqBase } })) ∧
    (let x := s.mg.ev
      let c : Voted Reg := ⟨v &&& 0x8000000F, v &&& 0x8000000F, v &&& 0x8000000F⟩
      (enabled (evCtlOf x) = false → v.getLsbD 31 = true → exec (.evtCtrl v) s = .next { s with
        mg := { s.mg with ev := { x with ctrl := c, tail := 0, head := 0, phase := true } }, dp := { s.dp with evLost := 0 } }) ∧
      (v.getLsbD 31 = false → exec (.evtCtrl v) s = .next { s with mg := { s.mg with ev := { x with ctrl := c } } }) ∧
      (enabled (evCtlOf x) = true → v.getLsbD 31 = true → fld (evCtlOf x) 0 4 ≠ fld v 0 4 →
        exec (.evtCtrl v) s = .next { s with mg := { s.mg with ev := { x with err := true } } }) ∧
      (enabled (evCtlOf x) = true → v.getLsbD 31 = true → fld (evCtlOf x) 0 4 = fld v 0 4 →
        exec (.evtCtrl v) s = .next { s with mg := { s.mg with ev := { x with ctrl := c } } }) ∧
      exec (.evtHead v) s = .next { s with mg := { s.mg with ev := { x with head := v.setWidth 16 } } })

/-- Firing (R316, R317). That the tiles and the management die apply in rows of their own is the model's choice (notes/assumptions/18.md).
-/
def Obligations.FiringsApplyTheirSnapshot : Prop :=
  (∀ (g : Fin 8) (s : State), hostOn s = true → (∀ x ∈ s.mg.fires, x.1 ≠ g.val) →
    exec (.cfgFire (BitVec.ofNat 32 (2 ^ g.val))) s = .next { s with mg := { s.mg with
      fires := s.mg.fires ++ [(g.val, { snap := (groupRegs s g).map fun a => (a, stagedOf s a), units := unitsOf g })] } }) ∧
  (∀ (g : Fin 8) (u : Fin 5) (f : Firing) (s : State), (if u.val = 4 then mgcOn s = true else s.mg.life = .run) →
    s.mg.fires.find? (fun x => x.1 == g.val) = some (g.val, f) → u.val ∈ f.units →
    let rest := s.mg.fires.filter fun x => !(x.1 == g.val)
    let left := f.units.filter fun n => n != u.val
    ∃ t, exec (.fireApply g u) s = .next t ∧
      t.mg.fires = (if left.isEmpty then rest else rest ++ [(g.val, { f with units := left })]) ∧
      ((f.snap.map (·.1)).Nodup → ∀ x ∈ f.snap, rwfUnit x.1 = u.val → x.1 ≠ aDmcCtrl 0 → rg t.dp x.1 = x.2) ∧
      (∀ a, (∀ x ∈ f.snap, rwfUnit x.1 = u.val → x.1 ≠ a) → rg t.dp a = rg s.dp a))

/-- R318. -/
def Obligations.FiringAPendingGroupSetsItsError : Prop :=
  ∀ (v : Reg) (s : State), hostOn s = true → ∃ t, exec (.cfgFire v) s = .next t ∧ ∀ g : Fin 8, v.getLsbD g = true →
    ((∃ x ∈ s.mg.fires, x.1 = g.val) →
      (t.mg.fires.filter fun x => x.1 == g.val) = (s.mg.fires.filter fun x => x.1 == g.val) ∧ t.mg.fireErr.getLsbD g = true) ∧
    ((∀ x ∈ s.mg.fires, x.1 ≠ g.val) →
      (t.mg.fires.filter fun x => x.1 == g.val) =
        [(g.val, { snap := (groupRegs s g).map fun a => (a, stagedOf s a), units := unitsOf g })] ∧
      t.mg.fireErr.getLsbD g = s.mg.fireErr.getLsbD g)

/-- Register accesses (R312, R313, R316, R321). What registers read while the main die does not run is inferred (notes/assumptions/19.md).
-/
def Obligations.RegisterAccessesAct : Prop :=
  ∀ (o : BitVec 25) (v : Reg) (s : State), hostOn s = true → o.extractLsb' 0 2 = 0 →
    (o.toNat ∉ votedRegs → exec (.lowWordRead o) s = .next { s with mg := { s.mg with
      readData := regImage s o.toNat, shadows := match pairHigh s o.toNat with
        | some w => tput 0 s.mg.shadows o.toNat w
        | none => s.mg.shadows } }) ∧
    (rwfMask o.toNat ≠ 0 → ∃ t, exec (.registerWrite o 15 v) s = .next t ∧
      stagedOf t o.toNat = (stagedOf s o.toNat &&& ~~~(rwfMask o.toNat)) ||| (v &&& rwfMask o.toNat) ∧
      (∀ a, a ≠ o.toNat → stagedOf t a = stagedOf s a) ∧ t.dp = s.dp ∧ t.kn = s.kn ∧ t.sg = s.sg ∧ t.side = s.side) ∧
    (∀ e : BitVec 4, e ≠ 15 →
      (assigned o.toNat = true → exec (.registerWrite o e v) s = .next (mgEvent 9 1 (BitVec.ofNat 32 o.toNat) 0 s)) ∧
      (assigned o.toNat = false → exec (.registerWrite o e v) s = .next s))

/-- Events on their way to the host (R336, R337, R339, R340). What clearing a hold-off discards is inferred (notes/assumptions/47.md). -/
def Obligations.EventRowsAct : Prop :=
  (∀ (e : Ev) (rest : List Ev) (s : State), s.dp.evq = e :: rest → hostOn s = true → enabled (evCtlOf s.mg.ev) = true →
    evFull s.mg.ev = false →
    let x := s.mg.ev
    let n := evSize (evCtlOf x)
    exec (.eventWrite true) s = .next { s with
      mg := coalesce s.dp (srcVector s.dp e.source) { s.mg with ev := { x with
        slots := tput 0 x.slots x.tail (eventImage e x.phase s.dp.lostFlag), tail := (x.tail + 1) % n,
        phase := if x.tail + 1 = n then !x.phase else x.phase } },
      dp := { s.dp with evq := rest, lostFlag := false, ops := match e.op with
        | none => s.dp.ops
        | some id => s.dp.ops.filter fun o => !(o.id == id) } } ∧
    exec (.eventWrite false) s = .next (mgEvent 11 3 4 0 { s with mg := { s.mg with ev := evStop x } })) ∧
  (∀ (v : Fin 64) (s : State), hostOn s = true → tget 0 s.mg.ev.since v ≠ 0 → fld (rg s.dp (aEvtVec v)) 16 16 ≠ 0 →
    exec (.coalescingTimeout v) s = .next { s with
      mg := vectorMessage v { s.mg with ev := { s.mg.ev with since := tput 0 s.mg.ev.since v 0 } } }) ∧
  (∀ (n : Fin 288) (s : State), s.mg.life ≠ .noVin → (tget {} s.dp.holds n).on = true →
    (tget {} s.dp.holds n).counted = none →
    exec (.holdOffEnd n) s = .next { s with dp := { s.dp with holds := tput {} s.dp.holds n {} } }) ∧
  (∀ (n : Fin 288) (e : Ev) (k : Nat) (s : State), s.mg.life ≠ .noVin → (tget {} s.dp.holds n).on = true →
    (tget {} s.dp.holds n).counted = some (e, k) →
    ∃ t q, exec (.holdOffEnd n) s = .next t ∧ { t with dp := s.dp } = s ∧
      q = offerEv { s.dp with holds := tput {} s.dp.holds n {} } { e with merged := min 65535 (k - 1) } ∧
      t.dp = (if evRoom s.dp = false ∨ fld (rg s.dp (aEvtSrc n)) 16 16 = 0 then q
        else { q with holds := tput {} q.holds n { on := true } }))

/-- The endpoint (R432). -/
def Obligations.EndpointRowsAct : Prop :=
  ∀ s : State, mgcOn s = true →
    (s.mg.endpoint = true → ∃ t, exec .endpointDisable s = .next t ∧ t.mg.endpoint = false ∧
      (∀ q : Fin 4, enabled (ctlOf (ring t.mg q)) = false ∧ (ring t.mg q).err = true) ∧
      enabled (evCtlOf t.mg.ev) = false ∧ t.mg.ev.err = true ∧ t.dp = s.dp ∧ t.kn = s.kn ∧ t.side = s.side ∧ t.sg = s.sg ∧
      t.mir = s.mir ∧ t.mg.staged = s.mg.staged ∧ t.mg.spi = s.mg.spi ∧ t.mg.dbgLock = s.mg.dbgLock) ∧
    exec .endpointEnable s = .next { s with mg := { s.mg with endpoint := true } }

/-- The sideband and the pins (R427, R433 to R437). The instruction register's value for BYPASS and the low-clock timeout are the model's
(notes/assumptions/11.md and 50.md). -/
def Obligations.SidebandRowsAct : Prop :=
  (∀ (code : Byte) (s : State), s.mg.life ≠ .noVin →
    (∀ bs, smbRead s code.toNat = some bs →
      exec (.smbusRead code) s = .next { s with side := { s.side with out := bs, nack := false } } ∧
      (∀ v, exec (.smbusWrite code v true) s = .next { s with side := { (match code.toNat with
        | 0x01 => { s.side with alertStat := s.side.alertStat &&& ~~~(v.setWidth 8) }
        | 0x02 => { s.side with alertMask := v.setWidth 8 }
        | 0x0A => { s.side with alertTj := v }
        | 0x0B => { s.side with alertPw := v }
        | _ => s.side) with nack := false } })) ∧
    (smbRead s code.toNat = none →
      exec (.smbusRead code) s = .next { s with side := { s.side with out := [], nack := true } } ∧
      (∀ v ok, exec (.smbusWrite code v ok) s = .next { s with side := { s.side with nack := true } })) ∧
    (∀ v, exec (.smbusWrite code v false) s = .next { s with side := { s.side with nack := true } }) ∧
    (s.side.alert = true →
      exec .alertResponse s = .next { s with side := { s.side with out := [0xBC], nack := false, alert := false } }) ∧
    (s.side.alert = false → exec .alertResponse s = .next { s with side := { s.side with out := [], nack := true } }) ∧
    exec .smbusClockLowTimeout s = .next { s with side := { s.side with out := [] } }) ∧
  (∀ (code : Byte) (low : Bool) (s : State), mgcOn s = true →
    ((code = 0 ∨ code = 2 ∨ code = 3) →
      (low = true → exec (.tapInstructionLoad code low) s =
        .next { s with side := { s.side with ir := code, pins := some code, lapsed := false } }) ∧
      (low = false → exec (.tapInstructionLoad code low) s =
        .next { s with side := { s.side with ir := 0xFF, pins := none, lapsed := false } })) ∧
    (code = 1 → exec (.tapInstructionLoad code low) s =
      .next { s with side := { s.side with ir := 1, pins := none, lapsed := false } }) ∧
    (4 ≤ code.toNat → exec (.tapInstructionLoad code low) s = .next { s with side := { s.side with
      ir := if 0x40 ≤ code.toNat ∧ code.toNat < 0x80 ∧ locked s = false then code else 0xFF, pins := none, lapsed := false } })) ∧
  (∀ present s, exec (.vioChange present) s = .next { s with side := { s.side with vio := present } })

/-- Starts and stops (R391, R406, R407, R410, R421, R441). That a start takes one row (notes/assumptions/6.md), the stop without
THERMTRIP_N (43.md), the contents after a stop (12.md) and MAIN_DOWN (35.md) are the model's. -/
def Obligations.PowerRowsAct : Prop :=
  (∀ b s, s.mg.life = .noVin → exec (.powerOn b) s = .next (startMain b { s with side := { vio := s.side.vio } })) ∧
  (∀ b s, s.mg.life ≠ .noVin → s.mg.life ≠ .overVoltage → exec (.coldReset b) s = .next (startMain b s)) ∧
  (∀ b s, s.mg.life = .overVoltage → exec (.overVoltageEnd b) s = .next (startMain b s)) ∧
  (∀ s, s.mg.life ≠ .noVin → ∃ t, exec .vinLoss s = .next t ∧ t.mg.life = .noVin ∧ t.side.pwrgd = false ∧
    t.dp.dram = [] ∧ t.dp.ways = [] ∧ t.mg.rings = [] ∧ t.mg.staged = [] ∧ t.mg.slotA = s.mg.slotA ∧ t.mg.slotB = s.mg.slotB ∧
    t.mg.startSlot = s.mg.startSlot ∧ t.dp.flashRows = s.dp.flashRows ∧ t.kn.ledger = s.kn.ledger ∧
    t.sg = (if s.sg.powered then { s.sg with win := s.sg.win.flag fMainDown } else s.sg)) ∧
  (∀ s, s.mg.life ≠ .noVin → s.mg.life ≠ .overVoltage → ∃ t, exec .overVoltageStop s = .next t ∧
    t.mg.life = .overVoltage ∧ t.side.pwrgd = false ∧ t.dp.dram = [] ∧ t.mg.rings = [] ∧ t.mg.slotA = s.mg.slotA ∧ t.sg = s.sg) ∧
  (∀ (d : Fin 64) s, s.mg.life = .run → s.kn.domOff.getLsbD d = false →
    let fault := s.kn.domFault ||| BitVec.ofNat 64 (2 ^ d.val)
    ((isPorts d = true ∨ isJoin d = true) → ∃ t, exec (.regulatorFault d) s = .next t ∧
      t.kn = { s.kn with domFault := fault, domOff := s.kn.domOff ||| BitVec.ofNat 64 (2 ^ d.val) } ∧
      t.dp = wake (tidy (raise 36 3 (BitVec.ofNat 32 d) 0
        ((domainLinks d).foldl (fun q j => faultLink j q) ((domainPorts d).foldl (fun q i => faultPort i q) s.dp)))) ∧
      t.mg = s.mg ∧ t.sg = s.sg ∧ t.side = s.side) ∧
    (isPorts d = false → isJoin d = false → ∃ t, exec (.regulatorFault d) s = .next t ∧ t.mg.life = .tripped ∧
      t.side.pwrgd = false ∧ t.kn.domFault = fault ∧ t.dp.dram = [] ∧ t.sg = s.sg)) ∧
  (∀ (i : Fin 32) s, s.mg.life = .run → ((port s.dp i).mtags.any fun x => x.2.use == .flush) = true →
    (∃ o ∈ s.dp.ops, o.ended = none ∧ ∃ n, o.work = .power n) →
    exec (.flushSilenceTimeout i) s = planeTurns (detach i s.dp) s)

/-- The meter port (R373, R374, R376 to R378, R383). The order of the refusals is inferred (notes/assumptions/34.md). -/
def Obligations.MeterPortAnswers : Prop :=
  ∀ s : State, s.dp.variant = .ms → s.sg.powered = true →
    let reply := fun (st : Byte) (data : List Byte) (g : Sag) => (Host.Outcome.next { s with
      sg := { g with answer := (st :: data) ++ bytesOf 4 (crc32 (st :: data)).toNat } } : Host.Outcome State Fault Refusal)
    exec .mtrStatus s = reply 0 (bytesOf 24 (statusImage s.sg).toNat) s.sg ∧
    exec .mtrTime s =
      reply 0 (bytesOf 6 (s.sg.time / secLen) ++ bytesOf 4 (s.sg.time % secLen / 2) ++ bytesOf 1 (s.sg.time % 2)) s.sg ∧
    (∀ (seq : BitVec 32) w, s.sg.records.find? (fun x => x.seq == seq.toNat) = some w →
      exec (.windowRead seq) s = reply 0 (recordBytes w) s.sg) ∧
    (∀ (seq : BitVec 32), s.sg.records.find? (fun x => x.seq == seq.toNat) = none → exec (.windowRead seq) s = reply 4 [] s.sg) ∧
    (∀ (i : BitVec 16) e, s.sg.audit[i.toNat]? = some e → exec (.auditRead i) s = reply 0 (bytesOf 32 e.toNat) s.sg) ∧
    (∀ (i : BitVec 16), s.sg.audit.length ≤ i.toNat → exec (.auditRead i) s = reply 4 [] s.sg) ∧
    (∀ p i v, paramNow s.sg p.toNat i.toNat = some v → exec (.paramGet p i) s = reply 0 (bytesOf 8 v.toNat) s.sg) ∧
    (∀ p i, paramNow s.sg p.toNat i.toNat = none → exec (.paramGet p i) s = reply 2 [] s.sg) ∧
    (∀ p i v, let x := paramWrite p.toNat i.toNat v s.sg
      exec (.paramSet p i v) s = reply x.1 [] x.2 ∧
      (s.sg.audit.length < 1024 → s.sg.sealN = true → paramOk p.toNat i.toNat v = true → x.1 = 0 ∧
        x.2.sealCnt = s.sg.sealCnt + 1 ∧ paramLast x.2 p.toNat i.toNat = (if p = 3 then v &&& 0xFFFFFFFF00000003 else v))) ∧
    (∀ secs : BitVec 48, let x := timeWrite secs.toNat s.sg
      exec (.setTime secs) s = reply x.1 [] x.2 ∧
      (s.sg.audit.length < 1024 → s.sg.sealN = true → x.1 = 0 ∧ x.2.setPend = some (secs.toNat, true) ∧
        x.2.sealCnt = s.sg.sealCnt ∧ x.2.audit.length = s.sg.audit.length + 1) ∧
      (s.sg.audit.length < 1024 → s.sg.sealN = false → s.sg.timeValid = false → s.sg.setPend = none → x.1 = 0 ∧
        x.2 = { s.sg with setPend := some (secs.toNat, false) }))

/-- R376. -/
def Obligations.SealCounterAndAuditLog : Prop :=
  (∀ (p i : Byte) (v : BitVec 64) (s : State), s.dp.variant = .ms → s.sg.powered = true →
    ∃ t, exec (.paramSet p i v) s = .next t ∧
      (t.sg.answer.head? = some 0 → t.sg.sealCnt = s.sg.sealCnt + 1 ∧ ∃ e, t.sg.audit = s.sg.audit ++ [e] ∧
        e.extractLsb' 0 16 = BitVec.ofNat 16 s.sg.audit.length ∧ e.extractLsb' 16 8 = p ∧
        (p = 1 → e.extractLsb' 24 7 = i.setWidth 7) ∧ e.extractLsb' 32 32 = t.sg.sealCnt ∧
        e.extractLsb' 64 48 = BitVec.ofNat 48 (s.sg.time / secLen) ∧
        e.extractLsb' 128 64 = paramLast s.sg p.toNat i.toNat ∧ e.extractLsb' 192 64 = paramLast t.sg p.toNat i.toNat) ∧
      (t.sg.answer.head? ≠ some 0 → { t.sg with answer := s.sg.answer } = s.sg) ∧
      (1024 ≤ s.sg.audit.length → t.sg.answer.head? = some 3)) ∧
  (∀ (secs : BitVec 48) (s : State), s.dp.variant = .ms → s.sg.powered = true → 1024 ≤ s.sg.audit.length →
    ∃ t, exec (.setTime secs) s = .next t ∧ t.sg.answer.head? = some 3 ∧ { t.sg with answer := s.sg.answer } = s.sg) ∧
  (∀ s t : State, Sag.Legal s.sg → step s = .next t →
    s.sg.sealCnt.toNat ≤ t.sg.sealCnt.toNat ∧ s.sg.audit <+: t.sg.audit ∧ t.sg.audit.length ≤ 1024 ∧
      (s.sg.audit.length = 1024 → t.sg.sealCnt = s.sg.sealCnt))

/-- The Sagger by itself (R358 to R361, R370 to R373, R375, R377, R382). That a row of a boundary or an edge makes its clock stand there
(notes/assumptions/2.md), the adjacent counts of a record (36.md) and the order of late rows (108.md) are the model's. -/
def Obligations.SaggerRowsAct : Prop :=
  ∀ s : State, s.dp.variant = .ms →
    (s.sg.powered = true →
      (let e := nextEnd s.sg.win.lenMs s.sg.win.start
        ∃ t, exec .windowBoundary s = .next t ∧ t.sg.win.seq = (s.sg.win.seq + 1) % 2 ^ 32 ∧ t.sg.win.start = e ∧
          t.sg.time = max s.sg.time e ∧ t.sg.win.lenMs = s.sg.lenNext ∧ t.sg.lenMs = s.sg.lenNext ∧ t.sg.win.insts = [] ∧
          (∃ w, t.sg.ending = s.sg.ending ++ [w] ∧ w.stop = some e ∧ w.seq = s.sg.win.seq ∧ w.insts = s.sg.win.insts) ∧
          t.sg.records = s.sg.records ∧ t.mg = s.mg ∧ t.kn = s.kn) ∧
      (s.sg.setPend = none → let e := (s.sg.time / secLen + 1) * secLen
        exec .saggerSecondEdge s = .next { s with
          sg := { s.sg with time := e }, dp := if s.mg.life = .run then { s.dp with tapTime := e } else s.dp }) ∧
      (∀ secs b, s.sg.setPend = some (secs, b) → ∃ t, exec .saggerSecondEdge s = .next t ∧ t.sg.time = secs * secLen ∧
        t.sg.win.start = secs * secLen ∧ t.sg.timeValid = true ∧ t.sg.setPend = none ∧
        ∃ w, t.sg.ending = s.sg.ending ++ [w] ∧ w.flags.getLsbD fTimeSet = true) ∧
      (∀ w rest, s.sg.ending = w :: rest → ∃ t, exec .windowRecordClose s = .next t ∧ t.sg.ending = rest ∧
        t.sg.records = (s.sg.records ++ [w]).drop ((s.sg.records ++ [w]).length - 64)) ∧
      (∀ k r rest, s.mg.life = .run → (tap s.dp k.val).recs = r :: rest → exec (.tapRecord k) s = .next { s with
        sg := takeRec r s.sg, dp := setTap s.dp k { tap s.dp k with recs := rest } }) ∧
      (∀ low, s.sg.sealN ≠ low → exec (.sealN low) s = .next { s with
        sg := tell 43 (if low then 1 else 2) s.sg.sealCnt.toNat 0 { s.sg with sealN := low } }) ∧
      (s.sg.ref = .locked → s.sg.refSel ≠ 2 → ∃ t, exec .referenceLoss s = .next t ∧ t.sg.ref = .holdover ∧
        t.sg.holdFrom = s.sg.time ∧ t.sg.win.flags.getLsbD fHoldover = true) ∧
      (s.sg.ref = .holdover → ∃ t, exec .referenceReturn s = .next t ∧ t.sg.ref = .acquiring) ∧
      (s.sg.ref = .acquiring → ∃ t, exec .referenceLock s = .next t ∧ t.sg.ref = .locked ∧ t.sg.win = s.sg.win) ∧
      (s.mg.life = .run → exec .saggerMirrorUpdate s = .next { s with
        sg := { s.sg with news := [] }, mir := { present := true, sag := { s.sg with news := [], answer := [] } },
        dp := s.sg.news.foldl (fun q n => raise n.1 n.2.1 n.2.2.1 n.2.2.2 q) s.dp })) ∧
    (s.sg.powered = false → ∃ t, exec .vsagPowerUp s = .next t ∧ t.sg.powered = true ∧ t.sg.time = 0 ∧
      t.sg.timeValid = false ∧ t.sg.ref = .acquiring ∧ t.sg.powerUps = min 65535 (s.sg.powerUps + 1) ∧
      t.sg.audit = s.sg.audit ∧ t.sg.sealCnt = s.sg.sealCnt ∧ t.sg.lenMs = s.sg.lenNext ∧ t.sg.records = []) ∧
    (∃ t, exec .vsagRemoval s = .next t ∧ t.sg.powered = false ∧ t.sg.records = [] ∧ t.sg.audit = s.sg.audit ∧
      t.sg.sealCnt = s.sg.sealCnt ∧ t.sg.lenNext = s.sg.lenNext ∧ t.sg.labelsNext = s.sg.labelsNext ∧
      t.sg.refSel = s.sg.refSel ∧ t.sg.policy = s.sg.policy ∧ t.sg.limitS = s.sg.limitS ∧ t.sg.powerUps = s.sg.powerUps ∧
      t.mg = s.mg ∧ t.dp = s.dp) ∧
    exec .mirrorLoss s = .next { s with mir := {} }

/-- Samples, plans and clocks (R14, R15, R226, R320, R392 to R401). That a row of a boundary or an edge makes its clock stand there
(notes/assumptions/2.md), the canary's event (38.md), the plan's details (107.md) and that a retune's pause blocks no row (79.md) are the
model's. -/
def Obligations.ClimateRowsAct : Prop :=
  (∀ temps bad dram vin pin s, s.mg.life = .run →
    let x := readSensors temps bad s.kn s.dp
    let y := sampleAll x.1 (readDram dram x.2)
    tooHot y.1 = false → exec (.temperatureSample temps bad dram vin pin) s =
      .next { s with kn := y.1, dp := y.2, side := refresh y.1 vin pin s.side }) ∧
  (∀ (c : Byte) slack s, (s.mg.life = .run ∨ s.mg.life = .retain) →
    let k := { s.kn with canaries := tput {} s.kn.canaries c.toNat { valid := true, slack := slack } }
    (tightCanary s.dp { valid := true, slack := slack } = false ∨ tightCanary s.dp (canary s.kn c.toNat) = true →
      exec (.canaryReading c slack) s = .next { s with kn := k }) ∧
    (tightCanary s.dp { valid := true, slack := slack } = true → tightCanary s.dp (canary s.kn c.toNat) = false →
      hostMode s.dp fmMargin = false → ∃ t, exec (.canaryReading c slack) s = .next t ∧
        t.dp = raise 35 0 (BitVec.ofNat 32 c.toNat) (slack.setWidth 128) s.dp ∧
        t.kn = { k with asked := s.kn.asked ++ [(islandMask [c.toNat / 2], none)] })) ∧
  (∀ s, (s.mg.life = .run ∨ s.mg.life = .retain) →
    (fld (rg s.dp aKlnCfg) 0 16 ≠ 0 → exec .periodicPlan s =
      .next { s with kn := { s.kn with asked := s.kn.asked ++ [(0, none)] } }) ∧
    (s.mg.warm = false → exec .marginPlanMade s = .next (onKiln (planMade (hoursNow s)) s))) ∧
  (∀ (i : Fin 128) s, exec (.retuneEnd i) s =
    .next { s with kn := setIsland s.kn i { island s.kn i with paused := false } }) ∧
  (∀ (i : Fin 128) s, s.mg.life = .run → s.mg.power = 1 → islandBusy s.dp i = false →
    exec (.islandClockGate i) s = planeTurns { s.dp with gated := s.dp.gated ||| BitVec.ofNat 128 (2 ^ i.val) } s) ∧
  (∀ rates rfm watts s, s.mg.life = .run → ∃ t, exec (.epochBoundary rates rfm watts) s = .next t ∧
    t.mg = { s.mg with latched := (s.dp.ops.foldl (fun u o => latchOne ((s.dp.epoch + 1) % 2 ^ 64) o u) s).mg.latched } ∧
    t.sg = s.sg ∧ t.side = s.side) ∧
  (∀ s, mgcOn s = true → ∃ t, exec .slowClockEdge s = .next t ∧ t.rc.kn = s.kn ∧ t.rc.mir = s.mir ∧
    t.rc.dp = { s.dp with clock := (s.dp.clock / 2000 + 1) * 2000 } ∧ t.kn = s.kn ∧ t.sg = s.sg ∧
    (∀ q, ctlOf (ring t.mg q) = ctlOf (ring s.mg q)) ∧ locked t = locked s)

/-- The ends of long operations and of a command that waits (R142, R302, R309, R355, R444). That a row whose condition does not hold
changes nothing is the model's choice (notes/assumptions/13.md). -/
def Obligations.LongOperationRowsAct : Prop :=
  (∀ n o s, op? s.dp n = some o →
    (o.ended = none → exec (.longOperationComplete n) s = .next (settled (finishWork o s)) ∧
      ((o.work = .cleanAll ∨ (∃ b l, o.work = .clean b l ∨ o.work = .clinv b l) ∨ ∃ b l k, o.work = .inval b l k) →
        nextWayFor s.dp o = none → o.inHand = 0 →
        exec (.longOperationComplete n) s =
          .next (settled (sendDone o.id (onDp (endOp o.id (if o.c = 0 then sOk else sPartial)) s)))) ∧
      (o.work = .disable → (nextWayFor s.dp o ≠ none ∨ o.inHand ≠ 0 ∨ writesQueued s.dp = false) →
        exec (.longOperationComplete n) s = .next (settled s))) ∧
    (o.ended ≠ none → s.mg.warm = false → exec (.longOperationComplete n) s = .next (sendDone n s)) ∧
    (o.ended = none →
      (∀ j, o.work = .linkUp j → (link s.dp j).state ≠ .active →
        exec (.trainingCommandTimeout n) s = .next (sendDone o.id (onDp (endOp o.id sTimeout) s))) ∧
      (∀ i, o.work = .linkTrain i → (port s.dp i).state ≠ .active →
        exec (.trainingCommandTimeout n) s = .next (sendDone o.id (onDp (endOp o.id sTimeout) s))))) ∧
  (∀ h s, s.mg.held = some h → h.mute = false →
    exec .busyLineTimeout s = .next (replyTo h.queue h.replyOk h.opcode sTimeout h.seq 0
      { s with dp := leaveLine h.job s.dp, mg := { s.mg with held := none } }))

/-- R310. -/
def Obligations.FunctionModesFollowTheirCommand : Prop :=
  (∀ f, hostMode State.reset.dp f = false) ∧
  (∀ b s t, (s.mg.life = .noVin ∧ exec (.powerOn b) s = .next t) ∨
    (s.mg.life ≠ .noVin ∧ s.mg.life ≠ .overVoltage ∧ exec (.coldReset b) s = .next t) → ∀ f, hostMode t.dp f = false) ∧
  (∀ h func mode s, mayGive [0, 1] false h s → func.toNat ≤ 11 →
    (modeBusy func.toNat s = true → exec (.funcModeSet h func mode) s = turnedAway h 0x0120 sBadState 0 s) ∧
    (modeBusy func.toNat s = false → ∃ t, exec (.funcModeSet h func mode) s = .next (replyTo h.queue h.replyOk 0x0120 sOk h.seq 0 t) ∧
      hostMode t.dp func.toNat = mode ∧ ∀ f, f < 12 → f ≠ func.toNat → hostMode t.dp f = hostMode s.dp f)) ∧
  (∀ h s, mayGive [0, 1, 2, 3] false h s → exec (.funcModeGet h) s = answered h 0x0121 (s.dp.modes.setWidth 192) id s) ∧
  (∀ n s, (endWarm n s).dp.modes = s.dp.modes)

/-- REQ rows of agents (R40, R67, R157, R276, R346, R419). The form check before the counter page and the page's free bytes
(notes/assumptions/68.md), a split write wholly in the next line (94.md), the IRA of the event (95.md) and the reason of a message that
breaks several conditions (101.md) are the model's. -/
def Obligations.RequestsOfAgentsGetTheirOutcome : Prop :=
  ∀ (op : ReqOp) (i : Fin 32) (b : Body) (s : State), s.mg.life = .run →
    let m := asSlots (agentSlots 0 (opBits op)) b
    ∀ p, agentTakes s.dp p i 0 (opBits op) m →
    let q := setPort p i { port p i with tags := tset (port p i).tags m.tag.toNat { sub := m.sub.toNat } }
    let row := exec (reqRow op (.port i) b) s
    ((tfind (port p i).tags m.tag.toNat).isSome = true → row = planeTurns (contain i cTag p) s) ∧
    (tfind (port p i).tags m.tag.toNat = none →
      ((port p i).hop.draining = true → row = planeTurns (sendErr
        { op := op, port := i, sub := m.sub.toNat, tag := m.tag, t0 := q.clock } rAborted (giveCredit i 0 q)) s) ∧
      ((port p i).hop.draining = false →
        (∀ r, checkReq q i op m = .pass r → row = planeTurns (offerReq r q) s) ∧
        (checkReq q i op m = .page → row = planeTurns (answerPage i op m (giveCredit i 0 q)) s) ∧
        (∀ reason spa, checkReq q i op m = .fail reason spa → row = planeTurns (sendErr
          { op := op, port := i, sub := m.sub.toNat, tag := m.tag, inst := m.inst.toNat, priv := m.priv, t0 := q.clock }
          reason (giveCredit i 0 (checkFailed i op m reason spa q))) s)))

/-- REQ rows of join links (R72, R93, R241, R251, R419). That forwarded I/O waits for a free tag (notes/assumptions/104.md) and what its
event counts (106.md) are the model's. -/
def Obligations.RequestsOfOtherModulesAreTaken : Prop :=
  (∀ (op : ReqOp) (j : Fin 16) (r : Route) (b : Body) (s : State), s.mg.life = .run → op ≠ .fence →
    let m := asSlots (joinSlots 0 (opBits op)) b
    ∀ p, linkTakes s.dp p j r 0 0 (opBits op) m →
    let row := exec (reqRow op (.link j r) b) s
    (drainOn p = true → row = planeTurns (setLink p j { link p j with rx := (link p j).rx ++ [.join r 0 0 (opBits op) m] }) s) ∧
    (drainOn p = false → isIo op = true →
      (present p.dw.cur p.dw.node = false → row = planeTurns
        (ioOver r r.port.toNat m.sub.toNat m.addr (.error rNodeAbsent) (giveJoin j 0 r.vcb p)) s) ∧
      (present p.dw.cur p.dw.node = true → (port p r.port.toNat).state ≠ .active → row = planeTurns
        (ioOver r r.port.toNat m.sub.toNat m.addr (.error rAborted) (giveJoin j 0 r.vcb p)) s) ∧
      (present p.dw.cur p.dw.node = true → (port p r.port.toNat).state = .active →
        let q := sendTagged r.port.toNat (.ioRemote r) 0 (opBits op) { m with sub := BitVec.ofNat 3 m.sub.toNat } p
        row = planeTurns { q with joinHeld := q.joinHeld ++ [(j.val, 0, r.vcb, [.ioRemote r])] } s)) ∧
    (drainOn p = false → isIo op = false →
      let q := fun w => { p with joinWait := p.joinWait ++ [(j.val, r, op, m, w)] }
      let t := lineTile (spaLine m.addr)
      (∀ ent, pickAdmit (q none) t = some (.join ent) → row = planeTurns (admitJoin t ent (q none)) s) ∧
      ((∀ ent, pickAdmit (q none) t ≠ some (.join ent)) →
        row = planeTurns (occur t 0x7002 (joinOcc r op m) (q (some p.clock))) s))) ∧
  ∀ (j : Fin 16) (r : Route) (b : Body) (s : State), s.mg.life = .run → (link s.dp j).state = .active →
    exec (.reqFence (.link j r) b) s = planeTurns (failLink j s.dp) s

/-- EVN_WB_DATA (R65, R91, R111, R251). The order of containment reasons (notes/assumptions/101.md) and the moment a credit goes back
(78.md) are the model's. -/
def Obligations.EvictionsReachTheirHome : Prop :=
  (∀ (i : Fin 32) (b : Body) (s : State), s.mg.life = .run →
    let m := asSlots (agentSlots 2 0) b
    ∀ p, agentTakes s.dp p i 2 0 m →
    ((tfind (port p i).tags m.tag.toNat).isSome = true → exec (.evnWbData (.port i) b) s = planeTurns (contain i cTag p) s) ∧
    (tfind (port p i).tags m.tag.toNat = none →
      let q := giveCredit i 2 (setPort p i
        { port p i with tags := tset (port p i).tags m.tag.toNat { sub := m.sub.toNat, evn := true } })
      (spaNode m.addr = q.dw.node → exec (.evnWbData (.port i) b) s = planeTurns (arriveEvict (spaLine m.addr)
        { node := q.dw.node, port := i, sub := m.sub.toNat, tag := m.tag } m.data (m.info.getLsbD 0) q) s) ∧
      (spaNode m.addr ≠ q.dw.node → ∃ f t, exec (.evnWbData (.port i) b) s = planeTurns t s ∧
        t = { q with dw := { q.dw with out := q.dw.out ++ [f] } } ∧ f.cls = 2 ∧ f.op = 0 ∧
        f.route.dst = BitVec.ofNat 14 (spaNode m.addr) ∧ f.route.xtag = m.tag ∧ f.body.data = m.data ∧
        f.body.addr.toNat = m.addr.toNat / 64 * 64))) ∧
  ∀ (j : Fin 16) (r : Route) (b : Body) (s : State), s.mg.life = .run →
    let m := asSlots (joinSlots 2 0) b
    ∀ p, linkTakes s.dp p j r 0 2 0 m → exec (.evnWbData (.link j r) b) s = planeTurns (joinEvict j r m p) s

/-- Answer rows (R66 to R68, R71, R72, R106, R111 to R116, R195, R245, R351). How a snoop's answer is matched (notes/assumptions/77.md),
the order of containment reasons (101.md), late tags (104.md) and the moment a credit goes back (78.md) are the model's. -/
def Obligations.AnswersOfAgentsAreTaken : Prop :=
  (∀ (i : Fin 32) (b : Body) (s : State), s.mg.life = .run →
    (∀ row op x, (row, op, x) ∈ ([(.rspI, 0, .i), (.rspS, 1, .s), (.rspIWbpend, 2, .wbpend)] :
        List ((From → Body → Instr) × BitVec 5 × Ans)) →
      let m := asSlots (some 1) b
      ∀ p, agentTakes s.dp p i 4 op m →
      let d := delayE (engineOf (port p i) 3)
      let ends := fun u => (takeReply i m.tag m.sub.toNat m.info (.snoop x) u).getD (contain i cUnexpected u)
      ((∀ g, tfind (port p i).mtags m.tag.toNat = some g → g.cls ≠ 1) → exec (row (.port i) b) s = planeTurns (ends p) s) ∧
      (∀ g, tfind (port p i).mtags m.tag.toNat = some g → g.cls = 1 →
        (d.1 ≠ 0 → exec (row (.port i) b) s = planeTurns (setPort p i
          (setEngine (port p i) 3 { d.2 with held := d.2.held ++ [(d.1, .msg 4 op m)] })) s) ∧
        (d.1 = 0 → let u := setPort p i (setEngine (port p i) 3 d.2)
          exec (row (.port i) b) s = planeTurns (ends u) s ∧
          (∀ id, g.body.sub = m.sub → g.use = .snoop id →
            let q := freeModTag i m.tag.toNat u
            exec (row (.port i) b) s = planeTurns (answer id q.dw.node (ownAgent q i m.sub.toNat) x q) s)))) ∧
    (∀ row poison, (row, poison) ∈ ([(.datData, false), (.datDataPoison, true)] : List ((From → Body → Instr) × Bool)) →
      let op : BitVec 5 := if poison then 1 else 0
      let m := asSlots (some 5) b
      ∀ p, agentTakes s.dp p i 3 op m →
      let d := delayE (engineOf (port p i) 3)
      let ends := fun u => (takeReply i m.tag m.sub.toNat m.info (.data m.data poison) u).getD (contain i cUnexpected u)
      ((∀ g, tfind (port p i).mtags m.tag.toNat = some g → g.cls ≠ 1) →
        exec (row (.port i) b) s = planeTurns (ends (giveCredit i 3 p)) s) ∧
      (∀ g, tfind (port p i).mtags m.tag.toNat = some g → g.cls = 1 →
        (d.1 ≠ 0 → exec (row (.port i) b) s = planeTurns (setPort p i
          (setEngine (port p i) 3 { d.2 with held := d.2.held ++ [(d.1, .msg 3 op m)] })) s) ∧
        (d.1 = 0 → let u := giveCredit i 3 (setPort p i (setEngine (port p i) 3 d.2))
          exec (row (.port i) b) s = planeTurns (ends u) s ∧
          (∀ id, g.body.sub = m.sub → g.use = .snoop id →
            let q := freeModTag i m.tag.toNat u
            exec (row (.port i) b) s = planeTurns (answer id q.dw.node (ownAgent q i m.sub.toNat)
              (if poison then .poison else .data (dirtyBit m.info) (keepS m.info) m.data) q) s)))) ∧
    (∀ row op x, (row, op, x) ∈ ([(.rspComp, 8, .comp), (.rspCompErr, 9, .err (infoLow8 b.info))] :
        List ((From → Body → Instr) × BitVec 5 × Reply)) →
      let m := asSlots (some 1) b
      ∀ p, agentTakes s.dp p i 4 op m →
      exec (row (.port i) b) s =
        planeTurns ((takeReply i m.tag m.sub.toNat m.info x p).getD (contain i cUnexpected p)) s ∧
      (∀ g n, tfind (port p i).mtags m.tag.toNat = some g → g.body.sub = m.sub → g.use = .io n → (op = 8 → g.op = 0x19) →
        exec (row (.port i) b) s = planeTurns (ioAnswered n
          (if op = 8 then .ok none else .error (infoLow8 b.info)) (freeModTag i m.tag.toNat p)) s) ∧
      (tfind (port p i).mtags m.tag.toNat = none → m.tag.toNat ∉ (port p i).lateTags →
        exec (row (.port i) b) s = planeTurns (contain i cUnexpected p) s)) ∧
    (let m := asSlots (some 1) b;
      (∀ p, agentTakes s.dp p i 4 0xA m →
        (∀ u, tfind (port p i).tags m.tag.toNat = some u → u.sub = m.sub.toNat →
          let q := setPort p i { port p i with tags := tdel (port p i).tags m.tag.toNat }
          (u.ackDue = false → exec (.rspCompAck (.port i) b) s = planeTurns (strayAck i m.tag m.sub.toNat p) s) ∧
          (∀ id k, u.ackDue = true → u.home = none → u.job = some id → job? q id = some k →
            exec (.rspCompAck (.port i) b) s = planeTurns (ackJob k q) s) ∧
          (u.ackDue = true → u.home = none → u.job.bind (job? q) = none → exec (.rspCompAck (.port i) b) s = planeTurns q s) ∧
          (∀ x, u.ackDue = true → u.home = some x →
            exec (.rspCompAck (.port i) b) s = planeTurns (ackOver i m.sub.toNat x.1 x.2 q) s)) ∧
        ((∀ u, tfind (port p i).tags m.tag.toNat = some u → u.sub ≠ m.sub.toNat) →
          exec (.rspCompAck (.port i) b) s = planeTurns (contain i cUnexpected p) s)) ∧
      (∀ p, agentTakes s.dp p i 4 0x10 m →
        exec (.rspLevel (.port i) b) s = planeTurns (updPanic i (setPort p i
          { port p i with levels := tput 255 (port p i).levels b.sub.toNat (infoLow8 b.info) })) s))) ∧
  ∀ (j : Fin 16) (r : Route) (b : Body) (s : State), s.mg.life = .run →
    (∀ row cls op x, (row, cls, op, x) ∈ ([(.rspI, 4, 0, some .i), (.rspS, 4, 1, some .s), (.rspIWbpend, 4, 2, some .wbpend),
        (.rspComp, 4, 8, none), (.rspCompErr, 4, 9, none),
        (.datData, 3, 0, some (.data (dirtyBit b.info) (keepS b.info) b.data)), (.datDataPoison, 3, 1, some .poison)] :
        List ((From → Body → Instr) × BitVec 3 × BitVec 5 × Option Ans)) →
      let m := asSlots (joinSlots cls op) b
      ∀ p, linkTakes s.dp p j r 0 cls op m →
      let q := giveJoin j cls.toNat r.vcb p
      exec (row (.link j r) b) s = planeTurns ((x.bind fun y => joinSnoopAnswer r m y q).getD
        (originAnswer (linkTile j) r cls.toNat op.toNat m q)) s) ∧
    (let m := asSlots (some 1) b;
      ∀ p, linkTakes s.dp p j r 0 4 0xA m → exec (.rspCompAck (.link j r) b) s =
        planeTurns (joinAck (linkTile j) r m (giveJoin j 4 r.vcb p)) s) ∧
    ((link s.dp j).state = .active → exec (.rspLevel (.link j r) b) s = planeTurns (failLink j s.dp) s)

/-- Releases and notices (R161, R163, R165, R175, R179, R245, R246, R251). The buffer of each tile (notes/assumptions/29.md), stores that
have ended (96.md), and that a row without a notice on its way changes nothing (14.md) are the model's. -/
def Obligations.ReleasesAndNoticesReachTheirEntry : Prop :=
  (∀ (i : Fin 32) (rsn : BitVec 16) (b : Body) (s : State), s.mg.life = .run →
    (∀ x e, takeNotice 0 i rsn.toNat s.dp = some x → hopEntry s.dp i rsn.toNat = some e →
      exec (.relRelease (.net i rsn) b) s =
        planeTurns (applyRelease s.dp.dw.node i rsn.toNat (spaLine e.spa) x.1.withdraw false x.2) s) ∧
    (∀ x, takeNotice 0 i rsn.toNat s.dp = some x → hopEntry s.dp i rsn.toNat = none →
      exec (.relRelease (.net i rsn) b) s = planeTurns x.2 s) ∧
    (∀ x, takeNotice 1 i rsn.toNat s.dp = some x →
      exec (.acceptanceNotice (.net i rsn) b) s = planeTurns (noteAccepted i rsn.toNat x.2) s) ∧
    (∀ x, takeNotice 2 i rsn.toNat s.dp = some x →
      exec (.visibilityNotice (.net i rsn) b) s = planeTurns (noteVisible i rsn.toNat x.1.reason x.1.old x.2) s) ∧
    (∀ x, takeNotice 3 i rsn.toNat s.dp = some x →
      exec (.rspScFailRpt (.net i rsn) b) s = planeTurns (noteFailed i rsn.toNat x.2) s) ∧
    (∀ row kind, (row, kind) ∈ ([(.relRelease, 0), (.acceptanceNotice, 1), (.visibilityNotice, 2), (.rspScFailRpt, 3)] :
        List ((From → Body → Instr) × Nat)) →
      takeNotice kind i rsn.toNat s.dp = none → exec (row (.net i rsn) b) s = planeTurns s.dp s)) ∧
  ∀ (j : Fin 16) (r : Route) (b : Body) (s : State), s.mg.life = .run →
    let m := asSlots (some 1) b
    (∀ q, linkTakes s.dp q j r 0 5 0 m →
      (relRoom q r m = true → exec (.relRelease (.link j r) b) s = planeTurns (applyRelease r.src.toNat r.port.toNat
        r.rsn.toNat (spaLine m.addr) (m.info.getLsbD 0) r.panic (giveJoin j 5 r.vcb q)) s) ∧
      (relRoom q r m = false → exec (.relRelease (.link j r) b) s =
        planeTurns (setLink q j { link q j with rx := (link q j).rx ++ [.join r 0 5 0 m] }) s)) ∧
    (∀ row op f, (row, op, f) ∈ ([(.acceptanceNotice, 0x18, noteAccepted),
        (.visibilityNotice, 0x19, fun i rsn => noteVisible i rsn (infoLow8 b.info) none), (.rspScFailRpt, 0x1A, noteFailed)] :
        List ((From → Body → Instr) × BitVec 5 × (Nat → Nat → Plane → Plane))) →
      ∀ p, linkTakes s.dp p j r 0 4 op m →
      let q := giveJoin j 4 r.vcb p
      ((hopEntry q r.port.toNat r.rsn.toNat).isSome = true →
        exec (row (.link j r) b) s = planeTurns (f r.port.toNat r.rsn.toNat q) s) ∧
      (hopEntry q r.port.toNat r.rsn.toNat = none →
        exec (row (.link j r) b) s = planeTurns (countLateJoin (linkTile j) (lateAgent q r m) 4 op.toNat q) s))

/-- Drayway rows (R245, R251, R254, R258, R259, R261, R283, R286). The failover notice's ADDR (notes/assumptions/59.md), the map of a
copy's epoch (74.md), DRW_UNREACHABLE for a message that waits (75.md) and how a snoop's answer is matched (77.md) are the model's. -/
def Obligations.DraywayRowsAct : Prop :=
  (∀ (j : Fin 16) (r : Route) (b : Body) (s : State), s.mg.life = .run →
    let m := asSlots (some 1) b
    (∀ p, linkTakes s.dp p j r 0 4 0x1B m →
      let q := giveJoin j 4 r.vcb p
      let seq := (m.info.extractLsb' 4 10).toNat
      let hit := q.links.find? fun x => x.2.peerNode == r.src.toNat && x.2.peerLink == (m.info.extractLsb' 0 4).toNat &&
        (x.2.failPend || x.2.state == .active || x.2.state == .retraining)
      (∀ k l, hit = some (k, l) →
        (l.failPend = true → exec (.rspLinkFailover j r b) s = planeTurns (resendStale k seq q) s) ∧
        (l.failPend = false → exec (.rspLinkFailover j r b) s = planeTurns (setLink q k { l with early := some seq }) s)) ∧
      (hit = none → exec (.rspLinkFailover j r b) s = planeTurns q s)) ∧
    (∀ (k : Fin 16) seq p, let l := link p k
      resendStale k seq p = { setLink p k { l with failPend := false, stale := [], early := none } with
        dw := { p.dw with out := p.dw.out ++ resent l.peerNode seq l.stale } }) ∧
    ((link s.dp j).failPend = true → exec (.failoverNoticeTimeout j) s =
      planeTurns (raise (tileSrc (linkTile j) (8 + j % 4)) 5 (BitVec.ofNat 32 (link s.dp j).peerNode) 0 s.dp) s) ∧
    (∀ shared,
      let op : BitVec 5 := if shared then 0 else 1
      (∀ g, let r' : Route := { r with mcast := true };
        ∀ p, linkTakes s.dp p j r' g 1 op m →
        let q := copiesOut r' g op m p
        ((g.getLsbD (q.dw.node / 256) && presentIn q r.epoch.toNat) = false →
          exec (.multicastCopy j r g shared b) s = planeTurns
            { q with joinHeld := q.joinHeld ++ [(j.val, 1, r.vcb, [.remote r'])] } s) ∧
        ((g.getLsbD (q.dw.node / 256) && presentIn q r.epoch.toNat) = true →
          exec (.multicastCopy j r g shared b) s = planeTurns (deliverCoarse none (some r') shared m.addr
            { q with joinHeld := q.joinHeld ++ [(j.val, 1, r.vcb, [.remote r', .gather q.nextGather])] }) s)) ∧
      (let r' : Route := { r with mcast := false };
        ∀ p, linkTakes s.dp p j r' 0 1 op m →
        (snoopable (port p r.port.toNat) = true → (port p r.port.toNat).caching.getLsbD m.sub.toNat = true →
          let q := sendSnoop r.port.toNat m.sub.toNat shared m.addr (.remote r') p
          exec (.joinSnoopDelivery j r shared b) s =
            planeTurns { q with joinHeld := q.joinHeld ++ [(j.val, 1, r.vcb, [.remote r'])] } s) ∧
        ((snoopable (port p r.port.toNat) = false ∨ (port p r.port.toNat).caching.getLsbD m.sub.toNat = false) →
          exec (.joinSnoopDelivery j r shared b) s =
            planeTurns (answerOver r' r.port.toNat m.sub.toNat 0 m.addr .i (giveJoin j 1 r.vcb p)) s))) ∧
    (∀ cls op, (cls = 3 ∨ cls = 4) → (joinSlots cls op).isSome = true → ¬(cls = 4 ∧ op = 0xB) →
      let m := asSlots (joinSlots cls op) b
      ∀ p, linkTakes s.dp p j r 0 cls op m →
      let q := giveJoin j cls.toNat r.vcb p
      (∀ e, entry? q r.xtag.toNat = some e → isLineReq e.req.op = true → e.remote = true → e.sent = false → e.aborted = false →
        (inst q r.inst.toNat).gen = r.gen → exec (.originAnswerDelivery j r cls op b) s =
          planeTurns (deliverLine e r.xtag.toNat r cls.toNat op.toNat m q) s) ∧
      (∀ e, entry? q r.xtag.toNat = some e → isAtomic e.req.op = true → cls = 3 → grantIn 3 op.toNat m.info = 0 →
        e.req.port = r.port.toNat → e.rsn = some r.rsn.toNat → exec (.originAnswerDelivery j r cls op b) s =
          planeTurns (noteOld e.req.port r.rsn.toNat m.data (op == 1) q) s) ∧
      (entry? q r.xtag.toNat = none → (inst q r.inst.toNat).gen = r.gen → exec (.originAnswerDelivery j r cls op b) s =
        planeTurns (countLateJoin (linkTile j) (lateAgent q r m) cls.toNat op.toNat q) s) ∧
      (entry? q r.xtag.toNat = none → (inst q r.inst.toNat).gen ≠ r.gen → exec (.originAnswerDelivery j r cls op b) s =
        planeTurns (oldAnswer r cls.toNat op.toNat m q) s))) ∧
  ∀ (k : BitVec 16) (s : State), s.mg.life = .run →
    (∀ f, s.dp.dw.out[k.toNat]? = some f →
      let p := { s.dp with dw := { s.dp.dw with out := s.dp.dw.out.eraseIdx k.toNat } }
      (∀ q, sendOn f p = .yes q → exec (.messageForward none k) s = planeTurns q s) ∧
      (sendOn f p = .unreachable → exec (.messageForward none k) s = planeTurns (noteUnreach f.route.dst.toNat s.dp) s) ∧
      (sendOn f p = .no → exec (.messageForward none k) s = planeTurns s.dp s)) ∧
    ∀ (j : Fin 16) r g cls op b, ((link s.dp j).rx.filter (inTransit s.dp))[k.toNat]? = some (.join r g cls op b) →
      let p := setLink s.dp j { link s.dp j with rx := (link s.dp j).rx.erase (.join r g cls op b) }
      ∀ q, sendOn { route := r, groups := g, cls := cls, op := op, body := b } p = .yes q →
        exec (.messageForward (some j) k) s = planeTurns (giveJoin j cls.toNat r.vcb q) s

/-- Rows of the homes (R95, R102, R113, R176, R276 to R278). The order of requests of one cycle (notes/assumptions/17.md), clean answers
over the fetch (93.md), a recorded requester answered poison (102.md) and what a hold lets pass (72.md) are the model's. -/
def Obligations.HomeRowsAct : Prop :=
  (∀ (line : BitVec 33) s j, s.mg.life = .run → queueHead s.dp line.toNat = some j → canStart j s.dp = true →
    exec (.transactionStart line) s = planeTurns (startJob j s.dp) s) ∧
  (∀ (ch : Fin 64) s a w rest, s.mg.life = .run → (chan s.dp ch).ret = (a, w) :: rest →
    let q := measure (ch / 16) 0x0005 (s.dp.clock - a.t0) (accOcc s.dp a) (setChan s.dp ch { chan s.dp ch with ret := rest })
    let r := diuRead ch a w q
    (a.job = none → exec (.fetchedData ch) s = planeTurns r.1 s) ∧
    (∀ id, a.job = some id → exec (.fetchedData ch) s = planeTurns (advance id (markJob r.1 id fun j =>
      { j with fetched := some r.2.1, fpoison := r.2.2, mem := false,
               found := if a.rmw && !mergeRepairs q a then 0 else foundIn w })) s)) ∧
  (∀ (t : Fin 4) s, s.mg.life = .run →
    let h := htile s.dp t
    (h.tokq = [] → exec (.broadcastToken t) s = planeTurns (setTile s.dp t
      { h with tokens := min (max h.tokens (clampF (fld (rg s.dp (aBcast t)) 16 8) 255)) (h.tokens + 1) }) s) ∧
    (∀ id rest j, h.tokq = id :: rest → job? (setTile s.dp t { h with tokq := rest }) id = some j →
      exec (.broadcastToken t) s = planeTurns (advance id (broadcast j (setTile s.dp t { h with tokq := rest }))) s)) ∧
  (∀ (agent : Agent) (line : BitVec 33) s, s.mg.life = .run →
    (s.dp.rsvs.any fun r => r.agent == agent.toNat && r.line == line.toNat && r.hold) = true →
    exec (.rsvHold agent line) s =
      planeTurns (startHead line.toNat { s.dp with rsvs := rsvUnhold line.toNat agent.toNat s.dp.rsvs }) s) ∧
  (∀ (t : Fin 4) s, s.mg.life = .run → drainOn s.dp = false →
    (∀ r ent party, pickAdmit s.dp t = some (.own r ent party) →
      exec (.admission t) s = planeTurns (takeIn r ent party s.dp) s) ∧
    (∀ ent, pickAdmit s.dp t = some (.join ent) → exec (.admission t) s = planeTurns (admitJoin t ent s.dp) s))

/-- Rows of the hoppers (R72, R157, R159, R160, R166, R172, R180). A read before waiting stores (notes/assumptions/69.md) and the late tag
of a request that timed out (104.md) are the model's. -/
def Obligations.HopperRowsAct : Prop :=
  ∀ (i : Fin 32) (s : State), s.mg.life = .run →
    (∀ t r ent party, t < 4 → pickAdmit s.dp t = some (.own r ent party) → r.port = i → hopNeed r.op = true →
      (∀ t' r' e' q', t' < t → pickAdmit s.dp t' = some (.own r' e' q') → ¬(r'.port = i ∧ hopNeed r'.op = true)) →
      exec (.hopperAcceptance i) s = planeTurns (takeIn r ent party s.dp) s) ∧
    (∀ n ws e, (hopOf s.dp i).held.find? (heldReady s.dp i) = some (n, ws) → entry? s.dp n = some e →
      exec (.hopperReadResume i) s = planeTurns (readGo n e.req
        (setHop s.dp i { hopOf s.dp i with held := (hopOf s.dp i).held.filter fun y => !(y.1 == n) })) s) ∧
    (∀ e rest, (hopOf s.dp i).entries = e :: rest → e.req.op = .fence →
      exec (.fenceComplete i) s = planeTurns (releaseSweep i (freeHop i e.rsn (ackEntry i e.rsn none false s.dp))) s) ∧
    (∀ e n, ioReady (hopOf s.dp i).entries = some e → e.ent = some n →
      exec (.ioWrSend i) s = planeTurns (ioSend n e.req e.rsn (onEntry i e.rsn (fun x => { x with ioSent := true }) s.dp)) s) ∧
    (∀ (tag : BitVec 16) m, tfind (port s.dp i).mtags tag.toNat = some m →
      (m.sent = false → exec (.ioTimeout i tag) s = planeTurns s.dp s) ∧
      (m.sent = true → ∀ ent, m.use = .io ent →
        exec (.ioTimeout i tag) s = planeTurns (ioEnd ent (.error rTimeout) (lateTag i tag.toNat s.dp)) s) ∧
      (m.sent = true → ∀ r, m.use = .ioRemote r → exec (.ioTimeout i tag) s =
        planeTurns (ioOver r i m.body.sub.toNat m.body.addr (.error rTimeout) (lateTag i tag.toNat s.dp)) s)) ∧
    (∀ t : Fin 4, let ps := (List.range 8).map fun k => 8 * t.val + k;
      ps.any (fun k => (hopOf s.dp k).draining) = true → drained s.dp = false →
      exec (.hopDrainStall t) s = planeTurns (raise (tileSrc t 16) 0
        (BitVec.ofNat 32 (ps.map fun k => (hopOf s.dp k).entries.length).sum) 0
        (ps.foldl (fun q k => setHop q k { hopOf q k with drainStall := true }) s.dp)) s)

/-- Rows of instance reset (R285, R287). That a row whose condition does not hold changes nothing is the model's choice
(notes/assumptions/13.md). -/
def Obligations.InstanceResetRowsAct : Prop :=
  ∀ (i : Fin 128) (s : State), s.mg.life = .run →
    let x := inst s.dp i
    ((resetOp s.dp i).isSome = true → exec (.squash i) s = planeTurns (squash i s.dp) s) ∧
    (x.squashed = true →
      let left := (s.dp.entries.filter fun y => !y.2.join && y.2.req.inst == i.val && y.2.req.gen != x.gen).length +
        (s.dp.ports.map fun y =>
          (y.2.hop.entries.filter fun e => e.req.inst == i.val && e.req.gen != x.gen && e.ent.isNone).length).sum
      exec (.ismResetStall i) s = planeTurns (raise (tileSrc 0 15) 0 (BitVec.ofNat 32 left) (payOf 0 0 i) s.dp) s ∧
      (oldWork s.dp i = false → left = 0)) ∧
    (x.squashed = true → oldWork s.dp i = false →
      let q := setInst s.dp i (match x.state with
        | .destroying => { gen := x.gen }
        | _ => { x with state := .active, squashed := false, proceeded := x.remain })
      (resetOp q i = none → exec (.resetComplete i) s = planeTurns q s) ∧
      (∀ o, resetOp q i = some o → exec (.resetComplete i) s =
        planeTurns (setOp q { o with ended := some sOk, a := x.drained, b := x.nSquash, c := x.remain }) s))

/-- Rows of the DRAM channels (R189, R190, R192, R193, R198, R212, R279). Ties of rank (notes/assumptions/64.md) and the rank of a
merge-base read (89.md) are the model's. -/
def Obligations.DramRowsAct : Prop :=
  ∀ (ch : Fin 64) (s : State), s.mg.life = .run →
    let p := s.dp
    let c := chan p ch
    (∀ wr a, (if wr then c.wq.length < 128 else c.rq.length < 192) → firstWait c wr none = some a → (wr = false ∨ a.job = none) →
      exec (.dmcQueueGrant ch wr) s = planeTurns (setChan p ch (updDrain p ch (intoQueue
        { c with wait := c.wait.filter fun x => !(x.seq == a.seq) } { a with t0 := p.clock }))) s) ∧
    (∀ wr a id j, (grantQueue ch wr p).2 = some a → a.wr = true → a.job = some id →
      let q := markJob (grantQueue ch wr p).1 id fun j => { j with wpend := j.wpend - 1 }
      job? q id = some j → exec (.dmcQueueGrant ch wr) s = planeTurns (if j.done && j.wpend == 0 then finish id q else q) s) ∧
    (∀ a, pickCmd p ch = .act a →
      let bk := tget {} c.banks (rawBank a.raw)
      exec (.dramCommandIssue ch) s = planeTurns (setChan p ch (markAct (setBank { c with pd := false } (rawBank a.raw)
        { bk with openRow := some (rawRow a.raw), hits := 0, acts := bk.acts + 1, idle := false }) a)) s) ∧
    (∀ a, pickCmd p ch = .col a → exec (.dramCommandIssue ch) s = planeTurns (issueCol ch a p) s) ∧
    (∀ b, pickCmd p ch = .refresh b → exec (.dramCommandIssue ch) s = planeTurns (occur (ch / 16) 0x4007 {} (setChan p ch
      (setBank { c with pd := false } b { tget {} c.banks b with owed := (tget {} c.banks b).owed - 1 }))) s) ∧
    (∀ b, pickCmd p ch = .rfm b → exec (.dramCommandIssue ch) s =
      planeTurns (setChan p ch (setBank { c with pd := false } b { tget {} c.banks b with acts := 0 })) s) ∧
    (pickCmd p ch = .idle → exec (.dramCommandIssue ch) s = planeTurns p s) ∧
    ((c.state ≠ .normal ∨ deepDown p ch = true) → pickCmd p ch = .idle) ∧
    (∀ bank : Fin 16, let b := tget {} c.banks bank;
      (c.state ≠ .selfRefresh → c.state ≠ .down → deepDown p ch = false →
        exec (.refreshDue ch bank) s = planeTurns (setChan p ch (setBank c bank { b with owed := b.owed + 1 })) s) ∧
      (∀ r, b.openRow = some r → fld (rg p (aChCfg ch)) 0 10 ≠ 0 →
        (c.rq ++ c.wq).any (fun a => rawBank a.raw == bank.val && rawRow a.raw == r) = false →
        exec (.pageIdleTimer ch bank) s =
          planeTurns (setChan p ch (setBank c bank { b with openRow := none, hits := 0, idle := true })) s)) ∧
    (fld (rg p (aChCfg ch)) 16 10 ≠ 0 → c.rq = [] → c.wq = [] → c.state = .normal →
      exec (.devicePowerDown ch) s = planeTurns (setChan p ch { c with pd := true }) s) ∧
    (∀ (k : BitVec 9) a, (c.rq ++ c.wq)[k.toNat]? = some a →
      let f := fun (x : Access) => if x.seq == a.seq then { x with starved := true } else x
      exec (.starve ch k) s = planeTurns (setChan p ch { c with rq := c.rq.map f, wq := c.wq.map f }) s)

/-- Retraining rows (R200 to R204, R412). A retrain of a channel under evacuation or DOWN (notes/assumptions/30.md) is the model's. -/
def Obligations.RetrainRowsAct : Prop :=
  ∀ (ch : Fin 64) (s : State), s.mg.life = .run →
    let p := s.dp
    let c := chan p ch
    (c.state = .normal → deepDown p ch = false →
      (c.sc1Due = false → wantsRetrain p ch = true →
        (hostMode p fmDram = false →
          exec (.retrainDue ch) s = planeTurns (startRetrains (ch / 16) (setChan p ch { c with due := true })) s) ∧
        (hostMode p fmDram = true →
          exec (.retrainDue ch) s = planeTurns (raise (tileSrc (ch / 16) (18 + ch % 16)) 2 0 0 p) s)) ∧
      (c.sc1Due = false → wantsRetrain p ch = false → exec (.retrainDue ch) s = planeTurns p s) ∧
      (c.sc1Due = true → pausing p (ch / 16) = false →
        exec (.retrainDue ch) s = planeTurns (startPause ch true (setChan p ch { c with sc1Due := false })) s)) ∧
    ((c.temp.toInt - c.lastTemp.toInt ≤ -2 ∨ 2 ≤ c.temp.toInt - c.lastTemp.toInt ∨ c.tTrain + 20000000000 ≤ p.clock) →
      wantsRetrain p ch = true) ∧
    (c.deferred = true → c.due = true → c.state = .normal → pausing p (ch / 16) = false →
      exec (.retrainDeferralExpiry ch) s = planeTurns (startPause ch false p) s) ∧
    (∀ failed, c.state = .pause0 → exec (.retrainPauseEnd ch failed) s =
      planeTurns (startRetrains (ch / 16) (setChan p ch { c with state := .normal, sc1Due := true })) s) ∧
    (∀ failed, c.state = .pause1 → exec (.retrainPauseEnd ch failed) s =
      planeTurns (startRetrains (ch / 16) (trainDone ch false (setChan p ch
        { c with state := .normal, retrains := (c.retrains + 1) % 65536, due := false, deferred := false, sc1Due := false,
                 forced := false, lastTemp := c.temp, tTrain := p.clock }))) s) ∧
    (c.state = .training →
      exec (.retrainPauseEnd ch true) s = planeTurns (dramPassEnd (ch / 16)
        (raise (tileSrc (ch / 16) (18 + ch % 16)) 1 0 0 (trainDone ch true (setChan p ch { c with state := .down })))) s ∧
      exec (.retrainPauseEnd ch false) s = planeTurns (trainDone ch false (setChan p ch
        { c with state := .normal, lastTemp := c.temp, tTrain := p.clock }))
        { s with mg := { s.mg with settings := tput 0 s.mg.settings ch (s.mg.rateCur + 1) } })

/-- Walk rows (R91, R93, R133, R137, R139, R206, R208, R229, R231, R234, R235). One line in hand (notes/assumptions/87.md), the order of
passes (66.md), a row retired twice (67.md) and LINE_PIN of a line in another instance's way (103.md) are the model's. -/
def Obligations.WalkRowsAct : Prop :=
  (∀ (ch : Fin 64) (s : State), s.mg.life = .run →
    let p := s.dp
    let c := chan p ch
    let e := evacOf p (ch / 16)
    (e.state = 1 → e.chan = ch % 16 → internRuns p (.evac ch) = false →
      exec (.evacuationCopy ch) s = planeTurns (reachIntern (.evac ch) (lineAt (ch / 16) e.chan e.cursor) 0 p) s) ∧
    (∀ j, evacHere p ch j = true →
      let d := place (setEvac p (ch / 16) { e with cursor := e.cursor + 1 }) j.line
      internData j (.evac ch) p = offerFor (some j.id) d.1
        { wr := true, line := j.line, raw := d.2, data := j.fetched.getD 0, poison := j.fpoison } p ∧
      (j.fetched.isSome = true → e.cursor + 1 < liveLines →
        internEnd j (.evac ch) p = setEvac p (ch / 16) { e with cursor := e.cursor + 1 })) ∧
    (hostMode p fmScrub = false → noGlaze p ch = false → c.glaze < 2 ^ 27 → internRuns p (.glaze ch) = false →
      exec (.glazePassRead ch) s = planeTurns (reachIntern (.glaze ch) (behind p ch c.glaze) 0
        (setChan p ch { c with glaze := c.glaze + 1 })) s) ∧
    (∀ (bank : Fin 16) (row : BitVec 18), hostMode p fmPage = false → c.pinFault = false → c.state ≠ .down →
      evacuating p ch = false → (c.tracker.any fun x => x.bank == bank.val && x.row == row.toNat && x.pending) = true →
      row.toNat < 131072 → exec (.rowRetirement ch bank row) s = planeTurns (startRowCopy ch bank row.toNat (setChan p ch
        { c with tracker := c.tracker.filter fun x => !(x.bank == bank.val && x.row == row.toNat) })) s) ∧
    (∀ x, (p.rowCopies.find? fun x => x.ch == ch.val) = some x →
      (internRuns p (.rowCopy ch) = false →
        exec (.rowCopy ch) s = planeTurns (reachIntern (.rowCopy ch) (behind p ch (clAt x.bank x.row x.cursor)) 0 p) s) ∧
      (∀ j, internData j (.rowCopy ch) p = offerFor (some j.id) ch
          { wr := true, line := j.line, raw := spareRaw x.bank x.spare x.cursor, data := j.fetched.getD 0, poison := j.fpoison } p ∧
        (j.fetched.isSome = true → x.cursor = 63 →
          tget 0 (internEnd j (.rowCopy ch) p).remaps (remapKey ch x.bank x.row) = x.spare + 1))) ∧
    (∀ (bank : Fin 16) (row : BitVec 18), exec (.trackerExpiry ch bank row) s = planeTurns (setChan p ch { c with
      tracker := c.tracker.filter fun x => !(x.bank == bank.val && x.row == row.toNat && !x.pending) }) s)) ∧
  (∀ (a : Fin 68) (s : State), s.mg.life = .run → a.val < 64 → tget 0 s.dp.sramPos a < 98304 →
    let k := tget 0 s.dp.sramPos a
    exec (.sramPassRead a) s = planeTurns (sramPassEnd (a / 16) (readData a (k / 24) (k % 24) (readTag a (k / 24) (k % 24)
      { s.dp with sramPos := tput 0 s.dp.sramPos a (k + 1) }))) s) ∧
  (∀ (desc : Byte) (s : State) x, s.mg.life = .run → tfind s.dp.descs desc.toNat = some x → replayRuns s.dp = true →
    x.d.valid = true → x.next < x.stop →
    let q := { s.dp with descs := tset s.dp.descs desc.toNat { x with next := x.next + 1 } }
    exec (.replayPrefetch desc) s = planeTurns (reachIntern (.prefetch desc.toNat) (prefetchLine x) x.d.inst.toNat q) s) ∧
  (∀ (n : Nat) (s : State) o, s.mg.life = .run → op? s.dp n = some o → o.ended = none →
    (∀ base lines, o.work = .range base lines → o.cursor < lines →
      rangeReads s.dp n (place s.dp (base + o.cursor)).1 < 16 → exec (.rangeScrubRead n) s = planeTurns
        (reachIntern (.range n) (base + o.cursor) 0 (setOp s.dp { o with cursor := o.cursor + 1, inHand := o.inHand + 1 })) s) ∧
    (∀ x, (o.work = .cleanAll ∨ o.work = .disable ∨ ∃ i f, o.work = .wayLock i f) → o.inHand = 0 →
      nextWayFor s.dp o = some x → exec (.maintenanceLineOp n) s = planeTurns (reachIntern (.walk n) (keyLine x.1 x.2) 0
        (setOp s.dp { o with cursor := max o.cursor (x.1 + 1), inHand := 1,
                             extra := o.extra.filter fun y => y != (x.1, keyLine x.1 x.2) })) s) ∧
    (∀ i base lines unpin, o.work = .pin i base lines unpin → o.cursor < lines → o.inHand = 0 →
      exec (.maintenanceLineOp n) s = planeTurns
        (reachIntern (.walk n) (base + o.cursor) 0 (setOp s.dp { o with cursor := o.cursor + 1, inHand := 1 })) s)) ∧
  ∀ (w : Intern) (line i : Nat) (p : Plane),
    let j : Job := { id := p.nextJob, kind := .intern w, line := line, who := { inst := i }, t0 := p.clock, phase := .running }
    ((∀ x ∈ p.jobs, x.line ≠ line) → job? p p.nextJob = none →
      let r := internAct j w { p with jobs := p.jobs ++ [j], nextJob := p.nextJob + 1 }
      (r.2 = true → reachIntern w line i p = finish j.id r.1) ∧ (r.2 = false → reachIntern w line i p = r.1)) ∧
    (busy p line = true →
      { reachIntern w line i p with jobs := p.jobs, nextJob := p.nextJob } = p ∧
      ∃ x ∈ (reachIntern w line i p).jobs, x = { j with phase := .queued })

/-- Flit and parameter rows (R49 to R54, R63, R64, R70, R242, R250). One message a flit (notes/assumptions/16.md), acknowledgements at
once (85.md), a number never sent (70.md), reserved FTYPEs and control messages of an agent (71.md), PARAM at other times (86.md) and
messages past slot 14 (100.md) are the model's. -/
def Obligations.LinkRowsAct : Prop :=
  (∀ (e : LinkEnd) (f : Flit) (cw : BitVec 4) (s : State), s.mg.life = .run → takesFlits s.dp e = true →
    let x := flitCodewords (retryOf s.dp e) cw
    let c := setRetry s.dp e { retryOf s.dp e with cwBad := x.2.2 }
    let p := if x.1 = 0 then c else badCodewords e x.1 c
    let row := exec (.flitReceive e f cw) s
    (takesFlits p e = false → row = planeTurns p s) ∧
    (takesFlits p e = true →
      (x.2.1 = true ∨ flitCrc f ≠ crcOf f → row = planeTurns (rejectFlit e p) s) ∧
      (x.2.1 = false → flitCrc f = crcOf f →
        let q := flitReturns e f p
        let r := retryOf p e
        (flitType f = 1 → row = planeTurns q s) ∧
        (flitType f = 2 → row = planeTurns (recvRetryReq e (flitSeq f) q) s) ∧
        (flitType f = 0 ∨ flitType f = 3 →
          (flitSeq f = r.rxSeq → row = planeTurns (flitContent e f
            (setRetry q e (sendIdle 0 { retryOf q e with
              rxSeq := ((retryOf q e).rxSeq + 1) % 1024, rxAny := true, waiting := false, rxReqs := 0 }))) s) ∧
          (flitSeq f ≠ r.rxSeq → isDuplicate (flitSeq f) r.rxSeq = true → row = planeTurns p s) ∧
          (flitSeq f ≠ r.rxSeq → isDuplicate (flitSeq f) r.rxSeq = false → row = planeTurns (rejectFlit e p) s)) ∧
        (4 ≤ (flitType f).toNat →
          (∀ i, e = .port i → row = planeTurns (contain i cBadMessage p) s) ∧
          (∀ j, e = .join j → row = planeTurns (failLink j p) s))))) ∧
  (∀ r : Retry, flitCodewords r 0 = (0, false, false) ∧ flitCodewords r 2 = (1, true, true) ∧
    flitCodewords r 1 = (0, r.cwBad, r.cwBad)) ∧
  (∀ (e : LinkEnd) (seq : BitVec 10) (s : State), s.mg.life = .run → endActive s.dp e = true →
    let r := retryOf s.dp e
    ((r.replay.any fun x => x.1 == seq.toNat) = false → exec (.retryReq e seq) s = planeTurns (linkFault e s.dp) s) ∧
    ((r.replay.any fun x => x.1 == seq.toNat) = true →
      let again := resendAll (r.replay.dropWhile fun x => x.1 != seq.toNat) r
      (r.txReqs = 0 ∨ r.txReqSeq ≠ seq.toNat → exec (.retryReq e seq) s =
        planeTurns (setRetry s.dp e { again with txReqSeq := seq.toNat, txReqs := 1 }) s) ∧
      (r.txReqSeq = seq.toNat → r.txReqs ≠ 0 → exec (.retryReq e seq) s = planeTurns (retryCount e (r.txReqs + 1)
        (setRetry s.dp e { again with txReqSeq := seq.toNat, txReqs := r.txReqs + 1 })) s)) ∧
    (r.waiting = true → exec (.retryReqRepeat e) s = planeTurns (sendRetryReq e s.dp) s)) ∧
  (∀ (i : Fin 32) (w : Slot) (s : State), s.mg.life = .run → (port s.dp i).step = 2 → w.extractLsb' 112 8 = (1 : BitVec 8) →
    let h : Credits := { req := (w.extractLsb' 48 16).toNat, snp := (w.extractLsb' 32 16).toNat,
                         evn := (w.extractLsb' 16 16).toNat, dat := (w.extractLsb' 0 16).toNat }
    let pres : BitVec 8 := w.extractLsb' 104 8
    let cach : BitVec 8 := w.extractLsb' 96 8
    8 * countBits cach 8 ≤ h.snp → 16 ≤ h.dat → 4 ≤ h.req →
    exec (.param i w) s = planeTurns (setPort s.dp i { port s.dp i with
      step := 7, present := pres, caching := cach, levels := [], have_ := h, owed := {},
      given := { req := 192, evn := 8 * countBits pres 8, dat := 64 },
      retry := sendFlit (port s.dp i).retry (.ctrl (moduleParam pres)) }) s) ∧
  ∀ (j : Fin 16) (w : Slot) (s : State), s.mg.life = .run → (link s.dp j).state = .training → (link s.dp j).step = 2 →
    let node := (w.extractLsb' 98 14).toNat
    let src := tileSrc (linkTile j) (8 + j % 4)
    (node = s.dp.dw.node → exec (.jparam j w) s = planeTurns (raise src 1 (BitVec.ofNat 32 node) 0 s.dp) s) ∧
    (node ≠ s.dp.dw.node → ∀ x, (link s.dp j).expect = some x → x ≠ node →
      exec (.jparam j w) s = planeTurns (raise src 2 (BitVec.ofNat 32 node) 0 s.dp) s) ∧
    (node ≠ s.dp.dw.node → (link s.dp j).expect = none → w.extractLsb' 112 8 = (1 : BitVec 8) →
      (∀ k, k < 6 → 16 ≤ (w.extractLsb' (12 * k) 12).toNat) → ∃ t, exec (.jparam j w) s = planeTurns t s ∧
        t = setLink s.dp j (link t j) ∧ (link t j).step = 7 ∧ (link t j).peerNode = node ∧
        (link t j).peerLink = (w.extractLsb' 94 4).toNat ∧ (link t j).haveA = (link t j).haveB ∧
        (link t j).haveA = {
          req := (w.extractLsb' 60 12).toNat, snp := (w.extractLsb' 48 12).toNat,
          evn := (w.extractLsb' 36 12).toNat, dat := (w.extractLsb' 24 12).toNat, rsp := (w.extractLsb' 12 12).toNat,
          rel := (w.extractLsb' 0 12).toNat })

/-- Training rows (R47, R48, R55, R76, R77, R241, R445). The SYNC flits' numbers (notes/assumptions/16.md) and that no row waits for a
minimum time (13.md) are the model's. -/
def Obligations.TrainingRowsAct : Prop :=
  (∀ (i : Fin 32) (s : State), s.mg.life = .run →
    let pt := port s.dp i
    (pt.state = .active ∨ pt.state = .retraining → exec (.signalLoss (.port i)) s = planeTurns (contain i cLinkFault s.dp) s) ∧
    (pt.state = .contained → exec (.containTimeout i) s = planeTurns (detach i s.dp) s) ∧
    (pt.step = 1 → exec (.signalDetect (.port i)) s = planeTurns (setPort s.dp i { pt with
      step := 2, state := if pt.state = .down then .training else pt.state,
      retry := sendSyncs { sentReqs := pt.retry.sentReqs, cwTotal := pt.retry.cwTotal } }) s) ∧
    (pt.state = .training → (pt.step = 2 ∨ pt.step = 7) → exec (.trainingStepTimeout (.port i)) s =
      planeTurns (setPort s.dp i { pt with step := 1, state := .down }) s) ∧
    (pt.step = 8 → exec (.trainingRestart (.port i)) s = planeTurns (setPort s.dp i { pt with step := 1 }) s) ∧
    (∀ (lanes : BitVec 8) (peerMax : BitVec 4), let w := chosenWidth lanes peerMax.toNat
      (w ≠ 0 →
        (pt.state = .retraining → exec (.trainingEnd (.port i) ⟨lanes, peerMax⟩) s = planeTurns (pump i (setPort s.dp i
          (returnCredits { pt with state := .active, width := w, retrains := pt.retrains + 1,
                                   retry := afterRetrain pt.retry } {}))) s) ∧
        (pt.step = 7 → pt.state ≠ .retraining → pt.state ≠ .active →
          exec (.trainingEnd (.port i) ⟨lanes, peerMax⟩) s = planeTurns (startPort i w s.dp) s)) ∧
      (w = 0 →
        (pt.state = .training → pt.step = 2 → exec (.trainingEnd (.port i) ⟨lanes, peerMax⟩) s =
          planeTurns (setPort s.dp i { pt with step := 8, state := .down }) s) ∧
        (pt.state = .retraining → exec (.trainingEnd (.port i) ⟨lanes, peerMax⟩) s = planeTurns (stepFailPort i s.dp) s)))) ∧
  (∀ (lanes : BitVec 8) (peerMax w : Nat), chosenWidth lanes peerMax = w →
    (w = 0 ↔ lanes.getLsbD 0 = false ∨ peerMax = 0) ∧ (w ≠ 0 → (w = 1 ∨ w = 2 ∨ w = 4 ∨ w = 8) ∧ w ≤ peerMax ∧
      (∀ k, k < w → lanes.getLsbD k = true) ∧
      ∀ v, (v = 2 ∨ v = 4 ∨ v = 8) → w < v → v ≤ peerMax → ∃ k, k < v ∧ lanes.getLsbD k = false)) ∧
  ∀ (j : Fin 16) (s : State), s.mg.life = .run →
    let l := link s.dp j
    (l.state = .active ∨ l.state = .retraining → exec (.signalLoss (.join j)) s = planeTurns (failLink j s.dp) s) ∧
    (l.state = .training →
      (l.step = 1 → exec (.signalDetect (.join j)) s = planeTurns (setLink s.dp j { l with
        step := 2, retry := sendFlit (sendSyncs { sentReqs := l.retry.sentReqs, cwTotal := l.retry.cwTotal })
          (.ctrl (moduleJparam s.dp.dw.node j)) }) s) ∧
      ((l.step = 2 ∨ l.step = 7) → exec (.trainingStepTimeout (.join j)) s = planeTurns (setLink s.dp j { l with step := 1 }) s)) ∧
    (l.step = 8 → exec (.trainingRestart (.join j)) s = planeTurns (setLink s.dp j { l with step := 1 }) s) ∧
    (∀ (lanes : BitVec 8) (peerMax : BitVec 4), let w := chosenWidth lanes peerMax.toNat
      (w ≠ 0 →
        (l.state = .retraining → exec (.trainingEnd (.join j) ⟨lanes, peerMax⟩) s = planeTurns (setLink s.dp j
          (returnJoin true {} (returnJoin false {} { l with
            state := .active, width := w, retrains := l.retrains + 1, retry := afterRetrain l.retry }))) s) ∧
        (l.state = .training → l.step = 7 → exec (.trainingEnd (.join j) ⟨lanes, peerMax⟩) s =
          planeTurns (setLink s.dp j { l with state := .active, step := 0, width := w }) s)) ∧
      (w = 0 → l.state = .training → l.step = 2 → exec (.trainingEnd (.join j) ⟨lanes, peerMax⟩) s =
        planeTurns (setLink s.dp j { l with step := 8 }) s))

/-- Perturbation and tap rows (R351, R365, R367, R369). The moment a credit goes back (notes/assumptions/78.md) and the adjacent counts of
a record (36.md) are the model's. -/
def Obligations.PerturbAndTapRowsAct : Prop :=
  (∀ (k : BitVec 10) (s : State) (d : Nat) (o : Out), s.mg.life = .run →
    (∀ t : Fin 64, t.val < 32 →
      (let e := engineOf (port s.dp t) 0;
        e.held[k.toNat]? = some (d, o) → exec (.perturbationRelease 0 t k) s = planeTurns (pump t (setPort s.dp t
          (reorder (setEngine (port s.dp t) 0 { e with held := e.held.eraseIdx k.toNat }) o))) s) ∧
      (let e := engineOf (port s.dp t) 2;
        let pt := setEngine (port s.dp t) 2 { e with held := e.held.eraseIdx k.toNat }
        e.held[k.toNat]? = some (d, o) → exec (.perturbationRelease 2 t k) s =
          planeTurns (pump t (setPort s.dp t { pt with txq := pt.txq ++ [o] })) s) ∧
      (let e := engineOf (port s.dp t) 3;
        e.held[k.toNat]? = some (d, o) → exec (.perturbationRelease 3 t k) s = planeTurns (deliverAnswer t o
          (setPort s.dp t (setEngine (port s.dp t) 3 { e with held := e.held.eraseIdx k.toNat }))) s)) ∧
    (∀ (t : Fin 64) y, (chan s.dp t).heldRet[k.toNat]? = some (d, y) → exec (.perturbationRelease 4 t k) s =
      planeTurns (setChan s.dp t { chan s.dp t with
        heldRet := (chan s.dp t).heldRet.eraseIdx k.toNat, ret := (chan s.dp t).ret ++ [y] }) s) ∧
    (∀ t : Fin 64, t.val < 16 → let l := link s.dp t;
      l.engine.held[k.toNat]? = some (d, o) → exec (.perturbationRelease 5 t k) s = planeTurns (setLink s.dp t { l with
        engine := { l.engine with held := l.engine.held.eraseIdx k.toNat }, retry := sendFlit l.retry o }) s)) ∧
  (∀ (i : Fin 32) (s : State), s.mg.life = .run →
    let e := engineOf (port s.dp i) 1
    e.mode = 1 →
    let f : Engine := { e with bit := (e.bit + 1) % 64, period := max 1 e.value }
    (e.pattern.getLsbD ((e.bit + 1) % 64) = true →
      exec (.creditPatternPeriod i) s = planeTurns (setPort s.dp i (setEngine (port s.dp i) 1 f)) s) ∧
    (e.pattern.getLsbD ((e.bit + 1) % 64) = false →
      let pt := setEngine (port s.dp i) 1 { f with keptReq := 0, keptDat := 0 }
      exec (.creditPatternPeriod i) s =
        planeTurns (setPort s.dp i (returnCredits pt { req := e.keptReq, dat := e.keptDat })) s)) ∧
  (∀ (t : Fin 4) (s : State), s.mg.life = .run → s.dp.variant = .ms →
    ((tap s.dp t).down = false → exec (.tapBucketEnd t) s = planeTurns (endBucket t s.dp) s ∧
      (tap (endBucket t s.dp) t).buckets = [] ∧ (tap (endBucket t s.dp) t).unmet = 0 ∧
      exec (.timeLinkDown t) s = planeTurns
        (let q := orphanAll (fun pos _ => pos / 64 == t.val) s.dp;
         raise 42 3 (BitVec.ofNat 32 t) (BitVec.ofNat 128 (t.val * 2 ^ 64)) (setTap q t { tap q t with down := true })) s) ∧
    ((tap s.dp t).down = true → s.sg.powered = true → exec (.timeStreamReturn t) s = planeTurns
      (raise 42 4 (BitVec.ofNat 32 t) (BitVec.ofNat 128 (t.val * 2 ^ 64))
        (setTap { s.dp with tapTime := s.sg.time } t { tap s.dp t with down := false })) s)) ∧
  ∀ (i : Fin 32) (sub : Fin 8) (s : State) f, s.mg.life = .run → tfind s.dp.frames (8 * i + sub) = some f →
    exec (.frameOrphanTimeout i sub) s = planeTurns (closeFrame ((8 * i + sub) / 64) f.inst f.bytes f.last true
      { s.dp with frames := tdel s.dp.frames (8 * i + sub) }) s

/-- R24, R25 and R188: the hashes lose nothing. -/
def Obligations.TheAddressMapIsOneToOne : Prop :=
  (∀ line, line < 2 ^ 33 → lineTile line < 4 ∧ lineChan line < 16 ∧ lineCl line < 2 ^ 27 ∧
    lineAt (lineTile line) (lineChan line) (lineCl line) = line) ∧
  (∀ t c cl, t < 4 → c < 16 → cl < 2 ^ 27 →
    lineAt t c cl < 2 ^ 33 ∧ lineTile (lineAt t c cl) = t ∧ lineChan (lineAt t c cl) = c ∧ lineCl (lineAt t c cl) = cl) ∧
  (∀ cl, cl < 2 ^ 27 → bankOf cl < 16 ∧ rowOf cl < 2 ^ 17 ∧ colOf cl < 64 ∧ clAt (bankOf cl) (rowOf cl) (colOf cl) = cl) ∧
  (∀ bank row col, bank < 16 → row < 2 ^ 17 → col < 64 →
    clAt bank row col < 2 ^ 27 ∧ bankOf (clAt bank row col) = bank ∧ rowOf (clAt bank row col) = row ∧
      colOf (clAt bank row col) = col)

/-- The array of DRAM symbols (R214), and Table 15.2, kind 0. What an unlisted symbol reads as is the model's choice
(notes/assumptions/12.md). -/
def Obligations.TheArrayReadsWhatWasStored : Prop :=
  ∀ p : Plane,
    (∀ ch raw w, raw < chanSpan → List.length w = 72 → (∀ x ∈ w, x < 256) →
      dramWord (dramPut p ch raw w) ch raw = w ∧
      (∀ c r, r < chanSpan → (c ≠ ch ∨ r ≠ raw) → dramWord (dramPut p ch raw w) c r = dramWord p c r) ∧
      dramPut p ch raw w = { p with dram := (dramPut p ch raw w).dram } ∧
      (twf 0 p.dram = true → twf 0 (dramPut p ch raw w).dram = true)) ∧
    ∀ line (symbols : BitVec 72),
      let base := ((place p line).1 * chanSpan + (place p line).2) * 72
      (∀ k, k < 72 → tget 0 (corruptDram line symbols p).dram (base + k) =
        if symbols.getLsbD k then ~~~(tget 0 p.dram (base + k)) else tget 0 p.dram (base + k)) ∧
      (∀ key, key < base ∨ base + 72 ≤ key → tget 0 (corruptDram line symbols p).dram key = tget 0 p.dram key) ∧
      corruptDram line symbols p = { p with dram := (corruptDram line symbols p).dram } ∧
      (twf 0 p.dram = true → twf 0 (corruptDram line symbols p).dram = true)

/-- R214, R217 and the first two outcomes of R218. -/
def Obligations.StoredLinesAreCodewords : Prop :=
  (∀ l : Line, (encodeLine l).length = 72 ∧ (∀ x ∈ encodeLine l, x < 256) ∧
    (∀ i, i < 64 → (encodeLine l).getD i 0 = (byteAt l i).toNat) ∧ (∀ x ∈ syndromes (encodeLine l), x = 0) ∧
    classify (encodeLine l) = .good ∧ lineOf (encodeLine l) 0 = l) ∧
  poisonWord.take 64 = List.replicate 64 0 ∧ classify poisonWord = .poisoned []

/-- Tables 02.3, 02.4, 03.5, 06.3, 10.1 and 11.2: no field is dropped. -/
def Obligations.SlotsAndRecordsReadBack : Prop :=
  (∀ (cls : BitVec 3) (op : BitVec 5) (b : Body), hdrCls (encodeHdr cls op b) = cls ∧ hdrOp (encodeHdr cls op b) = op ∧
    decodeHdr (encodeHdr cls op b) b.mask b.data = b) ∧
  (∀ r : Route, decodeRoute (encodeRoute r) = r) ∧
  (∀ r : Region, decodeRegion (encodeRegion r) = r) ∧
  (∀ w : Window, decodeWindow (encodeWindow w) = w) ∧
  (∀ x : Share, decodeShare (encodeShare x) = x) ∧
  (∀ x : Replay, decodeReplay (encodeReplay x) = x)

/-- The frame of the rows of the data plane (R412 for the saved settings). That they act in the run state alone is the model's choice
(notes/assumptions/15.md). -/
def Obligations.DataPlaneRowsLeaveTheRestAlone : Prop :=
  (∀ (c : Instr) (s t : State), planeRow c = true → exec c s = .next t →
    t = { s with dp := t.dp } ∧ (s.mg.life ≠ .run → t = s)) ∧
  (∀ (ch : Fin 64) failed (s t : State), exec (.retrainPauseEnd ch failed) s = .next t →
    t = { s with dp := t.dp, mg := { s.mg with settings := t.mg.settings } } ∧
    (∀ k, k ≠ ch.val → tget 0 t.mg.settings k = tget 0 s.mg.settings k) ∧ (s.mg.life ≠ .run → t = s))
end

