-- ==== Sys2Proof/Laws/Table.lean ====
section
/-! SUPPORT. Tables: a read after a write, keys left alone, and the canonical form that every write keeps. -/
namespace Sys2Proof.Machine
open Sys2Proof

variable {α : Type}

@[simp] theorem tget_nil (d : α) (k : Nat) : tget d [] k = d := rfl
@[simp] theorem tfind_nil (k : Nat) : tfind ([] : Table α) k = none := rfl

theorem tget_eq_tfind (d : α) (t : Table α) (k : Nat) : tget d t k = (tfind t k).getD d := by
  induction t with
  | nil => rfl
  | cons x t ih =>
    obtain ⟨a, v⟩ := x
    by_cases h : a = k <;> simp [tget, tfind, h, ih]

theorem tfind_tdel (t : Table α) (k j : Nat) : tfind (tdel t k) j = if j = k then none else tfind t j := by
  induction t with
  | nil => simp [tdel]
  | cons x t ih =>
    obtain ⟨a, v⟩ := x
    by_cases h : a = k
    · by_cases h' : j = k
      · subst h'; simpa [tdel, h] using ih
      · have : k ≠ j := fun e => h' e.symm
        simp [tdel, tfind, h, ih, h', this]
    · by_cases h' : j = k
      · subst h'; simp [tdel, tfind, h, ih]
      · by_cases h'' : a = j <;> simp [tdel, tfind, h, ih, h', h'']

/-- Every key of the table differs from `k`. -/
def tfree (t : Table α) (k : Nat) : Prop := ∀ x ∈ t, x.1 ≠ k

theorem tfree_tdel (t : Table α) (k : Nat) : tfree (tdel t k) k := by
  induction t with
  | nil => intro x hx; cases hx
  | cons x t ih =>
    obtain ⟨a, v⟩ := x
    by_cases h : a = k
    · simpa [tdel, h] using ih
    · intro y hy
      simp only [tdel, if_neg h, List.mem_cons] at hy
      rcases hy with rfl | hy
      · exact h
      · exact ih y hy

theorem tfind_tins (t : Table α) (k j : Nat) (v : α) (hf : tfree t k) :
    tfind (tins k v t) j = if j = k then some v else tfind t j := by
  induction t with
  | nil =>
    by_cases h : k = j
    · simp [tins, tfind, h]
    · have : j ≠ k := fun e => h e.symm
      simp [tins, tfind, h, this]
  | cons x t ih =>
    obtain ⟨a, w⟩ := x
    have hf' : tfree t k := fun y hy => hf y (List.mem_cons_of_mem _ hy)
    have ha : a ≠ k := hf (a, w) (List.mem_cons_self ..)
    by_cases h : k < a
    · by_cases hj : k = j
      · subst hj; simp [tins, tfind, h]
      · have : j ≠ k := fun e => hj e.symm
        simp [tins, tfind, h, hj, this]
    · by_cases hj : a = j
      · subst hj; simp [tins, tfind, h, ha]
      · simp [tins, tfind, h, hj, ih hf']

theorem tfind_tset (t : Table α) (k j : Nat) (v : α) :
    tfind (tset t k v) j = if j = k then some v else tfind t j := by
  unfold tset
  rw [tfind_tins _ _ _ _ (tfree_tdel t k), tfind_tdel]
  by_cases h : j = k <;> simp [h]

theorem tget_tput [DecidableEq α] (d : α) (t : Table α) (k j : Nat) (v : α) :
    tget d (tput d t k v) j = if j = k then v else tget d t j := by
  unfold tput
  by_cases hv : v = d
  · rw [if_pos hv, tget_eq_tfind, tfind_tdel, tget_eq_tfind]
    by_cases h : j = k <;> simp [h, hv]
  · rw [if_neg hv, tget_eq_tfind, tfind_tins _ _ _ _ (tfree_tdel t k), tfind_tdel, tget_eq_tfind]
    by_cases h : j = k <;> simp [h]

@[simp] theorem tget_tput_same [DecidableEq α] (d : α) (t : Table α) (k : Nat) (v : α) : tget d (tput d t k v) k = v := by
  simp [tget_tput]

theorem tget_tput_other [DecidableEq α] (d : α) (t : Table α) {k j : Nat} (v : α) (h : j ≠ k) :
    tget d (tput d t k v) j = tget d t j := by simp [tget_tput, h]

/-! ### Order -/

/-- Every key of the table is above `k`. -/
def tabove (k : Nat) (t : Table α) : Prop := ∀ x ∈ t, k < x.1

theorem tsorted_cons (a : Nat) (v : α) (t : Table α) :
    tsorted ((a, v) :: t) = true ↔ tabove a t ∧ tsorted t = true := by
  induction t generalizing a v with
  | nil => simp [tsorted, tabove]
  | cons x t ih =>
    obtain ⟨b, w⟩ := x
    simp only [tsorted, Bool.and_eq_true, decide_eq_true_eq]
    rw [ih b w]
    constructor
    · rintro ⟨hab, hb, ht⟩
      refine ⟨?_, hb, ht⟩
      intro y hy
      rcases List.mem_cons.1 hy with rfl | hy
      · exact hab
      · exact lt_trans hab (hb y hy)
    · rintro ⟨ha, hb, ht⟩
      exact ⟨ha (b, w) (List.mem_cons_self ..), hb, ht⟩

theorem tdel_subset (t : Table α) (k : Nat) : ∀ x ∈ tdel t k, x ∈ t := by
  induction t with
  | nil => intro x hx; exact hx
  | cons y t ih =>
    obtain ⟨a, v⟩ := y
    intro x hx
    by_cases h : a = k
    · simp only [tdel, if_pos h] at hx
      exact List.mem_cons_of_mem _ (ih x hx)
    · simp only [tdel, if_neg h, List.mem_cons] at hx
      rcases hx with rfl | hx
      · exact List.mem_cons_self ..
      · exact List.mem_cons_of_mem _ (ih x hx)

theorem tsorted_tdel (t : Table α) (k : Nat) (h : tsorted t = true) : tsorted (tdel t k) = true := by
  induction t with
  | nil => rfl
  | cons y t ih =>
    obtain ⟨a, v⟩ := y
    rw [tsorted_cons] at h
    by_cases hk : a = k
    · simpa [tdel, hk] using ih h.2
    · simp only [tdel, if_neg hk]
      rw [tsorted_cons]
      exact ⟨fun x hx => h.1 x (tdel_subset t k x hx), ih h.2⟩

theorem tins_mem (t : Table α) (k : Nat) (v : α) : ∀ x ∈ tins k v t, x = (k, v) ∨ x ∈ t := by
  induction t with
  | nil => intro x hx; simpa [tins] using hx
  | cons y t ih =>
    obtain ⟨a, w⟩ := y
    intro x hx
    by_cases h : k < a
    · simpa [tins, h] using hx
    · simp only [tins, if_neg h, List.mem_cons] at hx
      rcases hx with rfl | hx
      · exact Or.inr (List.mem_cons_self ..)
      · rcases ih x hx with e | e
        · exact Or.inl e
        · exact Or.inr (List.mem_cons_of_mem _ e)

theorem tsorted_tins (t : Table α) (k : Nat) (v : α) (hf : tfree t k) (h : tsorted t = true) :
    tsorted (tins k v t) = true := by
  induction t with
  | nil => rfl
  | cons y t ih =>
    obtain ⟨a, w⟩ := y
    have hs := h
    rw [tsorted_cons] at h
    have ha : a ≠ k := hf (a, w) (List.mem_cons_self ..)
    by_cases hk : k < a
    · simp only [tins, if_pos hk]
      rw [tsorted_cons]
      refine ⟨?_, hs⟩
      intro x hx
      rcases List.mem_cons.1 hx with rfl | hx
      · exact hk
      · exact lt_trans hk (h.1 x hx)
    · simp only [tins, if_neg hk]
      rw [tsorted_cons]
      refine ⟨?_, ih (fun y hy => hf y (List.mem_cons_of_mem _ hy)) h.2⟩
      intro x hx
      rcases tins_mem t k v x hx with rfl | hx
      · exact lt_of_le_of_ne (Nat.le_of_not_lt hk) ha
      · exact h.1 x hx

/-- A write keeps the canonical form. -/
theorem twf_tput [DecidableEq α] (d : α) (t : Table α) (k : Nat) (v : α) (h : twf d t = true) :
    twf d (tput d t k v) = true := by
  unfold twf at *
  simp only [Bool.and_eq_true, List.all_eq_true, decide_eq_true_eq] at *
  obtain ⟨hs, hd⟩ := h
  unfold tput
  by_cases hv : v = d
  · rw [if_pos hv]
    exact ⟨tsorted_tdel t k hs, fun x hx => hd x (tdel_subset t k x hx)⟩
  · rw [if_neg hv]
    refine ⟨tsorted_tins _ _ _ (tfree_tdel t k) (tsorted_tdel t k hs), ?_⟩
    intro x hx
    rcases tins_mem _ _ _ x hx with rfl | hx
    · exact hv
    · exact hd x (tdel_subset t k x hx)

@[simp] theorem twf_nil [DecidableEq α] (d : α) : twf d ([] : Table α) = true := rfl

end Sys2Proof.Machine
end

