-- ==== Sys2Proof/Laws/State.lean ====
section
/-! SUPPORT. What each named update of the state leaves alone: one lemma per update and field. -/
namespace Sys2Proof.Machine
open Sys2Proof

/-! ### setPort -/
@[simp] theorem setPort_variant (p : Plane) (i : Nat) (x : Port) : (setPort p i x).variant = p.variant := rfl
@[simp] theorem setPort_clock (p : Plane) (i : Nat) (x : Port) : (setPort p i x).clock = p.clock := rfl
@[simp] theorem setPort_draw (p : Plane) (i : Nat) (x : Port) : (setPort p i x).draw = p.draw := rfl
@[simp] theorem setPort_epoch (p : Plane) (i : Nat) (x : Port) : (setPort p i x).epoch = p.epoch := rfl
@[simp] theorem setPort_inforce (p : Plane) (i : Nat) (x : Port) : (setPort p i x).inforce = p.inforce := rfl
@[simp] theorem setPort_modes (p : Plane) (i : Nat) (x : Port) : (setPort p i x).modes = p.modes := rfl
@[simp] theorem setPort_links (p : Plane) (i : Nat) (x : Port) : (setPort p i x).links = p.links := rfl
@[simp] theorem setPort_tiles (p : Plane) (i : Nat) (x : Port) : (setPort p i x).tiles = p.tiles := rfl
@[simp] theorem setPort_dir (p : Plane) (i : Nat) (x : Port) : (setPort p i x).dir = p.dir := rfl
@[simp] theorem setPort_dirFlips (p : Plane) (i : Nat) (x : Port) : (setPort p i x).dirFlips = p.dirFlips := rfl
@[simp] theorem setPort_jobs (p : Plane) (i : Nat) (x : Port) : (setPort p i x).jobs = p.jobs := rfl
@[simp] theorem setPort_nextJob (p : Plane) (i : Nat) (x : Port) : (setPort p i x).nextJob = p.nextJob := rfl
@[simp] theorem setPort_entries (p : Plane) (i : Nat) (x : Port) : (setPort p i x).entries = p.entries := rfl
@[simp] theorem setPort_waits (p : Plane) (i : Nat) (x : Port) : (setPort p i x).waits = p.waits := rfl
@[simp] theorem setPort_joinWait (p : Plane) (i : Nat) (x : Port) : (setPort p i x).joinWait = p.joinWait := rfl
@[simp] theorem setPort_notices (p : Plane) (i : Nat) (x : Port) : (setPort p i x).notices = p.notices := rfl
@[simp] theorem setPort_evHeld (p : Plane) (i : Nat) (x : Port) : (setPort p i x).evHeld = p.evHeld := rfl
@[simp] theorem setPort_relBuf (p : Plane) (i : Nat) (x : Port) : (setPort p i x).relBuf = p.relBuf := rfl
@[simp] theorem setPort_gathers (p : Plane) (i : Nat) (x : Port) : (setPort p i x).gathers = p.gathers := rfl
@[simp] theorem setPort_nextGather (p : Plane) (i : Nat) (x : Port) : (setPort p i x).nextGather = p.nextGather := rfl
@[simp] theorem setPort_rsvs (p : Plane) (i : Nat) (x : Port) : (setPort p i x).rsvs = p.rsvs := rfl
@[simp] theorem setPort_ways (p : Plane) (i : Nat) (x : Port) : (setPort p i x).ways = p.ways := rfl
@[simp] theorem setPort_sramFlips (p : Plane) (i : Nat) (x : Port) : (setPort p i x).sramFlips = p.sramFlips := rfl
@[simp] theorem setPort_slices (p : Plane) (i : Nat) (x : Port) : (setPort p i x).slices = p.slices := rfl
@[simp] theorem setPort_cache (p : Plane) (i : Nat) (x : Port) : (setPort p i x).cache = p.cache := rfl
@[simp] theorem setPort_descs (p : Plane) (i : Nat) (x : Port) : (setPort p i x).descs = p.descs := rfl
@[simp] theorem setPort_dram (p : Plane) (i : Nat) (x : Port) : (setPort p i x).dram = p.dram := rfl
@[simp] theorem setPort_chans (p : Plane) (i : Nat) (x : Port) : (setPort p i x).chans = p.chans := rfl
@[simp] theorem setPort_evac (p : Plane) (i : Nat) (x : Port) : (setPort p i x).evac = p.evac := rfl
@[simp] theorem setPort_remaps (p : Plane) (i : Nat) (x : Port) : (setPort p i x).remaps = p.remaps := rfl
@[simp] theorem setPort_rowCopies (p : Plane) (i : Nat) (x : Port) : (setPort p i x).rowCopies = p.rowCopies := rfl
@[simp] theorem setPort_insts (p : Plane) (i : Nat) (x : Port) : (setPort p i x).insts = p.insts := rfl
@[simp] theorem setPort_binds (p : Plane) (i : Nat) (x : Port) : (setPort p i x).binds = p.binds := rfl
@[simp] theorem setPort_windows (p : Plane) (i : Nat) (x : Port) : (setPort p i x).windows = p.windows := rfl
@[simp] theorem setPort_regions (p : Plane) (i : Nat) (x : Port) : (setPort p i x).regions = p.regions := rfl
@[simp] theorem setPort_dw (p : Plane) (i : Nat) (x : Port) : (setPort p i x).dw = p.dw := rfl
@[simp] theorem setPort_ops (p : Plane) (i : Nat) (x : Port) : (setPort p i x).ops = p.ops := rfl
@[simp] theorem setPort_nextOp (p : Plane) (i : Nat) (x : Port) : (setPort p i x).nextOp = p.nextOp := rfl
@[simp] theorem setPort_evq (p : Plane) (i : Nat) (x : Port) : (setPort p i x).evq = p.evq := rfl
@[simp] theorem setPort_holds (p : Plane) (i : Nat) (x : Port) : (setPort p i x).holds = p.holds := rfl
@[simp] theorem setPort_evLost (p : Plane) (i : Nat) (x : Port) : (setPort p i x).evLost = p.evLost := rfl
@[simp] theorem setPort_lostFlag (p : Plane) (i : Nat) (x : Port) : (setPort p i x).lostFlag = p.lostFlag := rfl
@[simp] theorem setPort_counters (p : Plane) (i : Nat) (x : Port) : (setPort p i x).counters = p.counters := rfl
@[simp] theorem setPort_hists (p : Plane) (i : Nat) (x : Port) : (setPort p i x).hists = p.hists := rfl
@[simp] theorem setPort_samples (p : Plane) (i : Nat) (x : Port) : (setPort p i x).samples = p.samples := rfl
@[simp] theorem setPort_dirCe (p : Plane) (i : Nat) (x : Port) : (setPort p i x).dirCe = p.dirCe := rfl
@[simp] theorem setPort_dirUe (p : Plane) (i : Nat) (x : Port) : (setPort p i x).dirUe = p.dirUe := rfl
@[simp] theorem setPort_rvFix (p : Plane) (i : Nat) (x : Port) : (setPort p i x).rvFix = p.rvFix := rfl
@[simp] theorem setPort_dramHours (p : Plane) (i : Nat) (x : Port) : (setPort p i x).dramHours = p.dramHours := rfl
@[simp] theorem setPort_sramHours (p : Plane) (i : Nat) (x : Port) : (setPort p i x).sramHours = p.sramHours := rfl
@[simp] theorem setPort_sramPos (p : Plane) (i : Nat) (x : Port) : (setPort p i x).sramPos = p.sramPos := rfl
@[simp] theorem setPort_sramPasses (p : Plane) (i : Nat) (x : Port) : (setPort p i x).sramPasses = p.sramPasses := rfl
@[simp] theorem setPort_dramPasses (p : Plane) (i : Nat) (x : Port) : (setPort p i x).dramPasses = p.dramPasses := rfl
@[simp] theorem setPort_flashWays (p : Plane) (i : Nat) (x : Port) : (setPort p i x).flashWays = p.flashWays := rfl
@[simp] theorem setPort_flashRows (p : Plane) (i : Nat) (x : Port) : (setPort p i x).flashRows = p.flashRows := rfl
@[simp] theorem setPort_flashEvac (p : Plane) (i : Nat) (x : Port) : (setPort p i x).flashEvac = p.flashEvac := rfl
@[simp] theorem setPort_tapTime (p : Plane) (i : Nat) (x : Port) : (setPort p i x).tapTime = p.tapTime := rfl
@[simp] theorem setPort_winSeq (p : Plane) (i : Nat) (x : Port) : (setPort p i x).winSeq = p.winSeq := rfl
@[simp] theorem setPort_winStart (p : Plane) (i : Nat) (x : Port) : (setPort p i x).winStart = p.winStart := rfl
@[simp] theorem setPort_winEnd (p : Plane) (i : Nat) (x : Port) : (setPort p i x).winEnd = p.winEnd := rfl
@[simp] theorem setPort_taps (p : Plane) (i : Nat) (x : Port) : (setPort p i x).taps = p.taps := rfl
@[simp] theorem setPort_frames (p : Plane) (i : Nat) (x : Port) : (setPort p i x).frames = p.frames := rfl
@[simp] theorem setPort_gated (p : Plane) (i : Nat) (x : Port) : (setPort p i x).gated = p.gated := rfl
@[simp] theorem setPort_joinHeld (p : Plane) (i : Nat) (x : Port) : (setPort p i x).joinHeld = p.joinHeld := rfl
@[simp] theorem setPort_ended (p : Plane) (i : Nat) (x : Port) : (setPort p i x).ended = p.ended := rfl
@[simp] theorem setPort_staleTags (p : Plane) (i : Nat) (x : Port) : (setPort p i x).staleTags = p.staleTags := rfl
@[simp] theorem setPort_lats (p : Plane) (i : Nat) (x : Port) : (setPort p i x).lats = p.lats := rfl

/-! ### setLink -/
@[simp] theorem setLink_variant (p : Plane) (i : Nat) (x : JLink) : (setLink p i x).variant = p.variant := rfl
@[simp] theorem setLink_clock (p : Plane) (i : Nat) (x : JLink) : (setLink p i x).clock = p.clock := rfl
@[simp] theorem setLink_draw (p : Plane) (i : Nat) (x : JLink) : (setLink p i x).draw = p.draw := rfl
@[simp] theorem setLink_epoch (p : Plane) (i : Nat) (x : JLink) : (setLink p i x).epoch = p.epoch := rfl
@[simp] theorem setLink_inforce (p : Plane) (i : Nat) (x : JLink) : (setLink p i x).inforce = p.inforce := rfl
@[simp] theorem setLink_modes (p : Plane) (i : Nat) (x : JLink) : (setLink p i x).modes = p.modes := rfl
@[simp] theorem setLink_ports (p : Plane) (i : Nat) (x : JLink) : (setLink p i x).ports = p.ports := rfl
@[simp] theorem setLink_tiles (p : Plane) (i : Nat) (x : JLink) : (setLink p i x).tiles = p.tiles := rfl
@[simp] theorem setLink_dir (p : Plane) (i : Nat) (x : JLink) : (setLink p i x).dir = p.dir := rfl
@[simp] theorem setLink_dirFlips (p : Plane) (i : Nat) (x : JLink) : (setLink p i x).dirFlips = p.dirFlips := rfl
@[simp] theorem setLink_jobs (p : Plane) (i : Nat) (x : JLink) : (setLink p i x).jobs = p.jobs := rfl
@[simp] theorem setLink_nextJob (p : Plane) (i : Nat) (x : JLink) : (setLink p i x).nextJob = p.nextJob := rfl
@[simp] theorem setLink_entries (p : Plane) (i : Nat) (x : JLink) : (setLink p i x).entries = p.entries := rfl
@[simp] theorem setLink_waits (p : Plane) (i : Nat) (x : JLink) : (setLink p i x).waits = p.waits := rfl
@[simp] theorem setLink_joinWait (p : Plane) (i : Nat) (x : JLink) : (setLink p i x).joinWait = p.joinWait := rfl
@[simp] theorem setLink_notices (p : Plane) (i : Nat) (x : JLink) : (setLink p i x).notices = p.notices := rfl
@[simp] theorem setLink_evHeld (p : Plane) (i : Nat) (x : JLink) : (setLink p i x).evHeld = p.evHeld := rfl
@[simp] theorem setLink_relBuf (p : Plane) (i : Nat) (x : JLink) : (setLink p i x).relBuf = p.relBuf := rfl
@[simp] theorem setLink_gathers (p : Plane) (i : Nat) (x : JLink) : (setLink p i x).gathers = p.gathers := rfl
@[simp] theorem setLink_nextGather (p : Plane) (i : Nat) (x : JLink) : (setLink p i x).nextGather = p.nextGather := rfl
@[simp] theorem setLink_rsvs (p : Plane) (i : Nat) (x : JLink) : (setLink p i x).rsvs = p.rsvs := rfl
@[simp] theorem setLink_ways (p : Plane) (i : Nat) (x : JLink) : (setLink p i x).ways = p.ways := rfl
@[simp] theorem setLink_sramFlips (p : Plane) (i : Nat) (x : JLink) : (setLink p i x).sramFlips = p.sramFlips := rfl
@[simp] theorem setLink_slices (p : Plane) (i : Nat) (x : JLink) : (setLink p i x).slices = p.slices := rfl
@[simp] theorem setLink_cache (p : Plane) (i : Nat) (x : JLink) : (setLink p i x).cache = p.cache := rfl
@[simp] theorem setLink_descs (p : Plane) (i : Nat) (x : JLink) : (setLink p i x).descs = p.descs := rfl
@[simp] theorem setLink_dram (p : Plane) (i : Nat) (x : JLink) : (setLink p i x).dram = p.dram := rfl
@[simp] theorem setLink_chans (p : Plane) (i : Nat) (x : JLink) : (setLink p i x).chans = p.chans := rfl
@[simp] theorem setLink_evac (p : Plane) (i : Nat) (x : JLink) : (setLink p i x).evac = p.evac := rfl
@[simp] theorem setLink_remaps (p : Plane) (i : Nat) (x : JLink) : (setLink p i x).remaps = p.remaps := rfl
@[simp] theorem setLink_rowCopies (p : Plane) (i : Nat) (x : JLink) : (setLink p i x).rowCopies = p.rowCopies := rfl
@[simp] theorem setLink_insts (p : Plane) (i : Nat) (x : JLink) : (setLink p i x).insts = p.insts := rfl
@[simp] theorem setLink_binds (p : Plane) (i : Nat) (x : JLink) : (setLink p i x).binds = p.binds := rfl
@[simp] theorem setLink_windows (p : Plane) (i : Nat) (x : JLink) : (setLink p i x).windows = p.windows := rfl
@[simp] theorem setLink_regions (p : Plane) (i : Nat) (x : JLink) : (setLink p i x).regions = p.regions := rfl
@[simp] theorem setLink_dw (p : Plane) (i : Nat) (x : JLink) : (setLink p i x).dw = p.dw := rfl
@[simp] theorem setLink_ops (p : Plane) (i : Nat) (x : JLink) : (setLink p i x).ops = p.ops := rfl
@[simp] theorem setLink_nextOp (p : Plane) (i : Nat) (x : JLink) : (setLink p i x).nextOp = p.nextOp := rfl
@[simp] theorem setLink_evq (p : Plane) (i : Nat) (x : JLink) : (setLink p i x).evq = p.evq := rfl
@[simp] theorem setLink_holds (p : Plane) (i : Nat) (x : JLink) : (setLink p i x).holds = p.holds := rfl
@[simp] theorem setLink_evLost (p : Plane) (i : Nat) (x : JLink) : (setLink p i x).evLost = p.evLost := rfl
@[simp] theorem setLink_lostFlag (p : Plane) (i : Nat) (x : JLink) : (setLink p i x).lostFlag = p.lostFlag := rfl
@[simp] theorem setLink_counters (p : Plane) (i : Nat) (x : JLink) : (setLink p i x).counters = p.counters := rfl
@[simp] theorem setLink_hists (p : Plane) (i : Nat) (x : JLink) : (setLink p i x).hists = p.hists := rfl
@[simp] theorem setLink_samples (p : Plane) (i : Nat) (x : JLink) : (setLink p i x).samples = p.samples := rfl
@[simp] theorem setLink_dirCe (p : Plane) (i : Nat) (x : JLink) : (setLink p i x).dirCe = p.dirCe := rfl
@[simp] theorem setLink_dirUe (p : Plane) (i : Nat) (x : JLink) : (setLink p i x).dirUe = p.dirUe := rfl
@[simp] theorem setLink_rvFix (p : Plane) (i : Nat) (x : JLink) : (setLink p i x).rvFix = p.rvFix := rfl
@[simp] theorem setLink_dramHours (p : Plane) (i : Nat) (x : JLink) : (setLink p i x).dramHours = p.dramHours := rfl
@[simp] theorem setLink_sramHours (p : Plane) (i : Nat) (x : JLink) : (setLink p i x).sramHours = p.sramHours := rfl
@[simp] theorem setLink_sramPos (p : Plane) (i : Nat) (x : JLink) : (setLink p i x).sramPos = p.sramPos := rfl
@[simp] theorem setLink_sramPasses (p : Plane) (i : Nat) (x : JLink) : (setLink p i x).sramPasses = p.sramPasses := rfl
@[simp] theorem setLink_dramPasses (p : Plane) (i : Nat) (x : JLink) : (setLink p i x).dramPasses = p.dramPasses := rfl
@[simp] theorem setLink_flashWays (p : Plane) (i : Nat) (x : JLink) : (setLink p i x).flashWays = p.flashWays := rfl
@[simp] theorem setLink_flashRows (p : Plane) (i : Nat) (x : JLink) : (setLink p i x).flashRows = p.flashRows := rfl
@[simp] theorem setLink_flashEvac (p : Plane) (i : Nat) (x : JLink) : (setLink p i x).flashEvac = p.flashEvac := rfl
@[simp] theorem setLink_tapTime (p : Plane) (i : Nat) (x : JLink) : (setLink p i x).tapTime = p.tapTime := rfl
@[simp] theorem setLink_winSeq (p : Plane) (i : Nat) (x : JLink) : (setLink p i x).winSeq = p.winSeq := rfl
@[simp] theorem setLink_winStart (p : Plane) (i : Nat) (x : JLink) : (setLink p i x).winStart = p.winStart := rfl
@[simp] theorem setLink_winEnd (p : Plane) (i : Nat) (x : JLink) : (setLink p i x).winEnd = p.winEnd := rfl
@[simp] theorem setLink_taps (p : Plane) (i : Nat) (x : JLink) : (setLink p i x).taps = p.taps := rfl
@[simp] theorem setLink_frames (p : Plane) (i : Nat) (x : JLink) : (setLink p i x).frames = p.frames := rfl
@[simp] theorem setLink_gated (p : Plane) (i : Nat) (x : JLink) : (setLink p i x).gated = p.gated := rfl
@[simp] theorem setLink_joinHeld (p : Plane) (i : Nat) (x : JLink) : (setLink p i x).joinHeld = p.joinHeld := rfl
@[simp] theorem setLink_ended (p : Plane) (i : Nat) (x : JLink) : (setLink p i x).ended = p.ended := rfl
@[simp] theorem setLink_staleTags (p : Plane) (i : Nat) (x : JLink) : (setLink p i x).staleTags = p.staleTags := rfl
@[simp] theorem setLink_lats (p : Plane) (i : Nat) (x : JLink) : (setLink p i x).lats = p.lats := rfl

/-! ### setTile -/
@[simp] theorem setTile_variant (p : Plane) (i : Nat) (x : HomeTile) : (setTile p i x).variant = p.variant := rfl
@[simp] theorem setTile_clock (p : Plane) (i : Nat) (x : HomeTile) : (setTile p i x).clock = p.clock := rfl
@[simp] theorem setTile_draw (p : Plane) (i : Nat) (x : HomeTile) : (setTile p i x).draw = p.draw := rfl
@[simp] theorem setTile_epoch (p : Plane) (i : Nat) (x : HomeTile) : (setTile p i x).epoch = p.epoch := rfl
@[simp] theorem setTile_inforce (p : Plane) (i : Nat) (x : HomeTile) : (setTile p i x).inforce = p.inforce := rfl
@[simp] theorem setTile_modes (p : Plane) (i : Nat) (x : HomeTile) : (setTile p i x).modes = p.modes := rfl
@[simp] theorem setTile_ports (p : Plane) (i : Nat) (x : HomeTile) : (setTile p i x).ports = p.ports := rfl
@[simp] theorem setTile_links (p : Plane) (i : Nat) (x : HomeTile) : (setTile p i x).links = p.links := rfl
@[simp] theorem setTile_dir (p : Plane) (i : Nat) (x : HomeTile) : (setTile p i x).dir = p.dir := rfl
@[simp] theorem setTile_dirFlips (p : Plane) (i : Nat) (x : HomeTile) : (setTile p i x).dirFlips = p.dirFlips := rfl
@[simp] theorem setTile_jobs (p : Plane) (i : Nat) (x : HomeTile) : (setTile p i x).jobs = p.jobs := rfl
@[simp] theorem setTile_nextJob (p : Plane) (i : Nat) (x : HomeTile) : (setTile p i x).nextJob = p.nextJob := rfl
@[simp] theorem setTile_entries (p : Plane) (i : Nat) (x : HomeTile) : (setTile p i x).entries = p.entries := rfl
@[simp] theorem setTile_waits (p : Plane) (i : Nat) (x : HomeTile) : (setTile p i x).waits = p.waits := rfl
@[simp] theorem setTile_joinWait (p : Plane) (i : Nat) (x : HomeTile) : (setTile p i x).joinWait = p.joinWait := rfl
@[simp] theorem setTile_notices (p : Plane) (i : Nat) (x : HomeTile) : (setTile p i x).notices = p.notices := rfl
@[simp] theorem setTile_evHeld (p : Plane) (i : Nat) (x : HomeTile) : (setTile p i x).evHeld = p.evHeld := rfl
@[simp] theorem setTile_relBuf (p : Plane) (i : Nat) (x : HomeTile) : (setTile p i x).relBuf = p.relBuf := rfl
@[simp] theorem setTile_gathers (p : Plane) (i : Nat) (x : HomeTile) : (setTile p i x).gathers = p.gathers := rfl
@[simp] theorem setTile_nextGather (p : Plane) (i : Nat) (x : HomeTile) : (setTile p i x).nextGather = p.nextGather := rfl
@[simp] theorem setTile_rsvs (p : Plane) (i : Nat) (x : HomeTile) : (setTile p i x).rsvs = p.rsvs := rfl
@[simp] theorem setTile_ways (p : Plane) (i : Nat) (x : HomeTile) : (setTile p i x).ways = p.ways := rfl
@[simp] theorem setTile_sramFlips (p : Plane) (i : Nat) (x : HomeTile) : (setTile p i x).sramFlips = p.sramFlips := rfl
@[simp] theorem setTile_slices (p : Plane) (i : Nat) (x : HomeTile) : (setTile p i x).slices = p.slices := rfl
@[simp] theorem setTile_cache (p : Plane) (i : Nat) (x : HomeTile) : (setTile p i x).cache = p.cache := rfl
@[simp] theorem setTile_descs (p : Plane) (i : Nat) (x : HomeTile) : (setTile p i x).descs = p.descs := rfl
@[simp] theorem setTile_dram (p : Plane) (i : Nat) (x : HomeTile) : (setTile p i x).dram = p.dram := rfl
@[simp] theorem setTile_chans (p : Plane) (i : Nat) (x : HomeTile) : (setTile p i x).chans = p.chans := rfl
@[simp] theorem setTile_evac (p : Plane) (i : Nat) (x : HomeTile) : (setTile p i x).evac = p.evac := rfl
@[simp] theorem setTile_remaps (p : Plane) (i : Nat) (x : HomeTile) : (setTile p i x).remaps = p.remaps := rfl
@[simp] theorem setTile_rowCopies (p : Plane) (i : Nat) (x : HomeTile) : (setTile p i x).rowCopies = p.rowCopies := rfl
@[simp] theorem setTile_insts (p : Plane) (i : Nat) (x : HomeTile) : (setTile p i x).insts = p.insts := rfl
@[simp] theorem setTile_binds (p : Plane) (i : Nat) (x : HomeTile) : (setTile p i x).binds = p.binds := rfl
@[simp] theorem setTile_windows (p : Plane) (i : Nat) (x : HomeTile) : (setTile p i x).windows = p.windows := rfl
@[simp] theorem setTile_regions (p : Plane) (i : Nat) (x : HomeTile) : (setTile p i x).regions = p.regions := rfl
@[simp] theorem setTile_dw (p : Plane) (i : Nat) (x : HomeTile) : (setTile p i x).dw = p.dw := rfl
@[simp] theorem setTile_ops (p : Plane) (i : Nat) (x : HomeTile) : (setTile p i x).ops = p.ops := rfl
@[simp] theorem setTile_nextOp (p : Plane) (i : Nat) (x : HomeTile) : (setTile p i x).nextOp = p.nextOp := rfl
@[simp] theorem setTile_evq (p : Plane) (i : Nat) (x : HomeTile) : (setTile p i x).evq = p.evq := rfl
@[simp] theorem setTile_holds (p : Plane) (i : Nat) (x : HomeTile) : (setTile p i x).holds = p.holds := rfl
@[simp] theorem setTile_evLost (p : Plane) (i : Nat) (x : HomeTile) : (setTile p i x).evLost = p.evLost := rfl
@[simp] theorem setTile_lostFlag (p : Plane) (i : Nat) (x : HomeTile) : (setTile p i x).lostFlag = p.lostFlag := rfl
@[simp] theorem setTile_counters (p : Plane) (i : Nat) (x : HomeTile) : (setTile p i x).counters = p.counters := rfl
@[simp] theorem setTile_hists (p : Plane) (i : Nat) (x : HomeTile) : (setTile p i x).hists = p.hists := rfl
@[simp] theorem setTile_samples (p : Plane) (i : Nat) (x : HomeTile) : (setTile p i x).samples = p.samples := rfl
@[simp] theorem setTile_dirCe (p : Plane) (i : Nat) (x : HomeTile) : (setTile p i x).dirCe = p.dirCe := rfl
@[simp] theorem setTile_dirUe (p : Plane) (i : Nat) (x : HomeTile) : (setTile p i x).dirUe = p.dirUe := rfl
@[simp] theorem setTile_rvFix (p : Plane) (i : Nat) (x : HomeTile) : (setTile p i x).rvFix = p.rvFix := rfl
@[simp] theorem setTile_dramHours (p : Plane) (i : Nat) (x : HomeTile) : (setTile p i x).dramHours = p.dramHours := rfl
@[simp] theorem setTile_sramHours (p : Plane) (i : Nat) (x : HomeTile) : (setTile p i x).sramHours = p.sramHours := rfl
@[simp] theorem setTile_sramPos (p : Plane) (i : Nat) (x : HomeTile) : (setTile p i x).sramPos = p.sramPos := rfl
@[simp] theorem setTile_sramPasses (p : Plane) (i : Nat) (x : HomeTile) : (setTile p i x).sramPasses = p.sramPasses := rfl
@[simp] theorem setTile_dramPasses (p : Plane) (i : Nat) (x : HomeTile) : (setTile p i x).dramPasses = p.dramPasses := rfl
@[simp] theorem setTile_flashWays (p : Plane) (i : Nat) (x : HomeTile) : (setTile p i x).flashWays = p.flashWays := rfl
@[simp] theorem setTile_flashRows (p : Plane) (i : Nat) (x : HomeTile) : (setTile p i x).flashRows = p.flashRows := rfl
@[simp] theorem setTile_flashEvac (p : Plane) (i : Nat) (x : HomeTile) : (setTile p i x).flashEvac = p.flashEvac := rfl
@[simp] theorem setTile_tapTime (p : Plane) (i : Nat) (x : HomeTile) : (setTile p i x).tapTime = p.tapTime := rfl
@[simp] theorem setTile_winSeq (p : Plane) (i : Nat) (x : HomeTile) : (setTile p i x).winSeq = p.winSeq := rfl
@[simp] theorem setTile_winStart (p : Plane) (i : Nat) (x : HomeTile) : (setTile p i x).winStart = p.winStart := rfl
@[simp] theorem setTile_winEnd (p : Plane) (i : Nat) (x : HomeTile) : (setTile p i x).winEnd = p.winEnd := rfl
@[simp] theorem setTile_taps (p : Plane) (i : Nat) (x : HomeTile) : (setTile p i x).taps = p.taps := rfl
@[simp] theorem setTile_frames (p : Plane) (i : Nat) (x : HomeTile) : (setTile p i x).frames = p.frames := rfl
@[simp] theorem setTile_gated (p : Plane) (i : Nat) (x : HomeTile) : (setTile p i x).gated = p.gated := rfl
@[simp] theorem setTile_joinHeld (p : Plane) (i : Nat) (x : HomeTile) : (setTile p i x).joinHeld = p.joinHeld := rfl
@[simp] theorem setTile_ended (p : Plane) (i : Nat) (x : HomeTile) : (setTile p i x).ended = p.ended := rfl
@[simp] theorem setTile_staleTags (p : Plane) (i : Nat) (x : HomeTile) : (setTile p i x).staleTags = p.staleTags := rfl
@[simp] theorem setTile_lats (p : Plane) (i : Nat) (x : HomeTile) : (setTile p i x).lats = p.lats := rfl

/-! ### setChan -/
@[simp] theorem setChan_variant (p : Plane) (i : Nat) (x : Chan) : (setChan p i x).variant = p.variant := rfl
@[simp] theorem setChan_clock (p : Plane) (i : Nat) (x : Chan) : (setChan p i x).clock = p.clock := rfl
@[simp] theorem setChan_draw (p : Plane) (i : Nat) (x : Chan) : (setChan p i x).draw = p.draw := rfl
@[simp] theorem setChan_epoch (p : Plane) (i : Nat) (x : Chan) : (setChan p i x).epoch = p.epoch := rfl
@[simp] theorem setChan_inforce (p : Plane) (i : Nat) (x : Chan) : (setChan p i x).inforce = p.inforce := rfl
@[simp] theorem setChan_modes (p : Plane) (i : Nat) (x : Chan) : (setChan p i x).modes = p.modes := rfl
@[simp] theorem setChan_ports (p : Plane) (i : Nat) (x : Chan) : (setChan p i x).ports = p.ports := rfl
@[simp] theorem setChan_links (p : Plane) (i : Nat) (x : Chan) : (setChan p i x).links = p.links := rfl
@[simp] theorem setChan_tiles (p : Plane) (i : Nat) (x : Chan) : (setChan p i x).tiles = p.tiles := rfl
@[simp] theorem setChan_dir (p : Plane) (i : Nat) (x : Chan) : (setChan p i x).dir = p.dir := rfl
@[simp] theorem setChan_dirFlips (p : Plane) (i : Nat) (x : Chan) : (setChan p i x).dirFlips = p.dirFlips := rfl
@[simp] theorem setChan_jobs (p : Plane) (i : Nat) (x : Chan) : (setChan p i x).jobs = p.jobs := rfl
@[simp] theorem setChan_nextJob (p : Plane) (i : Nat) (x : Chan) : (setChan p i x).nextJob = p.nextJob := rfl
@[simp] theorem setChan_entries (p : Plane) (i : Nat) (x : Chan) : (setChan p i x).entries = p.entries := rfl
@[simp] theorem setChan_waits (p : Plane) (i : Nat) (x : Chan) : (setChan p i x).waits = p.waits := rfl
@[simp] theorem setChan_joinWait (p : Plane) (i : Nat) (x : Chan) : (setChan p i x).joinWait = p.joinWait := rfl
@[simp] theorem setChan_notices (p : Plane) (i : Nat) (x : Chan) : (setChan p i x).notices = p.notices := rfl
@[simp] theorem setChan_evHeld (p : Plane) (i : Nat) (x : Chan) : (setChan p i x).evHeld = p.evHeld := rfl
@[simp] theorem setChan_relBuf (p : Plane) (i : Nat) (x : Chan) : (setChan p i x).relBuf = p.relBuf := rfl
@[simp] theorem setChan_gathers (p : Plane) (i : Nat) (x : Chan) : (setChan p i x).gathers = p.gathers := rfl
@[simp] theorem setChan_nextGather (p : Plane) (i : Nat) (x : Chan) : (setChan p i x).nextGather = p.nextGather := rfl
@[simp] theorem setChan_rsvs (p : Plane) (i : Nat) (x : Chan) : (setChan p i x).rsvs = p.rsvs := rfl
@[simp] theorem setChan_ways (p : Plane) (i : Nat) (x : Chan) : (setChan p i x).ways = p.ways := rfl
@[simp] theorem setChan_sramFlips (p : Plane) (i : Nat) (x : Chan) : (setChan p i x).sramFlips = p.sramFlips := rfl
@[simp] theorem setChan_slices (p : Plane) (i : Nat) (x : Chan) : (setChan p i x).slices = p.slices := rfl
@[simp] theorem setChan_cache (p : Plane) (i : Nat) (x : Chan) : (setChan p i x).cache = p.cache := rfl
@[simp] theorem setChan_descs (p : Plane) (i : Nat) (x : Chan) : (setChan p i x).descs = p.descs := rfl
@[simp] theorem setChan_dram (p : Plane) (i : Nat) (x : Chan) : (setChan p i x).dram = p.dram := rfl
@[simp] theorem setChan_evac (p : Plane) (i : Nat) (x : Chan) : (setChan p i x).evac = p.evac := rfl
@[simp] theorem setChan_remaps (p : Plane) (i : Nat) (x : Chan) : (setChan p i x).remaps = p.remaps := rfl
@[simp] theorem setChan_rowCopies (p : Plane) (i : Nat) (x : Chan) : (setChan p i x).rowCopies = p.rowCopies := rfl
@[simp] theorem setChan_insts (p : Plane) (i : Nat) (x : Chan) : (setChan p i x).insts = p.insts := rfl
@[simp] theorem setChan_binds (p : Plane) (i : Nat) (x : Chan) : (setChan p i x).binds = p.binds := rfl
@[simp] theorem setChan_windows (p : Plane) (i : Nat) (x : Chan) : (setChan p i x).windows = p.windows := rfl
@[simp] theorem setChan_regions (p : Plane) (i : Nat) (x : Chan) : (setChan p i x).regions = p.regions := rfl
@[simp] theorem setChan_dw (p : Plane) (i : Nat) (x : Chan) : (setChan p i x).dw = p.dw := rfl
@[simp] theorem setChan_ops (p : Plane) (i : Nat) (x : Chan) : (setChan p i x).ops = p.ops := rfl
@[simp] theorem setChan_nextOp (p : Plane) (i : Nat) (x : Chan) : (setChan p i x).nextOp = p.nextOp := rfl
@[simp] theorem setChan_evq (p : Plane) (i : Nat) (x : Chan) : (setChan p i x).evq = p.evq := rfl
@[simp] theorem setChan_holds (p : Plane) (i : Nat) (x : Chan) : (setChan p i x).holds = p.holds := rfl
@[simp] theorem setChan_evLost (p : Plane) (i : Nat) (x : Chan) : (setChan p i x).evLost = p.evLost := rfl
@[simp] theorem setChan_lostFlag (p : Plane) (i : Nat) (x : Chan) : (setChan p i x).lostFlag = p.lostFlag := rfl
@[simp] theorem setChan_counters (p : Plane) (i : Nat) (x : Chan) : (setChan p i x).counters = p.counters := rfl
@[simp] theorem setChan_hists (p : Plane) (i : Nat) (x : Chan) : (setChan p i x).hists = p.hists := rfl
@[simp] theorem setChan_samples (p : Plane) (i : Nat) (x : Chan) : (setChan p i x).samples = p.samples := rfl
@[simp] theorem setChan_dirCe (p : Plane) (i : Nat) (x : Chan) : (setChan p i x).dirCe = p.dirCe := rfl
@[simp] theorem setChan_dirUe (p : Plane) (i : Nat) (x : Chan) : (setChan p i x).dirUe = p.dirUe := rfl
@[simp] theorem setChan_rvFix (p : Plane) (i : Nat) (x : Chan) : (setChan p i x).rvFix = p.rvFix := rfl
@[simp] theorem setChan_dramHours (p : Plane) (i : Nat) (x : Chan) : (setChan p i x).dramHours = p.dramHours := rfl
@[simp] theorem setChan_sramHours (p : Plane) (i : Nat) (x : Chan) : (setChan p i x).sramHours = p.sramHours := rfl
@[simp] theorem setChan_sramPos (p : Plane) (i : Nat) (x : Chan) : (setChan p i x).sramPos = p.sramPos := rfl
@[simp] theorem setChan_sramPasses (p : Plane) (i : Nat) (x : Chan) : (setChan p i x).sramPasses = p.sramPasses := rfl
@[simp] theorem setChan_dramPasses (p : Plane) (i : Nat) (x : Chan) : (setChan p i x).dramPasses = p.dramPasses := rfl
@[simp] theorem setChan_flashWays (p : Plane) (i : Nat) (x : Chan) : (setChan p i x).flashWays = p.flashWays := rfl
@[simp] theorem setChan_flashRows (p : Plane) (i : Nat) (x : Chan) : (setChan p i x).flashRows = p.flashRows := rfl
@[simp] theorem setChan_flashEvac (p : Plane) (i : Nat) (x : Chan) : (setChan p i x).flashEvac = p.flashEvac := rfl
@[simp] theorem setChan_tapTime (p : Plane) (i : Nat) (x : Chan) : (setChan p i x).tapTime = p.tapTime := rfl
@[simp] theorem setChan_winSeq (p : Plane) (i : Nat) (x : Chan) : (setChan p i x).winSeq = p.winSeq := rfl
@[simp] theorem setChan_winStart (p : Plane) (i : Nat) (x : Chan) : (setChan p i x).winStart = p.winStart := rfl
@[simp] theorem setChan_winEnd (p : Plane) (i : Nat) (x : Chan) : (setChan p i x).winEnd = p.winEnd := rfl
@[simp] theorem setChan_taps (p : Plane) (i : Nat) (x : Chan) : (setChan p i x).taps = p.taps := rfl
@[simp] theorem setChan_frames (p : Plane) (i : Nat) (x : Chan) : (setChan p i x).frames = p.frames := rfl
@[simp] theorem setChan_gated (p : Plane) (i : Nat) (x : Chan) : (setChan p i x).gated = p.gated := rfl
@[simp] theorem setChan_joinHeld (p : Plane) (i : Nat) (x : Chan) : (setChan p i x).joinHeld = p.joinHeld := rfl
@[simp] theorem setChan_ended (p : Plane) (i : Nat) (x : Chan) : (setChan p i x).ended = p.ended := rfl
@[simp] theorem setChan_staleTags (p : Plane) (i : Nat) (x : Chan) : (setChan p i x).staleTags = p.staleTags := rfl
@[simp] theorem setChan_lats (p : Plane) (i : Nat) (x : Chan) : (setChan p i x).lats = p.lats := rfl

/-! ### setSlice -/
@[simp] theorem setSlice_variant (p : Plane) (i : Nat) (x : Slice) : (setSlice p i x).variant = p.variant := rfl
@[simp] theorem setSlice_clock (p : Plane) (i : Nat) (x : Slice) : (setSlice p i x).clock = p.clock := rfl
@[simp] theorem setSlice_draw (p : Plane) (i : Nat) (x : Slice) : (setSlice p i x).draw = p.draw := rfl
@[simp] theorem setSlice_epoch (p : Plane) (i : Nat) (x : Slice) : (setSlice p i x).epoch = p.epoch := rfl
@[simp] theorem setSlice_inforce (p : Plane) (i : Nat) (x : Slice) : (setSlice p i x).inforce = p.inforce := rfl
@[simp] theorem setSlice_modes (p : Plane) (i : Nat) (x : Slice) : (setSlice p i x).modes = p.modes := rfl
@[simp] theorem setSlice_ports (p : Plane) (i : Nat) (x : Slice) : (setSlice p i x).ports = p.ports := rfl
@[simp] theorem setSlice_links (p : Plane) (i : Nat) (x : Slice) : (setSlice p i x).links = p.links := rfl
@[simp] theorem setSlice_tiles (p : Plane) (i : Nat) (x : Slice) : (setSlice p i x).tiles = p.tiles := rfl
@[simp] theorem setSlice_dir (p : Plane) (i : Nat) (x : Slice) : (setSlice p i x).dir = p.dir := rfl
@[simp] theorem setSlice_dirFlips (p : Plane) (i : Nat) (x : Slice) : (setSlice p i x).dirFlips = p.dirFlips := rfl
@[simp] theorem setSlice_jobs (p : Plane) (i : Nat) (x : Slice) : (setSlice p i x).jobs = p.jobs := rfl
@[simp] theorem setSlice_nextJob (p : Plane) (i : Nat) (x : Slice) : (setSlice p i x).nextJob = p.nextJob := rfl
@[simp] theorem setSlice_entries (p : Plane) (i : Nat) (x : Slice) : (setSlice p i x).entries = p.entries := rfl
@[simp] theorem setSlice_waits (p : Plane) (i : Nat) (x : Slice) : (setSlice p i x).waits = p.waits := rfl
@[simp] theorem setSlice_joinWait (p : Plane) (i : Nat) (x : Slice) : (setSlice p i x).joinWait = p.joinWait := rfl
@[simp] theorem setSlice_notices (p : Plane) (i : Nat) (x : Slice) : (setSlice p i x).notices = p.notices := rfl
@[simp] theorem setSlice_evHeld (p : Plane) (i : Nat) (x : Slice) : (setSlice p i x).evHeld = p.evHeld := rfl
@[simp] theorem setSlice_relBuf (p : Plane) (i : Nat) (x : Slice) : (setSlice p i x).relBuf = p.relBuf := rfl
@[simp] theorem setSlice_gathers (p : Plane) (i : Nat) (x : Slice) : (setSlice p i x).gathers = p.gathers := rfl
@[simp] theorem setSlice_nextGather (p : Plane) (i : Nat) (x : Slice) : (setSlice p i x).nextGather = p.nextGather := rfl
@[simp] theorem setSlice_rsvs (p : Plane) (i : Nat) (x : Slice) : (setSlice p i x).rsvs = p.rsvs := rfl
@[simp] theorem setSlice_ways (p : Plane) (i : Nat) (x : Slice) : (setSlice p i x).ways = p.ways := rfl
@[simp] theorem setSlice_sramFlips (p : Plane) (i : Nat) (x : Slice) : (setSlice p i x).sramFlips = p.sramFlips := rfl
@[simp] theorem setSlice_cache (p : Plane) (i : Nat) (x : Slice) : (setSlice p i x).cache = p.cache := rfl
@[simp] theorem setSlice_descs (p : Plane) (i : Nat) (x : Slice) : (setSlice p i x).descs = p.descs := rfl
@[simp] theorem setSlice_dram (p : Plane) (i : Nat) (x : Slice) : (setSlice p i x).dram = p.dram := rfl
@[simp] theorem setSlice_chans (p : Plane) (i : Nat) (x : Slice) : (setSlice p i x).chans = p.chans := rfl
@[simp] theorem setSlice_evac (p : Plane) (i : Nat) (x : Slice) : (setSlice p i x).evac = p.evac := rfl
@[simp] theorem setSlice_remaps (p : Plane) (i : Nat) (x : Slice) : (setSlice p i x).remaps = p.remaps := rfl
@[simp] theorem setSlice_rowCopies (p : Plane) (i : Nat) (x : Slice) : (setSlice p i x).rowCopies = p.rowCopies := rfl
@[simp] theorem setSlice_insts (p : Plane) (i : Nat) (x : Slice) : (setSlice p i x).insts = p.insts := rfl
@[simp] theorem setSlice_binds (p : Plane) (i : Nat) (x : Slice) : (setSlice p i x).binds = p.binds := rfl
@[simp] theorem setSlice_windows (p : Plane) (i : Nat) (x : Slice) : (setSlice p i x).windows = p.windows := rfl
@[simp] theorem setSlice_regions (p : Plane) (i : Nat) (x : Slice) : (setSlice p i x).regions = p.regions := rfl
@[simp] theorem setSlice_dw (p : Plane) (i : Nat) (x : Slice) : (setSlice p i x).dw = p.dw := rfl
@[simp] theorem setSlice_ops (p : Plane) (i : Nat) (x : Slice) : (setSlice p i x).ops = p.ops := rfl
@[simp] theorem setSlice_nextOp (p : Plane) (i : Nat) (x : Slice) : (setSlice p i x).nextOp = p.nextOp := rfl
@[simp] theorem setSlice_evq (p : Plane) (i : Nat) (x : Slice) : (setSlice p i x).evq = p.evq := rfl
@[simp] theorem setSlice_holds (p : Plane) (i : Nat) (x : Slice) : (setSlice p i x).holds = p.holds := rfl
@[simp] theorem setSlice_evLost (p : Plane) (i : Nat) (x : Slice) : (setSlice p i x).evLost = p.evLost := rfl
@[simp] theorem setSlice_lostFlag (p : Plane) (i : Nat) (x : Slice) : (setSlice p i x).lostFlag = p.lostFlag := rfl
@[simp] theorem setSlice_counters (p : Plane) (i : Nat) (x : Slice) : (setSlice p i x).counters = p.counters := rfl
@[simp] theorem setSlice_hists (p : Plane) (i : Nat) (x : Slice) : (setSlice p i x).hists = p.hists := rfl
@[simp] theorem setSlice_samples (p : Plane) (i : Nat) (x : Slice) : (setSlice p i x).samples = p.samples := rfl
@[simp] theorem setSlice_dirCe (p : Plane) (i : Nat) (x : Slice) : (setSlice p i x).dirCe = p.dirCe := rfl
@[simp] theorem setSlice_dirUe (p : Plane) (i : Nat) (x : Slice) : (setSlice p i x).dirUe = p.dirUe := rfl
@[simp] theorem setSlice_rvFix (p : Plane) (i : Nat) (x : Slice) : (setSlice p i x).rvFix = p.rvFix := rfl
@[simp] theorem setSlice_dramHours (p : Plane) (i : Nat) (x : Slice) : (setSlice p i x).dramHours = p.dramHours := rfl
@[simp] theorem setSlice_sramHours (p : Plane) (i : Nat) (x : Slice) : (setSlice p i x).sramHours = p.sramHours := rfl
@[simp] theorem setSlice_sramPos (p : Plane) (i : Nat) (x : Slice) : (setSlice p i x).sramPos = p.sramPos := rfl
@[simp] theorem setSlice_sramPasses (p : Plane) (i : Nat) (x : Slice) : (setSlice p i x).sramPasses = p.sramPasses := rfl
@[simp] theorem setSlice_dramPasses (p : Plane) (i : Nat) (x : Slice) : (setSlice p i x).dramPasses = p.dramPasses := rfl
@[simp] theorem setSlice_flashWays (p : Plane) (i : Nat) (x : Slice) : (setSlice p i x).flashWays = p.flashWays := rfl
@[simp] theorem setSlice_flashRows (p : Plane) (i : Nat) (x : Slice) : (setSlice p i x).flashRows = p.flashRows := rfl
@[simp] theorem setSlice_flashEvac (p : Plane) (i : Nat) (x : Slice) : (setSlice p i x).flashEvac = p.flashEvac := rfl
@[simp] theorem setSlice_tapTime (p : Plane) (i : Nat) (x : Slice) : (setSlice p i x).tapTime = p.tapTime := rfl
@[simp] theorem setSlice_winSeq (p : Plane) (i : Nat) (x : Slice) : (setSlice p i x).winSeq = p.winSeq := rfl
@[simp] theorem setSlice_winStart (p : Plane) (i : Nat) (x : Slice) : (setSlice p i x).winStart = p.winStart := rfl
@[simp] theorem setSlice_winEnd (p : Plane) (i : Nat) (x : Slice) : (setSlice p i x).winEnd = p.winEnd := rfl
@[simp] theorem setSlice_taps (p : Plane) (i : Nat) (x : Slice) : (setSlice p i x).taps = p.taps := rfl
@[simp] theorem setSlice_frames (p : Plane) (i : Nat) (x : Slice) : (setSlice p i x).frames = p.frames := rfl
@[simp] theorem setSlice_gated (p : Plane) (i : Nat) (x : Slice) : (setSlice p i x).gated = p.gated := rfl
@[simp] theorem setSlice_joinHeld (p : Plane) (i : Nat) (x : Slice) : (setSlice p i x).joinHeld = p.joinHeld := rfl
@[simp] theorem setSlice_ended (p : Plane) (i : Nat) (x : Slice) : (setSlice p i x).ended = p.ended := rfl
@[simp] theorem setSlice_staleTags (p : Plane) (i : Nat) (x : Slice) : (setSlice p i x).staleTags = p.staleTags := rfl
@[simp] theorem setSlice_lats (p : Plane) (i : Nat) (x : Slice) : (setSlice p i x).lats = p.lats := rfl

/-! ### setInst -/
@[simp] theorem setInst_variant (p : Plane) (i : Nat) (x : Inst) : (setInst p i x).variant = p.variant := rfl
@[simp] theorem setInst_clock (p : Plane) (i : Nat) (x : Inst) : (setInst p i x).clock = p.clock := rfl
@[simp] theorem setInst_draw (p : Plane) (i : Nat) (x : Inst) : (setInst p i x).draw = p.draw := rfl
@[simp] theorem setInst_epoch (p : Plane) (i : Nat) (x : Inst) : (setInst p i x).epoch = p.epoch := rfl
@[simp] theorem setInst_inforce (p : Plane) (i : Nat) (x : Inst) : (setInst p i x).inforce = p.inforce := rfl
@[simp] theorem setInst_modes (p : Plane) (i : Nat) (x : Inst) : (setInst p i x).modes = p.modes := rfl
@[simp] theorem setInst_ports (p : Plane) (i : Nat) (x : Inst) : (setInst p i x).ports = p.ports := rfl
@[simp] theorem setInst_links (p : Plane) (i : Nat) (x : Inst) : (setInst p i x).links = p.links := rfl
@[simp] theorem setInst_tiles (p : Plane) (i : Nat) (x : Inst) : (setInst p i x).tiles = p.tiles := rfl
@[simp] theorem setInst_dir (p : Plane) (i : Nat) (x : Inst) : (setInst p i x).dir = p.dir := rfl
@[simp] theorem setInst_dirFlips (p : Plane) (i : Nat) (x : Inst) : (setInst p i x).dirFlips = p.dirFlips := rfl
@[simp] theorem setInst_jobs (p : Plane) (i : Nat) (x : Inst) : (setInst p i x).jobs = p.jobs := rfl
@[simp] theorem setInst_nextJob (p : Plane) (i : Nat) (x : Inst) : (setInst p i x).nextJob = p.nextJob := rfl
@[simp] theorem setInst_entries (p : Plane) (i : Nat) (x : Inst) : (setInst p i x).entries = p.entries := rfl
@[simp] theorem setInst_waits (p : Plane) (i : Nat) (x : Inst) : (setInst p i x).waits = p.waits := rfl
@[simp] theorem setInst_joinWait (p : Plane) (i : Nat) (x : Inst) : (setInst p i x).joinWait = p.joinWait := rfl
@[simp] theorem setInst_notices (p : Plane) (i : Nat) (x : Inst) : (setInst p i x).notices = p.notices := rfl
@[simp] theorem setInst_evHeld (p : Plane) (i : Nat) (x : Inst) : (setInst p i x).evHeld = p.evHeld := rfl
@[simp] theorem setInst_relBuf (p : Plane) (i : Nat) (x : Inst) : (setInst p i x).relBuf = p.relBuf := rfl
@[simp] theorem setInst_gathers (p : Plane) (i : Nat) (x : Inst) : (setInst p i x).gathers = p.gathers := rfl
@[simp] theorem setInst_nextGather (p : Plane) (i : Nat) (x : Inst) : (setInst p i x).nextGather = p.nextGather := rfl
@[simp] theorem setInst_rsvs (p : Plane) (i : Nat) (x : Inst) : (setInst p i x).rsvs = p.rsvs := rfl
@[simp] theorem setInst_ways (p : Plane) (i : Nat) (x : Inst) : (setInst p i x).ways = p.ways := rfl
@[simp] theorem setInst_sramFlips (p : Plane) (i : Nat) (x : Inst) : (setInst p i x).sramFlips = p.sramFlips := rfl
@[simp] theorem setInst_slices (p : Plane) (i : Nat) (x : Inst) : (setInst p i x).slices = p.slices := rfl
@[simp] theorem setInst_cache (p : Plane) (i : Nat) (x : Inst) : (setInst p i x).cache = p.cache := rfl
@[simp] theorem setInst_descs (p : Plane) (i : Nat) (x : Inst) : (setInst p i x).descs = p.descs := rfl
@[simp] theorem setInst_dram (p : Plane) (i : Nat) (x : Inst) : (setInst p i x).dram = p.dram := rfl
@[simp] theorem setInst_chans (p : Plane) (i : Nat) (x : Inst) : (setInst p i x).chans = p.chans := rfl
@[simp] theorem setInst_evac (p : Plane) (i : Nat) (x : Inst) : (setInst p i x).evac = p.evac := rfl
@[simp] theorem setInst_remaps (p : Plane) (i : Nat) (x : Inst) : (setInst p i x).remaps = p.remaps := rfl
@[simp] theorem setInst_rowCopies (p : Plane) (i : Nat) (x : Inst) : (setInst p i x).rowCopies = p.rowCopies := rfl
@[simp] theorem setInst_binds (p : Plane) (i : Nat) (x : Inst) : (setInst p i x).binds = p.binds := rfl
@[simp] theorem setInst_windows (p : Plane) (i : Nat) (x : Inst) : (setInst p i x).windows = p.windows := rfl
@[simp] theorem setInst_regions (p : Plane) (i : Nat) (x : Inst) : (setInst p i x).regions = p.regions := rfl
@[simp] theorem setInst_dw (p : Plane) (i : Nat) (x : Inst) : (setInst p i x).dw = p.dw := rfl
@[simp] theorem setInst_ops (p : Plane) (i : Nat) (x : Inst) : (setInst p i x).ops = p.ops := rfl
@[simp] theorem setInst_nextOp (p : Plane) (i : Nat) (x : Inst) : (setInst p i x).nextOp = p.nextOp := rfl
@[simp] theorem setInst_evq (p : Plane) (i : Nat) (x : Inst) : (setInst p i x).evq = p.evq := rfl
@[simp] theorem setInst_holds (p : Plane) (i : Nat) (x : Inst) : (setInst p i x).holds = p.holds := rfl
@[simp] theorem setInst_evLost (p : Plane) (i : Nat) (x : Inst) : (setInst p i x).evLost = p.evLost := rfl
@[simp] theorem setInst_lostFlag (p : Plane) (i : Nat) (x : Inst) : (setInst p i x).lostFlag = p.lostFlag := rfl
@[simp] theorem setInst_counters (p : Plane) (i : Nat) (x : Inst) : (setInst p i x).counters = p.counters := rfl
@[simp] theorem setInst_hists (p : Plane) (i : Nat) (x : Inst) : (setInst p i x).hists = p.hists := rfl
@[simp] theorem setInst_samples (p : Plane) (i : Nat) (x : Inst) : (setInst p i x).samples = p.samples := rfl
@[simp] theorem setInst_dirCe (p : Plane) (i : Nat) (x : Inst) : (setInst p i x).dirCe = p.dirCe := rfl
@[simp] theorem setInst_dirUe (p : Plane) (i : Nat) (x : Inst) : (setInst p i x).dirUe = p.dirUe := rfl
@[simp] theorem setInst_rvFix (p : Plane) (i : Nat) (x : Inst) : (setInst p i x).rvFix = p.rvFix := rfl
@[simp] theorem setInst_dramHours (p : Plane) (i : Nat) (x : Inst) : (setInst p i x).dramHours = p.dramHours := rfl
@[simp] theorem setInst_sramHours (p : Plane) (i : Nat) (x : Inst) : (setInst p i x).sramHours = p.sramHours := rfl
@[simp] theorem setInst_sramPos (p : Plane) (i : Nat) (x : Inst) : (setInst p i x).sramPos = p.sramPos := rfl
@[simp] theorem setInst_sramPasses (p : Plane) (i : Nat) (x : Inst) : (setInst p i x).sramPasses = p.sramPasses := rfl
@[simp] theorem setInst_dramPasses (p : Plane) (i : Nat) (x : Inst) : (setInst p i x).dramPasses = p.dramPasses := rfl
@[simp] theorem setInst_flashWays (p : Plane) (i : Nat) (x : Inst) : (setInst p i x).flashWays = p.flashWays := rfl
@[simp] theorem setInst_flashRows (p : Plane) (i : Nat) (x : Inst) : (setInst p i x).flashRows = p.flashRows := rfl
@[simp] theorem setInst_flashEvac (p : Plane) (i : Nat) (x : Inst) : (setInst p i x).flashEvac = p.flashEvac := rfl
@[simp] theorem setInst_tapTime (p : Plane) (i : Nat) (x : Inst) : (setInst p i x).tapTime = p.tapTime := rfl
@[simp] theorem setInst_winSeq (p : Plane) (i : Nat) (x : Inst) : (setInst p i x).winSeq = p.winSeq := rfl
@[simp] theorem setInst_winStart (p : Plane) (i : Nat) (x : Inst) : (setInst p i x).winStart = p.winStart := rfl
@[simp] theorem setInst_winEnd (p : Plane) (i : Nat) (x : Inst) : (setInst p i x).winEnd = p.winEnd := rfl
@[simp] theorem setInst_taps (p : Plane) (i : Nat) (x : Inst) : (setInst p i x).taps = p.taps := rfl
@[simp] theorem setInst_frames (p : Plane) (i : Nat) (x : Inst) : (setInst p i x).frames = p.frames := rfl
@[simp] theorem setInst_gated (p : Plane) (i : Nat) (x : Inst) : (setInst p i x).gated = p.gated := rfl
@[simp] theorem setInst_joinHeld (p : Plane) (i : Nat) (x : Inst) : (setInst p i x).joinHeld = p.joinHeld := rfl
@[simp] theorem setInst_ended (p : Plane) (i : Nat) (x : Inst) : (setInst p i x).ended = p.ended := rfl
@[simp] theorem setInst_staleTags (p : Plane) (i : Nat) (x : Inst) : (setInst p i x).staleTags = p.staleTags := rfl
@[simp] theorem setInst_lats (p : Plane) (i : Nat) (x : Inst) : (setInst p i x).lats = p.lats := rfl

/-! ### setEvac -/
@[simp] theorem setEvac_variant (p : Plane) (i : Nat) (x : Evac) : (setEvac p i x).variant = p.variant := rfl
@[simp] theorem setEvac_clock (p : Plane) (i : Nat) (x : Evac) : (setEvac p i x).clock = p.clock := rfl
@[simp] theorem setEvac_draw (p : Plane) (i : Nat) (x : Evac) : (setEvac p i x).draw = p.draw := rfl
@[simp] theorem setEvac_epoch (p : Plane) (i : Nat) (x : Evac) : (setEvac p i x).epoch = p.epoch := rfl
@[simp] theorem setEvac_inforce (p : Plane) (i : Nat) (x : Evac) : (setEvac p i x).inforce = p.inforce := rfl
@[simp] theorem setEvac_modes (p : Plane) (i : Nat) (x : Evac) : (setEvac p i x).modes = p.modes := rfl
@[simp] theorem setEvac_ports (p : Plane) (i : Nat) (x : Evac) : (setEvac p i x).ports = p.ports := rfl
@[simp] theorem setEvac_links (p : Plane) (i : Nat) (x : Evac) : (setEvac p i x).links = p.links := rfl
@[simp] theorem setEvac_tiles (p : Plane) (i : Nat) (x : Evac) : (setEvac p i x).tiles = p.tiles := rfl
@[simp] theorem setEvac_dir (p : Plane) (i : Nat) (x : Evac) : (setEvac p i x).dir = p.dir := rfl
@[simp] theorem setEvac_dirFlips (p : Plane) (i : Nat) (x : Evac) : (setEvac p i x).dirFlips = p.dirFlips := rfl
@[simp] theorem setEvac_jobs (p : Plane) (i : Nat) (x : Evac) : (setEvac p i x).jobs = p.jobs := rfl
@[simp] theorem setEvac_nextJob (p : Plane) (i : Nat) (x : Evac) : (setEvac p i x).nextJob = p.nextJob := rfl
@[simp] theorem setEvac_entries (p : Plane) (i : Nat) (x : Evac) : (setEvac p i x).entries = p.entries := rfl
@[simp] theorem setEvac_waits (p : Plane) (i : Nat) (x : Evac) : (setEvac p i x).waits = p.waits := rfl
@[simp] theorem setEvac_joinWait (p : Plane) (i : Nat) (x : Evac) : (setEvac p i x).joinWait = p.joinWait := rfl
@[simp] theorem setEvac_notices (p : Plane) (i : Nat) (x : Evac) : (setEvac p i x).notices = p.notices := rfl
@[simp] theorem setEvac_evHeld (p : Plane) (i : Nat) (x : Evac) : (setEvac p i x).evHeld = p.evHeld := rfl
@[simp] theorem setEvac_relBuf (p : Plane) (i : Nat) (x : Evac) : (setEvac p i x).relBuf = p.relBuf := rfl
@[simp] theorem setEvac_gathers (p : Plane) (i : Nat) (x : Evac) : (setEvac p i x).gathers = p.gathers := rfl
@[simp] theorem setEvac_nextGather (p : Plane) (i : Nat) (x : Evac) : (setEvac p i x).nextGather = p.nextGather := rfl
@[simp] theorem setEvac_rsvs (p : Plane) (i : Nat) (x : Evac) : (setEvac p i x).rsvs = p.rsvs := rfl
@[simp] theorem setEvac_ways (p : Plane) (i : Nat) (x : Evac) : (setEvac p i x).ways = p.ways := rfl
@[simp] theorem setEvac_sramFlips (p : Plane) (i : Nat) (x : Evac) : (setEvac p i x).sramFlips = p.sramFlips := rfl
@[simp] theorem setEvac_slices (p : Plane) (i : Nat) (x : Evac) : (setEvac p i x).slices = p.slices := rfl
@[simp] theorem setEvac_cache (p : Plane) (i : Nat) (x : Evac) : (setEvac p i x).cache = p.cache := rfl
@[simp] theorem setEvac_descs (p : Plane) (i : Nat) (x : Evac) : (setEvac p i x).descs = p.descs := rfl
@[simp] theorem setEvac_dram (p : Plane) (i : Nat) (x : Evac) : (setEvac p i x).dram = p.dram := rfl
@[simp] theorem setEvac_chans (p : Plane) (i : Nat) (x : Evac) : (setEvac p i x).chans = p.chans := rfl
@[simp] theorem setEvac_remaps (p : Plane) (i : Nat) (x : Evac) : (setEvac p i x).remaps = p.remaps := rfl
@[simp] theorem setEvac_rowCopies (p : Plane) (i : Nat) (x : Evac) : (setEvac p i x).rowCopies = p.rowCopies := rfl
@[simp] theorem setEvac_insts (p : Plane) (i : Nat) (x : Evac) : (setEvac p i x).insts = p.insts := rfl
@[simp] theorem setEvac_binds (p : Plane) (i : Nat) (x : Evac) : (setEvac p i x).binds = p.binds := rfl
@[simp] theorem setEvac_windows (p : Plane) (i : Nat) (x : Evac) : (setEvac p i x).windows = p.windows := rfl
@[simp] theorem setEvac_regions (p : Plane) (i : Nat) (x : Evac) : (setEvac p i x).regions = p.regions := rfl
@[simp] theorem setEvac_dw (p : Plane) (i : Nat) (x : Evac) : (setEvac p i x).dw = p.dw := rfl
@[simp] theorem setEvac_ops (p : Plane) (i : Nat) (x : Evac) : (setEvac p i x).ops = p.ops := rfl
@[simp] theorem setEvac_nextOp (p : Plane) (i : Nat) (x : Evac) : (setEvac p i x).nextOp = p.nextOp := rfl
@[simp] theorem setEvac_evq (p : Plane) (i : Nat) (x : Evac) : (setEvac p i x).evq = p.evq := rfl
@[simp] theorem setEvac_holds (p : Plane) (i : Nat) (x : Evac) : (setEvac p i x).holds = p.holds := rfl
@[simp] theorem setEvac_evLost (p : Plane) (i : Nat) (x : Evac) : (setEvac p i x).evLost = p.evLost := rfl
@[simp] theorem setEvac_lostFlag (p : Plane) (i : Nat) (x : Evac) : (setEvac p i x).lostFlag = p.lostFlag := rfl
@[simp] theorem setEvac_counters (p : Plane) (i : Nat) (x : Evac) : (setEvac p i x).counters = p.counters := rfl
@[simp] theorem setEvac_hists (p : Plane) (i : Nat) (x : Evac) : (setEvac p i x).hists = p.hists := rfl
@[simp] theorem setEvac_samples (p : Plane) (i : Nat) (x : Evac) : (setEvac p i x).samples = p.samples := rfl
@[simp] theorem setEvac_dirCe (p : Plane) (i : Nat) (x : Evac) : (setEvac p i x).dirCe = p.dirCe := rfl
@[simp] theorem setEvac_dirUe (p : Plane) (i : Nat) (x : Evac) : (setEvac p i x).dirUe = p.dirUe := rfl
@[simp] theorem setEvac_rvFix (p : Plane) (i : Nat) (x : Evac) : (setEvac p i x).rvFix = p.rvFix := rfl
@[simp] theorem setEvac_dramHours (p : Plane) (i : Nat) (x : Evac) : (setEvac p i x).dramHours = p.dramHours := rfl
@[simp] theorem setEvac_sramHours (p : Plane) (i : Nat) (x : Evac) : (setEvac p i x).sramHours = p.sramHours := rfl
@[simp] theorem setEvac_sramPos (p : Plane) (i : Nat) (x : Evac) : (setEvac p i x).sramPos = p.sramPos := rfl
@[simp] theorem setEvac_sramPasses (p : Plane) (i : Nat) (x : Evac) : (setEvac p i x).sramPasses = p.sramPasses := rfl
@[simp] theorem setEvac_dramPasses (p : Plane) (i : Nat) (x : Evac) : (setEvac p i x).dramPasses = p.dramPasses := rfl
@[simp] theorem setEvac_flashWays (p : Plane) (i : Nat) (x : Evac) : (setEvac p i x).flashWays = p.flashWays := rfl
@[simp] theorem setEvac_flashRows (p : Plane) (i : Nat) (x : Evac) : (setEvac p i x).flashRows = p.flashRows := rfl
@[simp] theorem setEvac_flashEvac (p : Plane) (i : Nat) (x : Evac) : (setEvac p i x).flashEvac = p.flashEvac := rfl
@[simp] theorem setEvac_tapTime (p : Plane) (i : Nat) (x : Evac) : (setEvac p i x).tapTime = p.tapTime := rfl
@[simp] theorem setEvac_winSeq (p : Plane) (i : Nat) (x : Evac) : (setEvac p i x).winSeq = p.winSeq := rfl
@[simp] theorem setEvac_winStart (p : Plane) (i : Nat) (x : Evac) : (setEvac p i x).winStart = p.winStart := rfl
@[simp] theorem setEvac_winEnd (p : Plane) (i : Nat) (x : Evac) : (setEvac p i x).winEnd = p.winEnd := rfl
@[simp] theorem setEvac_taps (p : Plane) (i : Nat) (x : Evac) : (setEvac p i x).taps = p.taps := rfl
@[simp] theorem setEvac_frames (p : Plane) (i : Nat) (x : Evac) : (setEvac p i x).frames = p.frames := rfl
@[simp] theorem setEvac_gated (p : Plane) (i : Nat) (x : Evac) : (setEvac p i x).gated = p.gated := rfl
@[simp] theorem setEvac_joinHeld (p : Plane) (i : Nat) (x : Evac) : (setEvac p i x).joinHeld = p.joinHeld := rfl
@[simp] theorem setEvac_ended (p : Plane) (i : Nat) (x : Evac) : (setEvac p i x).ended = p.ended := rfl
@[simp] theorem setEvac_staleTags (p : Plane) (i : Nat) (x : Evac) : (setEvac p i x).staleTags = p.staleTags := rfl
@[simp] theorem setEvac_lats (p : Plane) (i : Nat) (x : Evac) : (setEvac p i x).lats = p.lats := rfl

/-! ### setEntry -/
@[simp] theorem setEntry_variant (p : Plane) (n : Nat) (e : Entry) : (setEntry p n e).variant = p.variant := rfl
@[simp] theorem setEntry_clock (p : Plane) (n : Nat) (e : Entry) : (setEntry p n e).clock = p.clock := rfl
@[simp] theorem setEntry_draw (p : Plane) (n : Nat) (e : Entry) : (setEntry p n e).draw = p.draw := rfl
@[simp] theorem setEntry_epoch (p : Plane) (n : Nat) (e : Entry) : (setEntry p n e).epoch = p.epoch := rfl
@[simp] theorem setEntry_inforce (p : Plane) (n : Nat) (e : Entry) : (setEntry p n e).inforce = p.inforce := rfl
@[simp] theorem setEntry_modes (p : Plane) (n : Nat) (e : Entry) : (setEntry p n e).modes = p.modes := rfl
@[simp] theorem setEntry_ports (p : Plane) (n : Nat) (e : Entry) : (setEntry p n e).ports = p.ports := rfl
@[simp] theorem setEntry_links (p : Plane) (n : Nat) (e : Entry) : (setEntry p n e).links = p.links := rfl
@[simp] theorem setEntry_tiles (p : Plane) (n : Nat) (e : Entry) : (setEntry p n e).tiles = p.tiles := rfl
@[simp] theorem setEntry_dir (p : Plane) (n : Nat) (e : Entry) : (setEntry p n e).dir = p.dir := rfl
@[simp] theorem setEntry_dirFlips (p : Plane) (n : Nat) (e : Entry) : (setEntry p n e).dirFlips = p.dirFlips := rfl
@[simp] theorem setEntry_jobs (p : Plane) (n : Nat) (e : Entry) : (setEntry p n e).jobs = p.jobs := rfl
@[simp] theorem setEntry_nextJob (p : Plane) (n : Nat) (e : Entry) : (setEntry p n e).nextJob = p.nextJob := rfl
@[simp] theorem setEntry_waits (p : Plane) (n : Nat) (e : Entry) : (setEntry p n e).waits = p.waits := rfl
@[simp] theorem setEntry_joinWait (p : Plane) (n : Nat) (e : Entry) : (setEntry p n e).joinWait = p.joinWait := rfl
@[simp] theorem setEntry_notices (p : Plane) (n : Nat) (e : Entry) : (setEntry p n e).notices = p.notices := rfl
@[simp] theorem setEntry_evHeld (p : Plane) (n : Nat) (e : Entry) : (setEntry p n e).evHeld = p.evHeld := rfl
@[simp] theorem setEntry_relBuf (p : Plane) (n : Nat) (e : Entry) : (setEntry p n e).relBuf = p.relBuf := rfl
@[simp] theorem setEntry_gathers (p : Plane) (n : Nat) (e : Entry) : (setEntry p n e).gathers = p.gathers := rfl
@[simp] theorem setEntry_nextGather (p : Plane) (n : Nat) (e : Entry) : (setEntry p n e).nextGather = p.nextGather := rfl
@[simp] theorem setEntry_rsvs (p : Plane) (n : Nat) (e : Entry) : (setEntry p n e).rsvs = p.rsvs := rfl
@[simp] theorem setEntry_ways (p : Plane) (n : Nat) (e : Entry) : (setEntry p n e).ways = p.ways := rfl
@[simp] theorem setEntry_sramFlips (p : Plane) (n : Nat) (e : Entry) : (setEntry p n e).sramFlips = p.sramFlips := rfl
@[simp] theorem setEntry_slices (p : Plane) (n : Nat) (e : Entry) : (setEntry p n e).slices = p.slices := rfl
@[simp] theorem setEntry_cache (p : Plane) (n : Nat) (e : Entry) : (setEntry p n e).cache = p.cache := rfl
@[simp] theorem setEntry_descs (p : Plane) (n : Nat) (e : Entry) : (setEntry p n e).descs = p.descs := rfl
@[simp] theorem setEntry_dram (p : Plane) (n : Nat) (e : Entry) : (setEntry p n e).dram = p.dram := rfl
@[simp] theorem setEntry_chans (p : Plane) (n : Nat) (e : Entry) : (setEntry p n e).chans = p.chans := rfl
@[simp] theorem setEntry_evac (p : Plane) (n : Nat) (e : Entry) : (setEntry p n e).evac = p.evac := rfl
@[simp] theorem setEntry_remaps (p : Plane) (n : Nat) (e : Entry) : (setEntry p n e).remaps = p.remaps := rfl
@[simp] theorem setEntry_rowCopies (p : Plane) (n : Nat) (e : Entry) : (setEntry p n e).rowCopies = p.rowCopies := rfl
@[simp] theorem setEntry_insts (p : Plane) (n : Nat) (e : Entry) : (setEntry p n e).insts = p.insts := rfl
@[simp] theorem setEntry_binds (p : Plane) (n : Nat) (e : Entry) : (setEntry p n e).binds = p.binds := rfl
@[simp] theorem setEntry_windows (p : Plane) (n : Nat) (e : Entry) : (setEntry p n e).windows = p.windows := rfl
@[simp] theorem setEntry_regions (p : Plane) (n : Nat) (e : Entry) : (setEntry p n e).regions = p.regions := rfl
@[simp] theorem setEntry_dw (p : Plane) (n : Nat) (e : Entry) : (setEntry p n e).dw = p.dw := rfl
@[simp] theorem setEntry_ops (p : Plane) (n : Nat) (e : Entry) : (setEntry p n e).ops = p.ops := rfl
@[simp] theorem setEntry_nextOp (p : Plane) (n : Nat) (e : Entry) : (setEntry p n e).nextOp = p.nextOp := rfl
@[simp] theorem setEntry_evq (p : Plane) (n : Nat) (e : Entry) : (setEntry p n e).evq = p.evq := rfl
@[simp] theorem setEntry_holds (p : Plane) (n : Nat) (e : Entry) : (setEntry p n e).holds = p.holds := rfl
@[simp] theorem setEntry_evLost (p : Plane) (n : Nat) (e : Entry) : (setEntry p n e).evLost = p.evLost := rfl
@[simp] theorem setEntry_lostFlag (p : Plane) (n : Nat) (e : Entry) : (setEntry p n e).lostFlag = p.lostFlag := rfl
@[simp] theorem setEntry_counters (p : Plane) (n : Nat) (e : Entry) : (setEntry p n e).counters = p.counters := rfl
@[simp] theorem setEntry_hists (p : Plane) (n : Nat) (e : Entry) : (setEntry p n e).hists = p.hists := rfl
@[simp] theorem setEntry_samples (p : Plane) (n : Nat) (e : Entry) : (setEntry p n e).samples = p.samples := rfl
@[simp] theorem setEntry_dirCe (p : Plane) (n : Nat) (e : Entry) : (setEntry p n e).dirCe = p.dirCe := rfl
@[simp] theorem setEntry_dirUe (p : Plane) (n : Nat) (e : Entry) : (setEntry p n e).dirUe = p.dirUe := rfl
@[simp] theorem setEntry_rvFix (p : Plane) (n : Nat) (e : Entry) : (setEntry p n e).rvFix = p.rvFix := rfl
@[simp] theorem setEntry_dramHours (p : Plane) (n : Nat) (e : Entry) : (setEntry p n e).dramHours = p.dramHours := rfl
@[simp] theorem setEntry_sramHours (p : Plane) (n : Nat) (e : Entry) : (setEntry p n e).sramHours = p.sramHours := rfl
@[simp] theorem setEntry_sramPos (p : Plane) (n : Nat) (e : Entry) : (setEntry p n e).sramPos = p.sramPos := rfl
@[simp] theorem setEntry_sramPasses (p : Plane) (n : Nat) (e : Entry) : (setEntry p n e).sramPasses = p.sramPasses := rfl
@[simp] theorem setEntry_dramPasses (p : Plane) (n : Nat) (e : Entry) : (setEntry p n e).dramPasses = p.dramPasses := rfl
@[simp] theorem setEntry_flashWays (p : Plane) (n : Nat) (e : Entry) : (setEntry p n e).flashWays = p.flashWays := rfl
@[simp] theorem setEntry_flashRows (p : Plane) (n : Nat) (e : Entry) : (setEntry p n e).flashRows = p.flashRows := rfl
@[simp] theorem setEntry_flashEvac (p : Plane) (n : Nat) (e : Entry) : (setEntry p n e).flashEvac = p.flashEvac := rfl
@[simp] theorem setEntry_tapTime (p : Plane) (n : Nat) (e : Entry) : (setEntry p n e).tapTime = p.tapTime := rfl
@[simp] theorem setEntry_winSeq (p : Plane) (n : Nat) (e : Entry) : (setEntry p n e).winSeq = p.winSeq := rfl
@[simp] theorem setEntry_winStart (p : Plane) (n : Nat) (e : Entry) : (setEntry p n e).winStart = p.winStart := rfl
@[simp] theorem setEntry_winEnd (p : Plane) (n : Nat) (e : Entry) : (setEntry p n e).winEnd = p.winEnd := rfl
@[simp] theorem setEntry_taps (p : Plane) (n : Nat) (e : Entry) : (setEntry p n e).taps = p.taps := rfl
@[simp] theorem setEntry_frames (p : Plane) (n : Nat) (e : Entry) : (setEntry p n e).frames = p.frames := rfl
@[simp] theorem setEntry_gated (p : Plane) (n : Nat) (e : Entry) : (setEntry p n e).gated = p.gated := rfl
@[simp] theorem setEntry_joinHeld (p : Plane) (n : Nat) (e : Entry) : (setEntry p n e).joinHeld = p.joinHeld := rfl
@[simp] theorem setEntry_ended (p : Plane) (n : Nat) (e : Entry) : (setEntry p n e).ended = p.ended := rfl
@[simp] theorem setEntry_staleTags (p : Plane) (n : Nat) (e : Entry) : (setEntry p n e).staleTags = p.staleTags := rfl
@[simp] theorem setEntry_lats (p : Plane) (n : Nat) (e : Entry) : (setEntry p n e).lats = p.lats := rfl

/-! ### dropEntry -/
@[simp] theorem dropEntry_variant (p : Plane) (n : Nat) : (dropEntry p n).variant = p.variant := rfl
@[simp] theorem dropEntry_clock (p : Plane) (n : Nat) : (dropEntry p n).clock = p.clock := rfl
@[simp] theorem dropEntry_draw (p : Plane) (n : Nat) : (dropEntry p n).draw = p.draw := rfl
@[simp] theorem dropEntry_epoch (p : Plane) (n : Nat) : (dropEntry p n).epoch = p.epoch := rfl
@[simp] theorem dropEntry_inforce (p : Plane) (n : Nat) : (dropEntry p n).inforce = p.inforce := rfl
@[simp] theorem dropEntry_modes (p : Plane) (n : Nat) : (dropEntry p n).modes = p.modes := rfl
@[simp] theorem dropEntry_ports (p : Plane) (n : Nat) : (dropEntry p n).ports = p.ports := rfl
@[simp] theorem dropEntry_links (p : Plane) (n : Nat) : (dropEntry p n).links = p.links := rfl
@[simp] theorem dropEntry_tiles (p : Plane) (n : Nat) : (dropEntry p n).tiles = p.tiles := rfl
@[simp] theorem dropEntry_dir (p : Plane) (n : Nat) : (dropEntry p n).dir = p.dir := rfl
@[simp] theorem dropEntry_dirFlips (p : Plane) (n : Nat) : (dropEntry p n).dirFlips = p.dirFlips := rfl
@[simp] theorem dropEntry_jobs (p : Plane) (n : Nat) : (dropEntry p n).jobs = p.jobs := rfl
@[simp] theorem dropEntry_nextJob (p : Plane) (n : Nat) : (dropEntry p n).nextJob = p.nextJob := rfl
@[simp] theorem dropEntry_waits (p : Plane) (n : Nat) : (dropEntry p n).waits = p.waits := rfl
@[simp] theorem dropEntry_joinWait (p : Plane) (n : Nat) : (dropEntry p n).joinWait = p.joinWait := rfl
@[simp] theorem dropEntry_notices (p : Plane) (n : Nat) : (dropEntry p n).notices = p.notices := rfl
@[simp] theorem dropEntry_evHeld (p : Plane) (n : Nat) : (dropEntry p n).evHeld = p.evHeld := rfl
@[simp] theorem dropEntry_relBuf (p : Plane) (n : Nat) : (dropEntry p n).relBuf = p.relBuf := rfl
@[simp] theorem dropEntry_gathers (p : Plane) (n : Nat) : (dropEntry p n).gathers = p.gathers := rfl
@[simp] theorem dropEntry_nextGather (p : Plane) (n : Nat) : (dropEntry p n).nextGather = p.nextGather := rfl
@[simp] theorem dropEntry_rsvs (p : Plane) (n : Nat) : (dropEntry p n).rsvs = p.rsvs := rfl
@[simp] theorem dropEntry_ways (p : Plane) (n : Nat) : (dropEntry p n).ways = p.ways := rfl
@[simp] theorem dropEntry_sramFlips (p : Plane) (n : Nat) : (dropEntry p n).sramFlips = p.sramFlips := rfl
@[simp] theorem dropEntry_slices (p : Plane) (n : Nat) : (dropEntry p n).slices = p.slices := rfl
@[simp] theorem dropEntry_cache (p : Plane) (n : Nat) : (dropEntry p n).cache = p.cache := rfl
@[simp] theorem dropEntry_descs (p : Plane) (n : Nat) : (dropEntry p n).descs = p.descs := rfl
@[simp] theorem dropEntry_dram (p : Plane) (n : Nat) : (dropEntry p n).dram = p.dram := rfl
@[simp] theorem dropEntry_chans (p : Plane) (n : Nat) : (dropEntry p n).chans = p.chans := rfl
@[simp] theorem dropEntry_evac (p : Plane) (n : Nat) : (dropEntry p n).evac = p.evac := rfl
@[simp] theorem dropEntry_remaps (p : Plane) (n : Nat) : (dropEntry p n).remaps = p.remaps := rfl
@[simp] theorem dropEntry_rowCopies (p : Plane) (n : Nat) : (dropEntry p n).rowCopies = p.rowCopies := rfl
@[simp] theorem dropEntry_insts (p : Plane) (n : Nat) : (dropEntry p n).insts = p.insts := rfl
@[simp] theorem dropEntry_binds (p : Plane) (n : Nat) : (dropEntry p n).binds = p.binds := rfl
@[simp] theorem dropEntry_windows (p : Plane) (n : Nat) : (dropEntry p n).windows = p.windows := rfl
@[simp] theorem dropEntry_regions (p : Plane) (n : Nat) : (dropEntry p n).regions = p.regions := rfl
@[simp] theorem dropEntry_dw (p : Plane) (n : Nat) : (dropEntry p n).dw = p.dw := rfl
@[simp] theorem dropEntry_ops (p : Plane) (n : Nat) : (dropEntry p n).ops = p.ops := rfl
@[simp] theorem dropEntry_nextOp (p : Plane) (n : Nat) : (dropEntry p n).nextOp = p.nextOp := rfl
@[simp] theorem dropEntry_evq (p : Plane) (n : Nat) : (dropEntry p n).evq = p.evq := rfl
@[simp] theorem dropEntry_holds (p : Plane) (n : Nat) : (dropEntry p n).holds = p.holds := rfl
@[simp] theorem dropEntry_evLost (p : Plane) (n : Nat) : (dropEntry p n).evLost = p.evLost := rfl
@[simp] theorem dropEntry_lostFlag (p : Plane) (n : Nat) : (dropEntry p n).lostFlag = p.lostFlag := rfl
@[simp] theorem dropEntry_counters (p : Plane) (n : Nat) : (dropEntry p n).counters = p.counters := rfl
@[simp] theorem dropEntry_hists (p : Plane) (n : Nat) : (dropEntry p n).hists = p.hists := rfl
@[simp] theorem dropEntry_samples (p : Plane) (n : Nat) : (dropEntry p n).samples = p.samples := rfl
@[simp] theorem dropEntry_dirCe (p : Plane) (n : Nat) : (dropEntry p n).dirCe = p.dirCe := rfl
@[simp] theorem dropEntry_dirUe (p : Plane) (n : Nat) : (dropEntry p n).dirUe = p.dirUe := rfl
@[simp] theorem dropEntry_rvFix (p : Plane) (n : Nat) : (dropEntry p n).rvFix = p.rvFix := rfl
@[simp] theorem dropEntry_dramHours (p : Plane) (n : Nat) : (dropEntry p n).dramHours = p.dramHours := rfl
@[simp] theorem dropEntry_sramHours (p : Plane) (n : Nat) : (dropEntry p n).sramHours = p.sramHours := rfl
@[simp] theorem dropEntry_sramPos (p : Plane) (n : Nat) : (dropEntry p n).sramPos = p.sramPos := rfl
@[simp] theorem dropEntry_sramPasses (p : Plane) (n : Nat) : (dropEntry p n).sramPasses = p.sramPasses := rfl
@[simp] theorem dropEntry_dramPasses (p : Plane) (n : Nat) : (dropEntry p n).dramPasses = p.dramPasses := rfl
@[simp] theorem dropEntry_flashWays (p : Plane) (n : Nat) : (dropEntry p n).flashWays = p.flashWays := rfl
@[simp] theorem dropEntry_flashRows (p : Plane) (n : Nat) : (dropEntry p n).flashRows = p.flashRows := rfl
@[simp] theorem dropEntry_flashEvac (p : Plane) (n : Nat) : (dropEntry p n).flashEvac = p.flashEvac := rfl
@[simp] theorem dropEntry_tapTime (p : Plane) (n : Nat) : (dropEntry p n).tapTime = p.tapTime := rfl
@[simp] theorem dropEntry_winSeq (p : Plane) (n : Nat) : (dropEntry p n).winSeq = p.winSeq := rfl
@[simp] theorem dropEntry_winStart (p : Plane) (n : Nat) : (dropEntry p n).winStart = p.winStart := rfl
@[simp] theorem dropEntry_winEnd (p : Plane) (n : Nat) : (dropEntry p n).winEnd = p.winEnd := rfl
@[simp] theorem dropEntry_taps (p : Plane) (n : Nat) : (dropEntry p n).taps = p.taps := rfl
@[simp] theorem dropEntry_frames (p : Plane) (n : Nat) : (dropEntry p n).frames = p.frames := rfl
@[simp] theorem dropEntry_gated (p : Plane) (n : Nat) : (dropEntry p n).gated = p.gated := rfl
@[simp] theorem dropEntry_joinHeld (p : Plane) (n : Nat) : (dropEntry p n).joinHeld = p.joinHeld := rfl
@[simp] theorem dropEntry_ended (p : Plane) (n : Nat) : (dropEntry p n).ended = p.ended := rfl
@[simp] theorem dropEntry_staleTags (p : Plane) (n : Nat) : (dropEntry p n).staleTags = p.staleTags := rfl
@[simp] theorem dropEntry_lats (p : Plane) (n : Nat) : (dropEntry p n).lats = p.lats := rfl

/-! ### setJob -/
@[simp] theorem setJob_variant (p : Plane) (j : Job) : (setJob p j).variant = p.variant := rfl
@[simp] theorem setJob_clock (p : Plane) (j : Job) : (setJob p j).clock = p.clock := rfl
@[simp] theorem setJob_draw (p : Plane) (j : Job) : (setJob p j).draw = p.draw := rfl
@[simp] theorem setJob_epoch (p : Plane) (j : Job) : (setJob p j).epoch = p.epoch := rfl
@[simp] theorem setJob_inforce (p : Plane) (j : Job) : (setJob p j).inforce = p.inforce := rfl
@[simp] theorem setJob_modes (p : Plane) (j : Job) : (setJob p j).modes = p.modes := rfl
@[simp] theorem setJob_ports (p : Plane) (j : Job) : (setJob p j).ports = p.ports := rfl
@[simp] theorem setJob_links (p : Plane) (j : Job) : (setJob p j).links = p.links := rfl
@[simp] theorem setJob_tiles (p : Plane) (j : Job) : (setJob p j).tiles = p.tiles := rfl
@[simp] theorem setJob_dir (p : Plane) (j : Job) : (setJob p j).dir = p.dir := rfl
@[simp] theorem setJob_dirFlips (p : Plane) (j : Job) : (setJob p j).dirFlips = p.dirFlips := rfl
@[simp] theorem setJob_nextJob (p : Plane) (j : Job) : (setJob p j).nextJob = p.nextJob := rfl
@[simp] theorem setJob_entries (p : Plane) (j : Job) : (setJob p j).entries = p.entries := rfl
@[simp] theorem setJob_waits (p : Plane) (j : Job) : (setJob p j).waits = p.waits := rfl
@[simp] theorem setJob_joinWait (p : Plane) (j : Job) : (setJob p j).joinWait = p.joinWait := rfl
@[simp] theorem setJob_notices (p : Plane) (j : Job) : (setJob p j).notices = p.notices := rfl
@[simp] theorem setJob_evHeld (p : Plane) (j : Job) : (setJob p j).evHeld = p.evHeld := rfl
@[simp] theorem setJob_relBuf (p : Plane) (j : Job) : (setJob p j).relBuf = p.relBuf := rfl
@[simp] theorem setJob_gathers (p : Plane) (j : Job) : (setJob p j).gathers = p.gathers := rfl
@[simp] theorem setJob_nextGather (p : Plane) (j : Job) : (setJob p j).nextGather = p.nextGather := rfl
@[simp] theorem setJob_rsvs (p : Plane) (j : Job) : (setJob p j).rsvs = p.rsvs := rfl
@[simp] theorem setJob_ways (p : Plane) (j : Job) : (setJob p j).ways = p.ways := rfl
@[simp] theorem setJob_sramFlips (p : Plane) (j : Job) : (setJob p j).sramFlips = p.sramFlips := rfl
@[simp] theorem setJob_slices (p : Plane) (j : Job) : (setJob p j).slices = p.slices := rfl
@[simp] theorem setJob_cache (p : Plane) (j : Job) : (setJob p j).cache = p.cache := rfl
@[simp] theorem setJob_descs (p : Plane) (j : Job) : (setJob p j).descs = p.descs := rfl
@[simp] theorem setJob_dram (p : Plane) (j : Job) : (setJob p j).dram = p.dram := rfl
@[simp] theorem setJob_chans (p : Plane) (j : Job) : (setJob p j).chans = p.chans := rfl
@[simp] theorem setJob_evac (p : Plane) (j : Job) : (setJob p j).evac = p.evac := rfl
@[simp] theorem setJob_remaps (p : Plane) (j : Job) : (setJob p j).remaps = p.remaps := rfl
@[simp] theorem setJob_rowCopies (p : Plane) (j : Job) : (setJob p j).rowCopies = p.rowCopies := rfl
@[simp] theorem setJob_insts (p : Plane) (j : Job) : (setJob p j).insts = p.insts := rfl
@[simp] theorem setJob_binds (p : Plane) (j : Job) : (setJob p j).binds = p.binds := rfl
@[simp] theorem setJob_windows (p : Plane) (j : Job) : (setJob p j).windows = p.windows := rfl
@[simp] theorem setJob_regions (p : Plane) (j : Job) : (setJob p j).regions = p.regions := rfl
@[simp] theorem setJob_dw (p : Plane) (j : Job) : (setJob p j).dw = p.dw := rfl
@[simp] theorem setJob_ops (p : Plane) (j : Job) : (setJob p j).ops = p.ops := rfl
@[simp] theorem setJob_nextOp (p : Plane) (j : Job) : (setJob p j).nextOp = p.nextOp := rfl
@[simp] theorem setJob_evq (p : Plane) (j : Job) : (setJob p j).evq = p.evq := rfl
@[simp] theorem setJob_holds (p : Plane) (j : Job) : (setJob p j).holds = p.holds := rfl
@[simp] theorem setJob_evLost (p : Plane) (j : Job) : (setJob p j).evLost = p.evLost := rfl
@[simp] theorem setJob_lostFlag (p : Plane) (j : Job) : (setJob p j).lostFlag = p.lostFlag := rfl
@[simp] theorem setJob_counters (p : Plane) (j : Job) : (setJob p j).counters = p.counters := rfl
@[simp] theorem setJob_hists (p : Plane) (j : Job) : (setJob p j).hists = p.hists := rfl
@[simp] theorem setJob_samples (p : Plane) (j : Job) : (setJob p j).samples = p.samples := rfl
@[simp] theorem setJob_dirCe (p : Plane) (j : Job) : (setJob p j).dirCe = p.dirCe := rfl
@[simp] theorem setJob_dirUe (p : Plane) (j : Job) : (setJob p j).dirUe = p.dirUe := rfl
@[simp] theorem setJob_rvFix (p : Plane) (j : Job) : (setJob p j).rvFix = p.rvFix := rfl
@[simp] theorem setJob_dramHours (p : Plane) (j : Job) : (setJob p j).dramHours = p.dramHours := rfl
@[simp] theorem setJob_sramHours (p : Plane) (j : Job) : (setJob p j).sramHours = p.sramHours := rfl
@[simp] theorem setJob_sramPos (p : Plane) (j : Job) : (setJob p j).sramPos = p.sramPos := rfl
@[simp] theorem setJob_sramPasses (p : Plane) (j : Job) : (setJob p j).sramPasses = p.sramPasses := rfl
@[simp] theorem setJob_dramPasses (p : Plane) (j : Job) : (setJob p j).dramPasses = p.dramPasses := rfl
@[simp] theorem setJob_flashWays (p : Plane) (j : Job) : (setJob p j).flashWays = p.flashWays := rfl
@[simp] theorem setJob_flashRows (p : Plane) (j : Job) : (setJob p j).flashRows = p.flashRows := rfl
@[simp] theorem setJob_flashEvac (p : Plane) (j : Job) : (setJob p j).flashEvac = p.flashEvac := rfl
@[simp] theorem setJob_tapTime (p : Plane) (j : Job) : (setJob p j).tapTime = p.tapTime := rfl
@[simp] theorem setJob_winSeq (p : Plane) (j : Job) : (setJob p j).winSeq = p.winSeq := rfl
@[simp] theorem setJob_winStart (p : Plane) (j : Job) : (setJob p j).winStart = p.winStart := rfl
@[simp] theorem setJob_winEnd (p : Plane) (j : Job) : (setJob p j).winEnd = p.winEnd := rfl
@[simp] theorem setJob_taps (p : Plane) (j : Job) : (setJob p j).taps = p.taps := rfl
@[simp] theorem setJob_frames (p : Plane) (j : Job) : (setJob p j).frames = p.frames := rfl
@[simp] theorem setJob_gated (p : Plane) (j : Job) : (setJob p j).gated = p.gated := rfl
@[simp] theorem setJob_joinHeld (p : Plane) (j : Job) : (setJob p j).joinHeld = p.joinHeld := rfl
@[simp] theorem setJob_ended (p : Plane) (j : Job) : (setJob p j).ended = p.ended := rfl
@[simp] theorem setJob_staleTags (p : Plane) (j : Job) : (setJob p j).staleTags = p.staleTags := rfl
@[simp] theorem setJob_lats (p : Plane) (j : Job) : (setJob p j).lats = p.lats := rfl

/-! ### dropJob -/
@[simp] theorem dropJob_variant (p : Plane) (n : Nat) : (dropJob p n).variant = p.variant := rfl
@[simp] theorem dropJob_clock (p : Plane) (n : Nat) : (dropJob p n).clock = p.clock := rfl
@[simp] theorem dropJob_draw (p : Plane) (n : Nat) : (dropJob p n).draw = p.draw := rfl
@[simp] theorem dropJob_epoch (p : Plane) (n : Nat) : (dropJob p n).epoch = p.epoch := rfl
@[simp] theorem dropJob_inforce (p : Plane) (n : Nat) : (dropJob p n).inforce = p.inforce := rfl
@[simp] theorem dropJob_modes (p : Plane) (n : Nat) : (dropJob p n).modes = p.modes := rfl
@[simp] theorem dropJob_ports (p : Plane) (n : Nat) : (dropJob p n).ports = p.ports := rfl
@[simp] theorem dropJob_links (p : Plane) (n : Nat) : (dropJob p n).links = p.links := rfl
@[simp] theorem dropJob_tiles (p : Plane) (n : Nat) : (dropJob p n).tiles = p.tiles := rfl
@[simp] theorem dropJob_dir (p : Plane) (n : Nat) : (dropJob p n).dir = p.dir := rfl
@[simp] theorem dropJob_dirFlips (p : Plane) (n : Nat) : (dropJob p n).dirFlips = p.dirFlips := rfl
@[simp] theorem dropJob_nextJob (p : Plane) (n : Nat) : (dropJob p n).nextJob = p.nextJob := rfl
@[simp] theorem dropJob_entries (p : Plane) (n : Nat) : (dropJob p n).entries = p.entries := rfl
@[simp] theorem dropJob_waits (p : Plane) (n : Nat) : (dropJob p n).waits = p.waits := rfl
@[simp] theorem dropJob_joinWait (p : Plane) (n : Nat) : (dropJob p n).joinWait = p.joinWait := rfl
@[simp] theorem dropJob_notices (p : Plane) (n : Nat) : (dropJob p n).notices = p.notices := rfl
@[simp] theorem dropJob_evHeld (p : Plane) (n : Nat) : (dropJob p n).evHeld = p.evHeld := rfl
@[simp] theorem dropJob_relBuf (p : Plane) (n : Nat) : (dropJob p n).relBuf = p.relBuf := rfl
@[simp] theorem dropJob_gathers (p : Plane) (n : Nat) : (dropJob p n).gathers = p.gathers := rfl
@[simp] theorem dropJob_nextGather (p : Plane) (n : Nat) : (dropJob p n).nextGather = p.nextGather := rfl
@[simp] theorem dropJob_rsvs (p : Plane) (n : Nat) : (dropJob p n).rsvs = p.rsvs := rfl
@[simp] theorem dropJob_ways (p : Plane) (n : Nat) : (dropJob p n).ways = p.ways := rfl
@[simp] theorem dropJob_sramFlips (p : Plane) (n : Nat) : (dropJob p n).sramFlips = p.sramFlips := rfl
@[simp] theorem dropJob_slices (p : Plane) (n : Nat) : (dropJob p n).slices = p.slices := rfl
@[simp] theorem dropJob_cache (p : Plane) (n : Nat) : (dropJob p n).cache = p.cache := rfl
@[simp] theorem dropJob_descs (p : Plane) (n : Nat) : (dropJob p n).descs = p.descs := rfl
@[simp] theorem dropJob_dram (p : Plane) (n : Nat) : (dropJob p n).dram = p.dram := rfl
@[simp] theorem dropJob_chans (p : Plane) (n : Nat) : (dropJob p n).chans = p.chans := rfl
@[simp] theorem dropJob_evac (p : Plane) (n : Nat) : (dropJob p n).evac = p.evac := rfl
@[simp] theorem dropJob_remaps (p : Plane) (n : Nat) : (dropJob p n).remaps = p.remaps := rfl
@[simp] theorem dropJob_rowCopies (p : Plane) (n : Nat) : (dropJob p n).rowCopies = p.rowCopies := rfl
@[simp] theorem dropJob_insts (p : Plane) (n : Nat) : (dropJob p n).insts = p.insts := rfl
@[simp] theorem dropJob_binds (p : Plane) (n : Nat) : (dropJob p n).binds = p.binds := rfl
@[simp] theorem dropJob_windows (p : Plane) (n : Nat) : (dropJob p n).windows = p.windows := rfl
@[simp] theorem dropJob_regions (p : Plane) (n : Nat) : (dropJob p n).regions = p.regions := rfl
@[simp] theorem dropJob_dw (p : Plane) (n : Nat) : (dropJob p n).dw = p.dw := rfl
@[simp] theorem dropJob_ops (p : Plane) (n : Nat) : (dropJob p n).ops = p.ops := rfl
@[simp] theorem dropJob_nextOp (p : Plane) (n : Nat) : (dropJob p n).nextOp = p.nextOp := rfl
@[simp] theorem dropJob_evq (p : Plane) (n : Nat) : (dropJob p n).evq = p.evq := rfl
@[simp] theorem dropJob_holds (p : Plane) (n : Nat) : (dropJob p n).holds = p.holds := rfl
@[simp] theorem dropJob_evLost (p : Plane) (n : Nat) : (dropJob p n).evLost = p.evLost := rfl
@[simp] theorem dropJob_lostFlag (p : Plane) (n : Nat) : (dropJob p n).lostFlag = p.lostFlag := rfl
@[simp] theorem dropJob_counters (p : Plane) (n : Nat) : (dropJob p n).counters = p.counters := rfl
@[simp] theorem dropJob_hists (p : Plane) (n : Nat) : (dropJob p n).hists = p.hists := rfl
@[simp] theorem dropJob_samples (p : Plane) (n : Nat) : (dropJob p n).samples = p.samples := rfl
@[simp] theorem dropJob_dirCe (p : Plane) (n : Nat) : (dropJob p n).dirCe = p.dirCe := rfl
@[simp] theorem dropJob_dirUe (p : Plane) (n : Nat) : (dropJob p n).dirUe = p.dirUe := rfl
@[simp] theorem dropJob_rvFix (p : Plane) (n : Nat) : (dropJob p n).rvFix = p.rvFix := rfl
@[simp] theorem dropJob_dramHours (p : Plane) (n : Nat) : (dropJob p n).dramHours = p.dramHours := rfl
@[simp] theorem dropJob_sramHours (p : Plane) (n : Nat) : (dropJob p n).sramHours = p.sramHours := rfl
@[simp] theorem dropJob_sramPos (p : Plane) (n : Nat) : (dropJob p n).sramPos = p.sramPos := rfl
@[simp] theorem dropJob_sramPasses (p : Plane) (n : Nat) : (dropJob p n).sramPasses = p.sramPasses := rfl
@[simp] theorem dropJob_dramPasses (p : Plane) (n : Nat) : (dropJob p n).dramPasses = p.dramPasses := rfl
@[simp] theorem dropJob_flashWays (p : Plane) (n : Nat) : (dropJob p n).flashWays = p.flashWays := rfl
@[simp] theorem dropJob_flashRows (p : Plane) (n : Nat) : (dropJob p n).flashRows = p.flashRows := rfl
@[simp] theorem dropJob_flashEvac (p : Plane) (n : Nat) : (dropJob p n).flashEvac = p.flashEvac := rfl
@[simp] theorem dropJob_tapTime (p : Plane) (n : Nat) : (dropJob p n).tapTime = p.tapTime := rfl
@[simp] theorem dropJob_winSeq (p : Plane) (n : Nat) : (dropJob p n).winSeq = p.winSeq := rfl
@[simp] theorem dropJob_winStart (p : Plane) (n : Nat) : (dropJob p n).winStart = p.winStart := rfl
@[simp] theorem dropJob_winEnd (p : Plane) (n : Nat) : (dropJob p n).winEnd = p.winEnd := rfl
@[simp] theorem dropJob_taps (p : Plane) (n : Nat) : (dropJob p n).taps = p.taps := rfl
@[simp] theorem dropJob_frames (p : Plane) (n : Nat) : (dropJob p n).frames = p.frames := rfl
@[simp] theorem dropJob_gated (p : Plane) (n : Nat) : (dropJob p n).gated = p.gated := rfl
@[simp] theorem dropJob_joinHeld (p : Plane) (n : Nat) : (dropJob p n).joinHeld = p.joinHeld := rfl
@[simp] theorem dropJob_ended (p : Plane) (n : Nat) : (dropJob p n).ended = p.ended := rfl
@[simp] theorem dropJob_staleTags (p : Plane) (n : Nat) : (dropJob p n).staleTags = p.staleTags := rfl
@[simp] theorem dropJob_lats (p : Plane) (n : Nat) : (dropJob p n).lats = p.lats := rfl

/-! ### setOp -/
@[simp] theorem setOp_variant (p : Plane) (o : LongOp) : (setOp p o).variant = p.variant := rfl
@[simp] theorem setOp_clock (p : Plane) (o : LongOp) : (setOp p o).clock = p.clock := rfl
@[simp] theorem setOp_draw (p : Plane) (o : LongOp) : (setOp p o).draw = p.draw := rfl
@[simp] theorem setOp_epoch (p : Plane) (o : LongOp) : (setOp p o).epoch = p.epoch := rfl
@[simp] theorem setOp_inforce (p : Plane) (o : LongOp) : (setOp p o).inforce = p.inforce := rfl
@[simp] theorem setOp_modes (p : Plane) (o : LongOp) : (setOp p o).modes = p.modes := rfl
@[simp] theorem setOp_ports (p : Plane) (o : LongOp) : (setOp p o).ports = p.ports := rfl
@[simp] theorem setOp_links (p : Plane) (o : LongOp) : (setOp p o).links = p.links := rfl
@[simp] theorem setOp_tiles (p : Plane) (o : LongOp) : (setOp p o).tiles = p.tiles := rfl
@[simp] theorem setOp_dir (p : Plane) (o : LongOp) : (setOp p o).dir = p.dir := rfl
@[simp] theorem setOp_dirFlips (p : Plane) (o : LongOp) : (setOp p o).dirFlips = p.dirFlips := rfl
@[simp] theorem setOp_jobs (p : Plane) (o : LongOp) : (setOp p o).jobs = p.jobs := rfl
@[simp] theorem setOp_nextJob (p : Plane) (o : LongOp) : (setOp p o).nextJob = p.nextJob := rfl
@[simp] theorem setOp_entries (p : Plane) (o : LongOp) : (setOp p o).entries = p.entries := rfl
@[simp] theorem setOp_waits (p : Plane) (o : LongOp) : (setOp p o).waits = p.waits := rfl
@[simp] theorem setOp_joinWait (p : Plane) (o : LongOp) : (setOp p o).joinWait = p.joinWait := rfl
@[simp] theorem setOp_notices (p : Plane) (o : LongOp) : (setOp p o).notices = p.notices := rfl
@[simp] theorem setOp_evHeld (p : Plane) (o : LongOp) : (setOp p o).evHeld = p.evHeld := rfl
@[simp] theorem setOp_relBuf (p : Plane) (o : LongOp) : (setOp p o).relBuf = p.relBuf := rfl
@[simp] theorem setOp_gathers (p : Plane) (o : LongOp) : (setOp p o).gathers = p.gathers := rfl
@[simp] theorem setOp_nextGather (p : Plane) (o : LongOp) : (setOp p o).nextGather = p.nextGather := rfl
@[simp] theorem setOp_rsvs (p : Plane) (o : LongOp) : (setOp p o).rsvs = p.rsvs := rfl
@[simp] theorem setOp_ways (p : Plane) (o : LongOp) : (setOp p o).ways = p.ways := rfl
@[simp] theorem setOp_sramFlips (p : Plane) (o : LongOp) : (setOp p o).sramFlips = p.sramFlips := rfl
@[simp] theorem setOp_slices (p : Plane) (o : LongOp) : (setOp p o).slices = p.slices := rfl
@[simp] theorem setOp_cache (p : Plane) (o : LongOp) : (setOp p o).cache = p.cache := rfl
@[simp] theorem setOp_descs (p : Plane) (o : LongOp) : (setOp p o).descs = p.descs := rfl
@[simp] theorem setOp_dram (p : Plane) (o : LongOp) : (setOp p o).dram = p.dram := rfl
@[simp] theorem setOp_chans (p : Plane) (o : LongOp) : (setOp p o).chans = p.chans := rfl
@[simp] theorem setOp_evac (p : Plane) (o : LongOp) : (setOp p o).evac = p.evac := rfl
@[simp] theorem setOp_remaps (p : Plane) (o : LongOp) : (setOp p o).remaps = p.remaps := rfl
@[simp] theorem setOp_rowCopies (p : Plane) (o : LongOp) : (setOp p o).rowCopies = p.rowCopies := rfl
@[simp] theorem setOp_insts (p : Plane) (o : LongOp) : (setOp p o).insts = p.insts := rfl
@[simp] theorem setOp_binds (p : Plane) (o : LongOp) : (setOp p o).binds = p.binds := rfl
@[simp] theorem setOp_windows (p : Plane) (o : LongOp) : (setOp p o).windows = p.windows := rfl
@[simp] theorem setOp_regions (p : Plane) (o : LongOp) : (setOp p o).regions = p.regions := rfl
@[simp] theorem setOp_dw (p : Plane) (o : LongOp) : (setOp p o).dw = p.dw := rfl
@[simp] theorem setOp_nextOp (p : Plane) (o : LongOp) : (setOp p o).nextOp = p.nextOp := rfl
@[simp] theorem setOp_evq (p : Plane) (o : LongOp) : (setOp p o).evq = p.evq := rfl
@[simp] theorem setOp_holds (p : Plane) (o : LongOp) : (setOp p o).holds = p.holds := rfl
@[simp] theorem setOp_evLost (p : Plane) (o : LongOp) : (setOp p o).evLost = p.evLost := rfl
@[simp] theorem setOp_lostFlag (p : Plane) (o : LongOp) : (setOp p o).lostFlag = p.lostFlag := rfl
@[simp] theorem setOp_counters (p : Plane) (o : LongOp) : (setOp p o).counters = p.counters := rfl
@[simp] theorem setOp_hists (p : Plane) (o : LongOp) : (setOp p o).hists = p.hists := rfl
@[simp] theorem setOp_samples (p : Plane) (o : LongOp) : (setOp p o).samples = p.samples := rfl
@[simp] theorem setOp_dirCe (p : Plane) (o : LongOp) : (setOp p o).dirCe = p.dirCe := rfl
@[simp] theorem setOp_dirUe (p : Plane) (o : LongOp) : (setOp p o).dirUe = p.dirUe := rfl
@[simp] theorem setOp_rvFix (p : Plane) (o : LongOp) : (setOp p o).rvFix = p.rvFix := rfl
@[simp] theorem setOp_dramHours (p : Plane) (o : LongOp) : (setOp p o).dramHours = p.dramHours := rfl
@[simp] theorem setOp_sramHours (p : Plane) (o : LongOp) : (setOp p o).sramHours = p.sramHours := rfl
@[simp] theorem setOp_sramPos (p : Plane) (o : LongOp) : (setOp p o).sramPos = p.sramPos := rfl
@[simp] theorem setOp_sramPasses (p : Plane) (o : LongOp) : (setOp p o).sramPasses = p.sramPasses := rfl
@[simp] theorem setOp_dramPasses (p : Plane) (o : LongOp) : (setOp p o).dramPasses = p.dramPasses := rfl
@[simp] theorem setOp_flashWays (p : Plane) (o : LongOp) : (setOp p o).flashWays = p.flashWays := rfl
@[simp] theorem setOp_flashRows (p : Plane) (o : LongOp) : (setOp p o).flashRows = p.flashRows := rfl
@[simp] theorem setOp_flashEvac (p : Plane) (o : LongOp) : (setOp p o).flashEvac = p.flashEvac := rfl
@[simp] theorem setOp_tapTime (p : Plane) (o : LongOp) : (setOp p o).tapTime = p.tapTime := rfl
@[simp] theorem setOp_winSeq (p : Plane) (o : LongOp) : (setOp p o).winSeq = p.winSeq := rfl
@[simp] theorem setOp_winStart (p : Plane) (o : LongOp) : (setOp p o).winStart = p.winStart := rfl
@[simp] theorem setOp_winEnd (p : Plane) (o : LongOp) : (setOp p o).winEnd = p.winEnd := rfl
@[simp] theorem setOp_taps (p : Plane) (o : LongOp) : (setOp p o).taps = p.taps := rfl
@[simp] theorem setOp_frames (p : Plane) (o : LongOp) : (setOp p o).frames = p.frames := rfl
@[simp] theorem setOp_gated (p : Plane) (o : LongOp) : (setOp p o).gated = p.gated := rfl
@[simp] theorem setOp_joinHeld (p : Plane) (o : LongOp) : (setOp p o).joinHeld = p.joinHeld := rfl
@[simp] theorem setOp_ended (p : Plane) (o : LongOp) : (setOp p o).ended = p.ended := rfl
@[simp] theorem setOp_staleTags (p : Plane) (o : LongOp) : (setOp p o).staleTags = p.staleTags := rfl
@[simp] theorem setOp_lats (p : Plane) (o : LongOp) : (setOp p o).lats = p.lats := rfl

/-! ### draw1 -/
@[simp] theorem draw1_variant (p : Plane) : (draw1 p).variant = p.variant := rfl
@[simp] theorem draw1_clock (p : Plane) : (draw1 p).clock = p.clock := rfl
@[simp] theorem draw1_epoch (p : Plane) : (draw1 p).epoch = p.epoch := rfl
@[simp] theorem draw1_inforce (p : Plane) : (draw1 p).inforce = p.inforce := rfl
@[simp] theorem draw1_modes (p : Plane) : (draw1 p).modes = p.modes := rfl
@[simp] theorem draw1_ports (p : Plane) : (draw1 p).ports = p.ports := rfl
@[simp] theorem draw1_links (p : Plane) : (draw1 p).links = p.links := rfl
@[simp] theorem draw1_tiles (p : Plane) : (draw1 p).tiles = p.tiles := rfl
@[simp] theorem draw1_dir (p : Plane) : (draw1 p).dir = p.dir := rfl
@[simp] theorem draw1_dirFlips (p : Plane) : (draw1 p).dirFlips = p.dirFlips := rfl
@[simp] theorem draw1_jobs (p : Plane) : (draw1 p).jobs = p.jobs := rfl
@[simp] theorem draw1_nextJob (p : Plane) : (draw1 p).nextJob = p.nextJob := rfl
@[simp] theorem draw1_entries (p : Plane) : (draw1 p).entries = p.entries := rfl
@[simp] theorem draw1_waits (p : Plane) : (draw1 p).waits = p.waits := rfl
@[simp] theorem draw1_joinWait (p : Plane) : (draw1 p).joinWait = p.joinWait := rfl
@[simp] theorem draw1_notices (p : Plane) : (draw1 p).notices = p.notices := rfl
@[simp] theorem draw1_evHeld (p : Plane) : (draw1 p).evHeld = p.evHeld := rfl
@[simp] theorem draw1_relBuf (p : Plane) : (draw1 p).relBuf = p.relBuf := rfl
@[simp] theorem draw1_gathers (p : Plane) : (draw1 p).gathers = p.gathers := rfl
@[simp] theorem draw1_nextGather (p : Plane) : (draw1 p).nextGather = p.nextGather := rfl
@[simp] theorem draw1_rsvs (p : Plane) : (draw1 p).rsvs = p.rsvs := rfl
@[simp] theorem draw1_ways (p : Plane) : (draw1 p).ways = p.ways := rfl
@[simp] theorem draw1_sramFlips (p : Plane) : (draw1 p).sramFlips = p.sramFlips := rfl
@[simp] theorem draw1_slices (p : Plane) : (draw1 p).slices = p.slices := rfl
@[simp] theorem draw1_cache (p : Plane) : (draw1 p).cache = p.cache := rfl
@[simp] theorem draw1_descs (p : Plane) : (draw1 p).descs = p.descs := rfl
@[simp] theorem draw1_dram (p : Plane) : (draw1 p).dram = p.dram := rfl
@[simp] theorem draw1_chans (p : Plane) : (draw1 p).chans = p.chans := rfl
@[simp] theorem draw1_evac (p : Plane) : (draw1 p).evac = p.evac := rfl
@[simp] theorem draw1_remaps (p : Plane) : (draw1 p).remaps = p.remaps := rfl
@[simp] theorem draw1_rowCopies (p : Plane) : (draw1 p).rowCopies = p.rowCopies := rfl
@[simp] theorem draw1_insts (p : Plane) : (draw1 p).insts = p.insts := rfl
@[simp] theorem draw1_binds (p : Plane) : (draw1 p).binds = p.binds := rfl
@[simp] theorem draw1_windows (p : Plane) : (draw1 p).windows = p.windows := rfl
@[simp] theorem draw1_regions (p : Plane) : (draw1 p).regions = p.regions := rfl
@[simp] theorem draw1_dw (p : Plane) : (draw1 p).dw = p.dw := rfl
@[simp] theorem draw1_ops (p : Plane) : (draw1 p).ops = p.ops := rfl
@[simp] theorem draw1_nextOp (p : Plane) : (draw1 p).nextOp = p.nextOp := rfl
@[simp] theorem draw1_evq (p : Plane) : (draw1 p).evq = p.evq := rfl
@[simp] theorem draw1_holds (p : Plane) : (draw1 p).holds = p.holds := rfl
@[simp] theorem draw1_evLost (p : Plane) : (draw1 p).evLost = p.evLost := rfl
@[simp] theorem draw1_lostFlag (p : Plane) : (draw1 p).lostFlag = p.lostFlag := rfl
@[simp] theorem draw1_counters (p : Plane) : (draw1 p).counters = p.counters := rfl
@[simp] theorem draw1_hists (p : Plane) : (draw1 p).hists = p.hists := rfl
@[simp] theorem draw1_samples (p : Plane) : (draw1 p).samples = p.samples := rfl
@[simp] theorem draw1_dirCe (p : Plane) : (draw1 p).dirCe = p.dirCe := rfl
@[simp] theorem draw1_dirUe (p : Plane) : (draw1 p).dirUe = p.dirUe := rfl
@[simp] theorem draw1_rvFix (p : Plane) : (draw1 p).rvFix = p.rvFix := rfl
@[simp] theorem draw1_dramHours (p : Plane) : (draw1 p).dramHours = p.dramHours := rfl
@[simp] theorem draw1_sramHours (p : Plane) : (draw1 p).sramHours = p.sramHours := rfl
@[simp] theorem draw1_sramPos (p : Plane) : (draw1 p).sramPos = p.sramPos := rfl
@[simp] theorem draw1_sramPasses (p : Plane) : (draw1 p).sramPasses = p.sramPasses := rfl
@[simp] theorem draw1_dramPasses (p : Plane) : (draw1 p).dramPasses = p.dramPasses := rfl
@[simp] theorem draw1_flashWays (p : Plane) : (draw1 p).flashWays = p.flashWays := rfl
@[simp] theorem draw1_flashRows (p : Plane) : (draw1 p).flashRows = p.flashRows := rfl
@[simp] theorem draw1_flashEvac (p : Plane) : (draw1 p).flashEvac = p.flashEvac := rfl
@[simp] theorem draw1_tapTime (p : Plane) : (draw1 p).tapTime = p.tapTime := rfl
@[simp] theorem draw1_winSeq (p : Plane) : (draw1 p).winSeq = p.winSeq := rfl
@[simp] theorem draw1_winStart (p : Plane) : (draw1 p).winStart = p.winStart := rfl
@[simp] theorem draw1_winEnd (p : Plane) : (draw1 p).winEnd = p.winEnd := rfl
@[simp] theorem draw1_taps (p : Plane) : (draw1 p).taps = p.taps := rfl
@[simp] theorem draw1_frames (p : Plane) : (draw1 p).frames = p.frames := rfl
@[simp] theorem draw1_gated (p : Plane) : (draw1 p).gated = p.gated := rfl
@[simp] theorem draw1_joinHeld (p : Plane) : (draw1 p).joinHeld = p.joinHeld := rfl
@[simp] theorem draw1_ended (p : Plane) : (draw1 p).ended = p.ended := rfl
@[simp] theorem draw1_staleTags (p : Plane) : (draw1 p).staleTags = p.staleTags := rfl
@[simp] theorem draw1_lats (p : Plane) : (draw1 p).lats = p.lats := rfl

/-! ### Reading what was set -/
@[simp] theorem port_setPort (p : Plane) (i : Nat) (x : Port) : port (setPort p i x) i = x := tget_tput_same ..
theorem port_setPort_other (p : Plane) {i j : Nat} (x : Port) (h : j ≠ i) : port (setPort p i x) j = port p j := tget_tput_other _ _ _ h
@[simp] theorem port_setLink (p : Plane) (i j : Nat) (x : JLink) : port (setLink p i x) j = port p j := rfl
@[simp] theorem port_setTile (p : Plane) (i j : Nat) (x : HomeTile) : port (setTile p i x) j = port p j := rfl
@[simp] theorem port_setChan (p : Plane) (i j : Nat) (x : Chan) : port (setChan p i x) j = port p j := rfl
@[simp] theorem port_setSlice (p : Plane) (i j : Nat) (x : Slice) : port (setSlice p i x) j = port p j := rfl
@[simp] theorem port_setInst (p : Plane) (i j : Nat) (x : Inst) : port (setInst p i x) j = port p j := rfl
@[simp] theorem port_setEvac (p : Plane) (i j : Nat) (x : Evac) : port (setEvac p i x) j = port p j := rfl
@[simp] theorem link_setLink (p : Plane) (i : Nat) (x : JLink) : link (setLink p i x) i = x := tget_tput_same ..
theorem link_setLink_other (p : Plane) {i j : Nat} (x : JLink) (h : j ≠ i) : link (setLink p i x) j = link p j := tget_tput_other _ _ _ h
@[simp] theorem link_setPort (p : Plane) (i j : Nat) (x : Port) : link (setPort p i x) j = link p j := rfl
@[simp] theorem link_setTile (p : Plane) (i j : Nat) (x : HomeTile) : link (setTile p i x) j = link p j := rfl
@[simp] theorem link_setChan (p : Plane) (i j : Nat) (x : Chan) : link (setChan p i x) j = link p j := rfl
@[simp] theorem link_setSlice (p : Plane) (i j : Nat) (x : Slice) : link (setSlice p i x) j = link p j := rfl
@[simp] theorem link_setInst (p : Plane) (i j : Nat) (x : Inst) : link (setInst p i x) j = link p j := rfl
@[simp] theorem link_setEvac (p : Plane) (i j : Nat) (x : Evac) : link (setEvac p i x) j = link p j := rfl
@[simp] theorem htile_setTile (p : Plane) (i : Nat) (x : HomeTile) : htile (setTile p i x) i = x := tget_tput_same ..
theorem htile_setTile_other (p : Plane) {i j : Nat} (x : HomeTile) (h : j ≠ i) : htile (setTile p i x) j = htile p j := tget_tput_other _ _ _ h
@[simp] theorem htile_setPort (p : Plane) (i j : Nat) (x : Port) : htile (setPort p i x) j = htile p j := rfl
@[simp] theorem htile_setLink (p : Plane) (i j : Nat) (x : JLink) : htile (setLink p i x) j = htile p j := rfl
@[simp] theorem htile_setChan (p : Plane) (i j : Nat) (x : Chan) : htile (setChan p i x) j = htile p j := rfl
@[simp] theorem htile_setSlice (p : Plane) (i j : Nat) (x : Slice) : htile (setSlice p i x) j = htile p j := rfl
@[simp] theorem htile_setInst (p : Plane) (i j : Nat) (x : Inst) : htile (setInst p i x) j = htile p j := rfl
@[simp] theorem htile_setEvac (p : Plane) (i j : Nat) (x : Evac) : htile (setEvac p i x) j = htile p j := rfl
@[simp] theorem chan_setChan (p : Plane) (i : Nat) (x : Chan) : chan (setChan p i x) i = x := tget_tput_same ..
theorem chan_setChan_other (p : Plane) {i j : Nat} (x : Chan) (h : j ≠ i) : chan (setChan p i x) j = chan p j := tget_tput_other _ _ _ h
@[simp] theorem chan_setPort (p : Plane) (i j : Nat) (x : Port) : chan (setPort p i x) j = chan p j := rfl
@[simp] theorem chan_setLink (p : Plane) (i j : Nat) (x : JLink) : chan (setLink p i x) j = chan p j := rfl
@[simp] theorem chan_setTile (p : Plane) (i j : Nat) (x : HomeTile) : chan (setTile p i x) j = chan p j := rfl
@[simp] theorem chan_setSlice (p : Plane) (i j : Nat) (x : Slice) : chan (setSlice p i x) j = chan p j := rfl
@[simp] theorem chan_setInst (p : Plane) (i j : Nat) (x : Inst) : chan (setInst p i x) j = chan p j := rfl
@[simp] theorem chan_setEvac (p : Plane) (i j : Nat) (x : Evac) : chan (setEvac p i x) j = chan p j := rfl
@[simp] theorem slice_setSlice (p : Plane) (i : Nat) (x : Slice) : slice (setSlice p i x) i = x := tget_tput_same ..
theorem slice_setSlice_other (p : Plane) {i j : Nat} (x : Slice) (h : j ≠ i) : slice (setSlice p i x) j = slice p j := tget_tput_other _ _ _ h
@[simp] theorem slice_setPort (p : Plane) (i j : Nat) (x : Port) : slice (setPort p i x) j = slice p j := rfl
@[simp] theorem slice_setLink (p : Plane) (i j : Nat) (x : JLink) : slice (setLink p i x) j = slice p j := rfl
@[simp] theorem slice_setTile (p : Plane) (i j : Nat) (x : HomeTile) : slice (setTile p i x) j = slice p j := rfl
@[simp] theorem slice_setChan (p : Plane) (i j : Nat) (x : Chan) : slice (setChan p i x) j = slice p j := rfl
@[simp] theorem slice_setInst (p : Plane) (i j : Nat) (x : Inst) : slice (setInst p i x) j = slice p j := rfl
@[simp] theorem slice_setEvac (p : Plane) (i j : Nat) (x : Evac) : slice (setEvac p i x) j = slice p j := rfl
@[simp] theorem inst_setInst (p : Plane) (i : Nat) (x : Inst) : inst (setInst p i x) i = x := tget_tput_same ..
theorem inst_setInst_other (p : Plane) {i j : Nat} (x : Inst) (h : j ≠ i) : inst (setInst p i x) j = inst p j := tget_tput_other _ _ _ h
@[simp] theorem inst_setPort (p : Plane) (i j : Nat) (x : Port) : inst (setPort p i x) j = inst p j := rfl
@[simp] theorem inst_setLink (p : Plane) (i j : Nat) (x : JLink) : inst (setLink p i x) j = inst p j := rfl
@[simp] theorem inst_setTile (p : Plane) (i j : Nat) (x : HomeTile) : inst (setTile p i x) j = inst p j := rfl
@[simp] theorem inst_setChan (p : Plane) (i j : Nat) (x : Chan) : inst (setChan p i x) j = inst p j := rfl
@[simp] theorem inst_setSlice (p : Plane) (i j : Nat) (x : Slice) : inst (setSlice p i x) j = inst p j := rfl
@[simp] theorem inst_setEvac (p : Plane) (i j : Nat) (x : Evac) : inst (setEvac p i x) j = inst p j := rfl
@[simp] theorem evacOf_setEvac (p : Plane) (i : Nat) (x : Evac) : evacOf (setEvac p i x) i = x := tget_tput_same ..
theorem evacOf_setEvac_other (p : Plane) {i j : Nat} (x : Evac) (h : j ≠ i) : evacOf (setEvac p i x) j = evacOf p j := tget_tput_other _ _ _ h
@[simp] theorem evacOf_setPort (p : Plane) (i j : Nat) (x : Port) : evacOf (setPort p i x) j = evacOf p j := rfl
@[simp] theorem evacOf_setLink (p : Plane) (i j : Nat) (x : JLink) : evacOf (setLink p i x) j = evacOf p j := rfl
@[simp] theorem evacOf_setTile (p : Plane) (i j : Nat) (x : HomeTile) : evacOf (setTile p i x) j = evacOf p j := rfl
@[simp] theorem evacOf_setChan (p : Plane) (i j : Nat) (x : Chan) : evacOf (setChan p i x) j = evacOf p j := rfl
@[simp] theorem evacOf_setSlice (p : Plane) (i j : Nat) (x : Slice) : evacOf (setSlice p i x) j = evacOf p j := rfl
@[simp] theorem evacOf_setInst (p : Plane) (i j : Nat) (x : Inst) : evacOf (setInst p i x) j = evacOf p j := rfl

/-! ### The whole state -/
@[simp] theorem onDp_mg (f : Plane → Plane) (s : State) : (onDp f s).mg = s.mg := rfl
@[simp] theorem onDp_kn (f : Plane → Plane) (s : State) : (onDp f s).kn = s.kn := rfl
@[simp] theorem onDp_side (f : Plane → Plane) (s : State) : (onDp f s).side = s.side := rfl
@[simp] theorem onDp_sg (f : Plane → Plane) (s : State) : (onDp f s).sg = s.sg := rfl
@[simp] theorem onDp_mir (f : Plane → Plane) (s : State) : (onDp f s).mir = s.mir := rfl
@[simp] theorem onDp_rc (f : Plane → Plane) (s : State) : (onDp f s).rc = s.rc := rfl
@[simp] theorem onDp_pending (f : Plane → Plane) (s : State) : (onDp f s).pending = s.pending := rfl
@[simp] theorem onDp_dp (f : Plane → Plane) (s : State) : (onDp f s).dp = f s.dp := rfl
@[simp] theorem settled_mg (s : State) : (settled s).mg = s.mg := by unfold settled; split <;> rfl
@[simp] theorem settled_kn (s : State) : (settled s).kn = s.kn := by unfold settled; split <;> rfl
@[simp] theorem settled_side (s : State) : (settled s).side = s.side := by unfold settled; split <;> rfl
@[simp] theorem settled_sg (s : State) : (settled s).sg = s.sg := by unfold settled; split <;> rfl
@[simp] theorem settled_mir (s : State) : (settled s).mir = s.mir := by unfold settled; split <;> rfl
@[simp] theorem settled_rc (s : State) : (settled s).rc = s.rc := by unfold settled; split <;> rfl
@[simp] theorem settled_pending (s : State) : (settled s).pending = s.pending := by unfold settled; split <;> rfl
@[simp] theorem enterRow_kn (h : Hdr) (s : State) : (enterRow h s).kn = s.kn := by unfold enterRow; dsimp only; split <;> rfl
@[simp] theorem enterRow_side (h : Hdr) (s : State) : (enterRow h s).side = s.side := by unfold enterRow; dsimp only; split <;> rfl
@[simp] theorem enterRow_sg (h : Hdr) (s : State) : (enterRow h s).sg = s.sg := by unfold enterRow; dsimp only; split <;> rfl
@[simp] theorem enterRow_mir (h : Hdr) (s : State) : (enterRow h s).mir = s.mir := by unfold enterRow; dsimp only; split <;> rfl
@[simp] theorem enterRow_rc (h : Hdr) (s : State) : (enterRow h s).rc = s.rc := by unfold enterRow; dsimp only; split <;> rfl
@[simp] theorem enterRow_pending (h : Hdr) (s : State) : (enterRow h s).pending = s.pending := by unfold enterRow; dsimp only; split <;> rfl
@[simp] theorem enterRow_dp (h : Hdr) (s : State) : (enterRow h s).dp = s.dp := by unfold enterRow; dsimp only; split <;> rfl
@[simp] theorem enterRow_mg_life (h : Hdr) (s : State) : (enterRow h s).mg.life = s.mg.life := by unfold enterRow; dsimp only; split <;> rfl
@[simp] theorem enterRow_mg_power (h : Hdr) (s : State) : (enterRow h s).mg.power = s.mg.power := by unfold enterRow; dsimp only; split <;> rfl
@[simp] theorem enterRow_mg_ready (h : Hdr) (s : State) : (enterRow h s).mg.ready = s.mg.ready := by unfold enterRow; dsimp only; split <;> rfl
@[simp] theorem enterRow_mg_warm (h : Hdr) (s : State) : (enterRow h s).mg.warm = s.mg.warm := by unfold enterRow; dsimp only; split <;> rfl
@[simp] theorem enterRow_mg_unclean (h : Hdr) (s : State) : (enterRow h s).mg.unclean = s.mg.unclean := by unfold enterRow; dsimp only; split <;> rfl
@[simp] theorem enterRow_mg_hwRev (h : Hdr) (s : State) : (enterRow h s).mg.hwRev = s.mg.hwRev := by unfold enterRow; dsimp only; split <;> rfl
@[simp] theorem enterRow_mg_scratch (h : Hdr) (s : State) : (enterRow h s).mg.scratch = s.mg.scratch := by unfold enterRow; dsimp only; split <;> rfl
@[simp] theorem enterRow_mg_dbgLock (h : Hdr) (s : State) : (enterRow h s).mg.dbgLock = s.mg.dbgLock := by unfold enterRow; dsimp only; split <;> rfl
@[simp] theorem enterRow_mg_keyOpen (h : Hdr) (s : State) : (enterRow h s).mg.keyOpen = s.mg.keyOpen := by unfold enterRow; dsimp only; split <;> rfl
@[simp] theorem enterRow_mg_badKeys (h : Hdr) (s : State) : (enterRow h s).mg.badKeys = s.mg.badKeys := by unfold enterRow; dsimp only; split <;> rfl
@[simp] theorem enterRow_mg_dropped (h : Hdr) (s : State) : (enterRow h s).mg.dropped = s.mg.dropped := by unfold enterRow; dsimp only; split <;> rfl
@[simp] theorem enterRow_mg_staged (h : Hdr) (s : State) : (enterRow h s).mg.staged = s.mg.staged := by unfold enterRow; dsimp only; split <;> rfl
@[simp] theorem enterRow_mg_fires (h : Hdr) (s : State) : (enterRow h s).mg.fires = s.mg.fires := by unfold enterRow; dsimp only; split <;> rfl
@[simp] theorem enterRow_mg_fireErr (h : Hdr) (s : State) : (enterRow h s).mg.fireErr = s.mg.fireErr := by unfold enterRow; dsimp only; split <;> rfl
@[simp] theorem enterRow_mg_shadows (h : Hdr) (s : State) : (enterRow h s).mg.shadows = s.mg.shadows := by unfold enterRow; dsimp only; split <;> rfl
@[simp] theorem enterRow_mg_spi_reply (h : Hdr) (s : State) : (enterRow h s).mg.spi.reply = s.mg.spi.reply := by unfold enterRow; dsimp only; split <;> rfl
@[simp] theorem enterRow_mg_spi_out (h : Hdr) (s : State) : (enterRow h s).mg.spi.out = s.mg.spi.out := by unfold enterRow; dsimp only; split <;> rfl
@[simp] theorem enterRow_mg_spi_complNew (h : Hdr) (s : State) : (enterRow h s).mg.spi.complNew = s.mg.spi.complNew := by unfold enterRow; dsimp only; split <;> rfl
@[simp] theorem enterRow_mg_spi_replyNew (h : Hdr) (s : State) : (enterRow h s).mg.spi.replyNew = s.mg.spi.replyNew := by unfold enterRow; dsimp only; split <;> rfl
@[simp] theorem enterRow_mg_spi_compl (h : Hdr) (s : State) : (enterRow h s).mg.spi.compl = s.mg.spi.compl := by unfold enterRow; dsimp only; split <;> rfl
@[simp] theorem enterRow_mg_spi_cmd (h : Hdr) (s : State) : (enterRow h s).mg.spi.cmd = s.mg.spi.cmd := by unfold enterRow; dsimp only; split <;> rfl
@[simp] theorem enterRow_mg_spi_discarded (h : Hdr) (s : State) : (enterRow h s).mg.spi.discarded = s.mg.spi.discarded := by unfold enterRow; dsimp only; split <;> rfl
@[simp] theorem enterRow_mg_spi_overflow (h : Hdr) (s : State) : (enterRow h s).mg.spi.overflow = s.mg.spi.overflow := by unfold enterRow; dsimp only; split <;> rfl
@[simp] theorem enterRow_mg_ev (h : Hdr) (s : State) : (enterRow h s).mg.ev = s.mg.ev := by unfold enterRow; dsimp only; split <;> rfl
@[simp] theorem enterRow_mg_msix (h : Hdr) (s : State) : (enterRow h s).mg.msix = s.mg.msix := by unfold enterRow; dsimp only; split <;> rfl
@[simp] theorem enterRow_mg_held (h : Hdr) (s : State) : (enterRow h s).mg.held = s.mg.held := by unfold enterRow; dsimp only; split <;> rfl
@[simp] theorem enterRow_mg_endpoint (h : Hdr) (s : State) : (enterRow h s).mg.endpoint = s.mg.endpoint := by unfold enterRow; dsimp only; split <;> rfl
@[simp] theorem enterRow_mg_readData (h : Hdr) (s : State) : (enterRow h s).mg.readData = s.mg.readData := by unfold enterRow; dsimp only; split <;> rfl
@[simp] theorem enterRow_mg_dumps (h : Hdr) (s : State) : (enterRow h s).mg.dumps = s.mg.dumps := by unfold enterRow; dsimp only; split <;> rfl
@[simp] theorem enterRow_mg_latched (h : Hdr) (s : State) : (enterRow h s).mg.latched = s.mg.latched := by unfold enterRow; dsimp only; split <;> rfl
@[simp] theorem enterRow_mg_slotA (h : Hdr) (s : State) : (enterRow h s).mg.slotA = s.mg.slotA := by unfold enterRow; dsimp only; split <;> rfl
@[simp] theorem enterRow_mg_slotB (h : Hdr) (s : State) : (enterRow h s).mg.slotB = s.mg.slotB := by unfold enterRow; dsimp only; split <;> rfl
@[simp] theorem enterRow_mg_startSlot (h : Hdr) (s : State) : (enterRow h s).mg.startSlot = s.mg.startSlot := by unfold enterRow; dsimp only; split <;> rfl
@[simp] theorem enterRow_mg_oneShot (h : Hdr) (s : State) : (enterRow h s).mg.oneShot = s.mg.oneShot := by unfold enterRow; dsimp only; split <;> rfl
@[simp] theorem enterRow_mg_running (h : Hdr) (s : State) : (enterRow h s).mg.running = s.mg.running := by unfold enterRow; dsimp only; split <;> rfl
@[simp] theorem enterRow_mg_stage (h : Hdr) (s : State) : (enterRow h s).mg.stage = s.mg.stage := by unfold enterRow; dsimp only; split <;> rfl
@[simp] theorem enterRow_mg_marker (h : Hdr) (s : State) : (enterRow h s).mg.marker = s.mg.marker := by unfold enterRow; dsimp only; split <;> rfl
@[simp] theorem enterRow_mg_rateCur (h : Hdr) (s : State) : (enterRow h s).mg.rateCur = s.mg.rateCur := by unfold enterRow; dsimp only; split <;> rfl
@[simp] theorem enterRow_mg_settings (h : Hdr) (s : State) : (enterRow h s).mg.settings = s.mg.settings := by unfold enterRow; dsimp only; split <;> rfl
@[simp] theorem enterRow_mg_hours (h : Hdr) (s : State) : (enterRow h s).mg.hours = s.mg.hours := by unfold enterRow; dsimp only; split <;> rfl
@[simp] theorem enterRow_mg_procStop (h : Hdr) (s : State) : (enterRow h s).mg.procStop = s.mg.procStop := by unfold enterRow; dsimp only; split <;> rfl
@[simp] theorem enterRow_mg_ownShadows (h : Hdr) (s : State) : (enterRow h s).mg.ownShadows = s.mg.ownShadows := by unfold enterRow; dsimp only; split <;> rfl
@[simp] theorem setRing_life (m : Mgmt) (q : Nat) (r : Ring) : (setRing m q r).life = m.life := rfl
@[simp] theorem setRing_power (m : Mgmt) (q : Nat) (r : Ring) : (setRing m q r).power = m.power := rfl
@[simp] theorem setRing_ready (m : Mgmt) (q : Nat) (r : Ring) : (setRing m q r).ready = m.ready := rfl
@[simp] theorem setRing_warm (m : Mgmt) (q : Nat) (r : Ring) : (setRing m q r).warm = m.warm := rfl
@[simp] theorem setRing_unclean (m : Mgmt) (q : Nat) (r : Ring) : (setRing m q r).unclean = m.unclean := rfl
@[simp] theorem setRing_hwRev (m : Mgmt) (q : Nat) (r : Ring) : (setRing m q r).hwRev = m.hwRev := rfl
@[simp] theorem setRing_scratch (m : Mgmt) (q : Nat) (r : Ring) : (setRing m q r).scratch = m.scratch := rfl
@[simp] theorem setRing_dbgLock (m : Mgmt) (q : Nat) (r : Ring) : (setRing m q r).dbgLock = m.dbgLock := rfl
@[simp] theorem setRing_keyOpen (m : Mgmt) (q : Nat) (r : Ring) : (setRing m q r).keyOpen = m.keyOpen := rfl
@[simp] theorem setRing_badKeys (m : Mgmt) (q : Nat) (r : Ring) : (setRing m q r).badKeys = m.badKeys := rfl
@[simp] theorem setRing_dropped (m : Mgmt) (q : Nat) (r : Ring) : (setRing m q r).dropped = m.dropped := rfl
@[simp] theorem setRing_staged (m : Mgmt) (q : Nat) (r : Ring) : (setRing m q r).staged = m.staged := rfl
@[simp] theorem setRing_fires (m : Mgmt) (q : Nat) (r : Ring) : (setRing m q r).fires = m.fires := rfl
@[simp] theorem setRing_fireErr (m : Mgmt) (q : Nat) (r : Ring) : (setRing m q r).fireErr = m.fireErr := rfl
@[simp] theorem setRing_shadows (m : Mgmt) (q : Nat) (r : Ring) : (setRing m q r).shadows = m.shadows := rfl
@[simp] theorem setRing_round (m : Mgmt) (q : Nat) (r : Ring) : (setRing m q r).round = m.round := rfl
@[simp] theorem setRing_spi (m : Mgmt) (q : Nat) (r : Ring) : (setRing m q r).spi = m.spi := rfl
@[simp] theorem setRing_ev (m : Mgmt) (q : Nat) (r : Ring) : (setRing m q r).ev = m.ev := rfl
@[simp] theorem setRing_msix (m : Mgmt) (q : Nat) (r : Ring) : (setRing m q r).msix = m.msix := rfl
@[simp] theorem setRing_held (m : Mgmt) (q : Nat) (r : Ring) : (setRing m q r).held = m.held := rfl
@[simp] theorem setRing_endpoint (m : Mgmt) (q : Nat) (r : Ring) : (setRing m q r).endpoint = m.endpoint := rfl
@[simp] theorem setRing_readData (m : Mgmt) (q : Nat) (r : Ring) : (setRing m q r).readData = m.readData := rfl
@[simp] theorem setRing_dumps (m : Mgmt) (q : Nat) (r : Ring) : (setRing m q r).dumps = m.dumps := rfl
@[simp] theorem setRing_latched (m : Mgmt) (q : Nat) (r : Ring) : (setRing m q r).latched = m.latched := rfl
@[simp] theorem setRing_slotA (m : Mgmt) (q : Nat) (r : Ring) : (setRing m q r).slotA = m.slotA := rfl
@[simp] theorem setRing_slotB (m : Mgmt) (q : Nat) (r : Ring) : (setRing m q r).slotB = m.slotB := rfl
@[simp] theorem setRing_startSlot (m : Mgmt) (q : Nat) (r : Ring) : (setRing m q r).startSlot = m.startSlot := rfl
@[simp] theorem setRing_oneShot (m : Mgmt) (q : Nat) (r : Ring) : (setRing m q r).oneShot = m.oneShot := rfl
@[simp] theorem setRing_running (m : Mgmt) (q : Nat) (r : Ring) : (setRing m q r).running = m.running := rfl
@[simp] theorem setRing_stage (m : Mgmt) (q : Nat) (r : Ring) : (setRing m q r).stage = m.stage := rfl
@[simp] theorem setRing_marker (m : Mgmt) (q : Nat) (r : Ring) : (setRing m q r).marker = m.marker := rfl
@[simp] theorem setRing_rateCur (m : Mgmt) (q : Nat) (r : Ring) : (setRing m q r).rateCur = m.rateCur := rfl
@[simp] theorem setRing_settings (m : Mgmt) (q : Nat) (r : Ring) : (setRing m q r).settings = m.settings := rfl
@[simp] theorem setRing_hours (m : Mgmt) (q : Nat) (r : Ring) : (setRing m q r).hours = m.hours := rfl
@[simp] theorem setRing_procStop (m : Mgmt) (q : Nat) (r : Ring) : (setRing m q r).procStop = m.procStop := rfl
@[simp] theorem setRing_ownShadows (m : Mgmt) (q : Nat) (r : Ring) : (setRing m q r).ownShadows = m.ownShadows := rfl
@[simp] theorem ring_setRing (m : Mgmt) (q : Nat) (r : Ring) : ring (setRing m q r) q = r := tget_tput_same ..
theorem ring_setRing_other (m : Mgmt) {q k : Nat} (r : Ring) (h : k ≠ q) : ring (setRing m q r) k = ring m k := tget_tput_other _ _ _ h

end Sys2Proof.Machine
end

