-- ==== Sys2Proof/Laws/Keeps.lean ====
section
/-! SUPPORT. What most commands leave alone: the queue, the Sagger, the debug lock and whether the module runs. -/
namespace Sys2Proof.Machine
open Sys2Proof

/-- `t` has the queue, the Sagger and the life of `s`, and is locked if `s` is. -/
structure Keeps (s t : State) : Prop where
  pending : t.pending = s.pending
  sg : t.sg = s.sg
  lock : locked s = true → locked t = true
  life : t.mg.life = s.mg.life

theorem Keeps.refl (s : State) : Keeps s s := ⟨rfl, rfl, id, rfl⟩
theorem Keeps.trans {s t u : State} (h : Keeps s t) (k : Keeps t u) : Keeps s u :=
  ⟨k.pending.trans h.pending, k.sg.trans h.sg, (fun e => k.lock (h.lock e)), k.life.trans h.life⟩

theorem Keeps.after {s t u : State} (k : Keeps t u) (h : Keeps s t) : Keeps s u := h.trans k

theorem Keeps.ite {s a b : State} {c : Prop} [Decidable c] (h : Keeps s a) (k : Keeps s b) : Keeps s (if c then a else b) := by
  split
  · exact h
  · exact k

/-- A fold of steps each of which keeps them. -/
theorem Keeps.foldl {α : Type} (f : State → α → State) (h : ∀ s a, Keeps s (f s a)) (l : List α) (s : State) :
    Keeps s (l.foldl f s) := by
  induction l generalizing s with
  | nil => exact Keeps.refl s
  | cons a l ih => exact (h s a).trans (ih (f s a))

theorem onDp_keeps (f : Plane → Plane) (s : State) : Keeps s (onDp f s) := ⟨rfl, rfl, id, rfl⟩
theorem settled_keeps (s : State) : Keeps s (settled s) := ⟨by simp, by simp, by simp [locked], by simp⟩
theorem mgEvent_keeps (src : Nat) (code : BitVec 16) (data : BitVec 32) (pay : BitVec 128) (s : State) :
    Keeps s (mgEvent src code data pay s) := by unfold mgEvent; split <;> exact ⟨rfl, rfl, id, rfl⟩

/-- A management die with the debug lock and the life of another. -/
structure KeepsMg (m n : Mgmt) : Prop where
  lock : n.dbgLock = m.dbgLock
  life : n.life = m.life

theorem KeepsMg.refl (m : Mgmt) : KeepsMg m m := ⟨rfl, rfl⟩
theorem KeepsMg.trans {m n o : Mgmt} (h : KeepsMg m n) (k : KeepsMg n o) : KeepsMg m o :=
  ⟨k.lock.trans h.lock, k.life.trans h.life⟩
theorem KeepsMg.trans' {m n o : Mgmt} (k : KeepsMg n o) (h : KeepsMg m n) : KeepsMg m o := h.trans k
theorem KeepsMg.keeps {s : State} {m : Mgmt} {kn : Kiln} {side : Side} {mir : Mirror} {dp : Plane} {rc : Copies}
    (h : KeepsMg s.mg m) : Keeps s { mg := m, kn := kn, side := side, sg := s.sg, mir := mir, dp := dp, rc := rc,
                                     pending := s.pending } := ⟨rfl, rfl, (fun e => by unfold locked at *; rw [← e, ← h.lock]), h.life⟩

@[simp] theorem vectorMessage_dbgLock (v : Nat) (m : Mgmt) : (vectorMessage v m).dbgLock = m.dbgLock := by
  unfold vectorMessage; split <;> rfl
@[simp] theorem vectorMessage_life (v : Nat) (m : Mgmt) : (vectorMessage v m).life = m.life := by
  unfold vectorMessage; split <;> rfl
theorem unmasked_keeps (v : Nat) (m : Mgmt) : KeepsMg m (unmasked v m) := by
  unfold unmasked; split <;> constructor <;> simp
theorem coalesce_keeps (p : Plane) (v : Nat) (m : Mgmt) : KeepsMg m (coalesce p v m) := by
  unfold coalesce; dsimp only; split <;> constructor <;> simp
@[simp] theorem coalesce_dbgLock (p : Plane) (v : Nat) (m : Mgmt) : (coalesce p v m).dbgLock = m.dbgLock :=
  (coalesce_keeps p v m).lock
@[simp] theorem coalesce_life (p : Plane) (v : Nat) (m : Mgmt) : (coalesce p v m).life = m.life := (coalesce_keeps p v m).life
theorem ringReply_keeps (q : Nat) (opcode : BitVec 16) (status : BitVec 8) (seq : BitVec 32) (result : BitVec 192) (m : Mgmt) :
    KeepsMg m (ringReply q opcode status seq result m) := by
  unfold ringReply
  split
  · exact KeepsMg.refl m
  · dsimp only
    split <;> constructor <;> simp
theorem hostFault_keeps (q : Nat) (s : State) : Keeps s (hostFault q s) := by
  unfold hostFault
  refine (mgEvent_keeps _ _ _ _ _).after ?_
  exact ⟨rfl, rfl, id, rfl⟩
theorem replyTo_keeps (q : Nat) (ok : Bool) (opcode : BitVec 16) (status : BitVec 8) (seq : BitVec 32) (result : BitVec 192)
    (s : State) : Keeps s (replyTo q ok opcode status seq result s) := by
  unfold replyTo
  split
  · exact ⟨rfl, rfl, id, rfl⟩
  · exact Keeps.ite (hostFault_keeps q s) (ringReply_keeps q opcode status seq result s.mg).keeps
theorem queueErr_keeps (q : Nat) (code : BitVec 16) (s : State) : Keeps s (queueErr q code s) := by
  unfold queueErr
  refine (mgEvent_keeps _ _ _ _ _).after ?_
  exact ⟨rfl, rfl, id, rfl⟩
theorem spiOut_keeps (v : Option (BitVec 256)) (s : State) : Keeps s (spiOut v s) := by
  unfold spiOut; split <;> exact ⟨rfl, rfl, id, rfl⟩
theorem enterRow_keeps (h : Hdr) (s : State) : Keeps s (enterRow h s) := ⟨by simp, by simp, by simp [locked], by simp⟩
theorem portRecord_keeps (o : LongOp) (st : BitVec 8) (s : State) : Keeps s (portRecord o st s) :=
  Keeps.ite ⟨rfl, rfl, id, rfl⟩ (Keeps.refl s)
theorem sendDone_keeps (n : Nat) (s : State) : Keeps s (sendDone n s) := by
  unfold sendDone
  split
  · exact Keeps.refl s
  · rename_i o _
    split
    · exact Keeps.refl s
    · rename_i st _
      exact Keeps.ite (Keeps.refl s)
        (Keeps.ite ((onDp_keeps _ _).after (portRecord_keeps o st s)) ((onDp_keeps _ _).after (portRecord_keeps o st s)))
theorem sendStep_keeps (o : LongOp) (st : BitVec 8) (s : State) : Keeps s (sendStep o st s) :=
  Keeps.ite ((onDp_keeps _ _).after (portRecord_keeps o st s)) (portRecord_keeps o st s)
theorem endNow_keeps (f : Work → Bool) (status : BitVec 8) (s : State) : Keeps s (endNow f status s) := by
  unfold endNow
  exact Keeps.foldl _ (fun s a => (onDp_keeps _ s).trans (sendDone_keeps _ _)) _ s

/-! ### Command packets -/

theorem deny_keeps (status : BitVec 8) (s : State) : Keeps s (deny status s).1 := Keeps.refl s
theorem okay_keeps (result : BitVec 192) (s : State) : Keeps s (okay result s).1 := settled_keeps s
theorem okay_keeps' {s t : State} (result : BitVec 192) (h : Keeps s t) : Keeps s (okay result t).1 := h.trans (settled_keeps t)
theorem acceptOp_keeps (h : Hdr) (opcode : Nat) (w : Work) (f : State → State) (s : State) (hf : ∀ t, Keeps t (f t)) :
    Keeps s (acceptOp h opcode w f s).1 := by
  unfold acceptOp
  refine (settled_keeps _).after ((hf _).after ?_)
  exact ⟨rfl, rfl, id, rfl⟩
theorem startOp_keeps (h : Hdr) (opcode : Nat) (w : Work) (f : State → State) (s : State) (hf : ∀ t, Keeps t (f t)) :
    Keeps s (startOp h opcode w f s).1 := by
  unfold startOp
  split
  · exact Keeps.refl s
  · exact acceptOp_keeps h opcode w f s hf

/-- A command whose body keeps them. -/
def Command.Good (c : Command) : Prop := ∀ h s, Keeps s (c.body h s).1

theorem perform_keeps (h : Hdr) (c : Command) (hc : c.Good) (s : State) : Keeps s (perform' h c s).1 := by
  unfold perform'
  split
  · exact Keeps.refl s
  · exact hc h s
theorem conclude_keeps (h : Hdr) (opcode : Nat) (s : State) (r : Ret) (hr : Keeps s r.1) : Keeps s (conclude h opcode r) := by
  unfold conclude
  split
  · exact hr
  · exact hr.trans (replyTo_keeps _ _ _ _ _ _ _)
theorem direct_keeps (h : Hdr) (c : Command) (hc : c.Good) (s : State) : Keeps s (direct h c s) := by
  unfold direct
  split
  · exact ⟨rfl, rfl, id, rfl⟩
  · split
    · exact conclude_keeps _ _ _ _ ((enterRow_keeps h s).trans (perform_keeps _ _ hc _))
    · exact Keeps.refl s

end Sys2Proof.Machine
end

