-- ==== Sys2Proof/Laws/Bodies.lean ====
section
/-! SUPPORT. Every command packet leaves the queue, the Sagger, the debug lock and the life of the module alone (R358). -/
namespace Sys2Proof.Machine
open Sys2Proof

theorem onKiln_keeps (f : Kiln × Plane → Kiln × Plane) (s : State) : Keeps s (onKiln f s) := ⟨rfl, rfl, id, rfl⟩
theorem switchMode_keeps (f : Nat) (host : Bool) (s : State) : Keeps s (switchMode f host s) := by
  unfold switchMode
  split
  all_goals try exact onDp_keeps _ _
  · split
    · exact ⟨rfl, rfl, id, rfl⟩
    · exact Keeps.refl s
  · generalize releaseThrottles s.kn s.dp = x
    exact ⟨rfl, rfl, id, rfl⟩
  · generalize sampleAll s.kn s.dp = x
    exact ⟨rfl, rfl, id, rfl⟩
  · exact Keeps.refl s
theorem startWalk_keeps (h : Hdr) (opcode : Nat) (w : Work) (s : State) : Keeps s (startWalk h opcode w s).1 := by
  unfold startWalk
  refine startOp_keeps _ _ _ _ _ fun t => ?_
  split
  · exact Keeps.refl t
  · exact onDp_keeps _ t
theorem waits_keeps (h : HeldCmd) (s : State) : Keeps s (waits h s).1 := ⟨rfl, rfl, id, rfl⟩
theorem setwayAct_keeps (job n set way op : Nat) (lockedOk : Bool) (s : State) :
    Keeps s (setwayAct job n set way op lockedOk s).1 := by
  unfold setwayAct
  generalize maintain (some job) op lockedOk (wayKey n set way) (readTag n set way s.dp) = r
  exact (settled_keeps _).after ⟨rfl, rfl, id, rfl⟩
theorem setwayTry_keeps (h : HeldCmd) (n set way op : Nat) (lockedOk : Bool) (s : State) :
    Keeps s (setwayTry h n set way op lockedOk s).1 := by
  unfold setwayTry
  split
  · exact okay_keeps' _ ⟨rfl, rfl, id, rfl⟩
  · rename_i line _
    lift_lets
    intro id t
    have ht : Keeps s t := onDp_keeps (reachIntern .command line 0) s
    clear_value t
    split
    · exact (setwayAct_keeps _ _ _ _ _ _ t).after ht
    · exact (waits_keeps _ t).after ht
theorem injectAct_keeps (job kind line : Nat) (symbols : BitVec 72) (word bit0 bit1 : Nat) (s : State) :
    Keeps s (injectAct job kind line symbols word bit0 bit1 s).1 := by
  unfold injectAct
  lift_lets
  intro d
  have hd : ∀ f, Keeps s (d f).1 := fun f => okay_keeps' _ (onDp_keeps _ s)
  have hn : ∀ st, Keeps s (deny st (onDp (finish job) s)).1 := fun st => (deny_keeps st _).after (onDp_keeps (finish job) s)
  clear_value d
  split
  · exact hn _
  · split
    · exact hd _
    · split
      · exact hn _
      · exact hd _
    · exact hd _
theorem abandon_keeps (w : Work) (s : State) : Keeps s (abandon w s) := by
  unfold abandon
  repeat' split
  all_goals exact ⟨rfl, rfl, id, rfl⟩
theorem abortAll_keeps (s : State) : Keeps s (abortAll s) := by
  unfold abortAll
  refine Keeps.foldl _ (fun s o => ?_) _ s
  dsimp only
  split
  · exact (onDp_keeps _ _).after (abandon_keeps _ _)
  · exact (sendDone_keeps _ _).after ((onDp_keeps _ _).after (abandon_keeps _ _))
theorem beginWarm_keeps (s : State) : Keeps s (beginWarm s) := by
  unfold beginWarm
  dsimp only
  split
  · refine (onDp_keeps _ _).after ((abortAll_keeps _).after ?_)
    exact ⟨rfl, rfl, id, rfl⟩
  · refine (abortAll_keeps _).after ?_
    exact ⟨rfl, rfl, id, rfl⟩

theorem cmdDevInfo_good : (cmdDevInfo).Good := fun _ s => okay_keeps _ s
theorem cmdDevStatus_good : (cmdDevStatus).Good := fun _ s => okay_keeps _ s
theorem cmdFuncModeSet_good (func : Byte) (mode : Bool) : (cmdFuncModeSet func mode).Good := by
  intro h s
  dsimp only [cmdFuncModeSet]
  repeat' split
  all_goals first
    | exact deny_keeps _ _
    | exact okay_keeps' _ (onDp_keeps _ _)
    | exact okay_keeps _ _
    | exact okay_keeps' _ ((switchMode_keeps _ _ _).after (onDp_keeps _ _))
    | exact startOp_keeps _ _ _ _ _ fun t => onDp_keeps _ t
    | exact startOp_keeps _ _ _ _ _ fun t => Keeps.refl t
    | exact okay_keeps' _ ⟨rfl, rfl, id, rfl⟩
    | exact startOp_keeps _ _ _ _ _ fun t => ⟨rfl, rfl, id, rfl⟩
    | exact ⟨rfl, rfl, id, rfl⟩
theorem cmdFuncModeGet_good : (cmdFuncModeGet).Good := fun _ s => okay_keeps _ s
theorem cmdRegionSet_good (index : Byte) (entry : BitVec 128) : (cmdRegionSet index entry).Good := by
  intro h s
  dsimp only [cmdRegionSet]
  repeat' split
  all_goals first
    | exact deny_keeps _ _
    | exact okay_keeps' _ (onDp_keeps _ _)
    | exact okay_keeps _ _
    | exact startOp_keeps _ _ _ _ _ fun t => onDp_keeps _ t
    | exact startOp_keeps _ _ _ _ _ fun t => Keeps.refl t
    | exact okay_keeps' _ ⟨rfl, rfl, id, rfl⟩
    | exact startOp_keeps _ _ _ _ _ fun t => ⟨rfl, rfl, id, rfl⟩
    | exact ⟨rfl, rfl, id, rfl⟩
theorem cmdRegionGet_good (index : Byte) : (cmdRegionGet index).Good := fun _ s => okay_keeps _ s
theorem cmdCacheEnable_good : (cmdCacheEnable).Good := by
  intro h s
  dsimp only [cmdCacheEnable]
  repeat' split
  all_goals first
    | exact deny_keeps _ _
    | exact okay_keeps' _ (onDp_keeps _ _)
    | exact okay_keeps _ _
    | exact startOp_keeps _ _ _ _ _ fun t => onDp_keeps _ t
    | exact startOp_keeps _ _ _ _ _ fun t => Keeps.refl t
    | exact okay_keeps' _ ⟨rfl, rfl, id, rfl⟩
    | exact startOp_keeps _ _ _ _ _ fun t => ⟨rfl, rfl, id, rfl⟩
    | exact ⟨rfl, rfl, id, rfl⟩
theorem cmdCacheDisable_good : (cmdCacheDisable).Good := by
  intro h s
  dsimp only [cmdCacheDisable]
  repeat' split
  all_goals first
    | exact deny_keeps _ _
    | exact okay_keeps' _ (onDp_keeps _ _)
    | exact okay_keeps _ _
    | exact startOp_keeps _ _ _ _ _ fun t => onDp_keeps _ t
    | exact startOp_keeps _ _ _ _ _ fun t => Keeps.refl t
    | exact okay_keeps' _ ⟨rfl, rfl, id, rfl⟩
    | exact startOp_keeps _ _ _ _ _ fun t => ⟨rfl, rfl, id, rfl⟩
    | exact ⟨rfl, rfl, id, rfl⟩
theorem cmdCacheInvalidateAll_good : (cmdCacheInvalidateAll).Good := by
  intro h s
  dsimp only [cmdCacheInvalidateAll]
  repeat' split
  all_goals first
    | exact deny_keeps _ _
    | exact okay_keeps' _ (onDp_keeps _ _)
    | exact okay_keeps _ _
    | exact startOp_keeps _ _ _ _ _ fun t => onDp_keeps _ t
    | exact startOp_keeps _ _ _ _ _ fun t => Keeps.refl t
    | exact okay_keeps' _ ⟨rfl, rfl, id, rfl⟩
    | exact startOp_keeps _ _ _ _ _ fun t => ⟨rfl, rfl, id, rfl⟩
    | exact ⟨rfl, rfl, id, rfl⟩
theorem cmdCacheCleanAll_good : (cmdCacheCleanAll).Good := by
  intro h s
  dsimp only [cmdCacheCleanAll]
  repeat' split
  all_goals first
    | exact deny_keeps _ _
    | exact okay_keeps' _ (onDp_keeps _ _)
    | exact okay_keeps _ _
    | exact startWalk_keeps _ _ _ _
    | exact startOp_keeps _ _ _ _ _ fun t => onDp_keeps _ t
    | exact startOp_keeps _ _ _ _ _ fun t => Keeps.refl t
    | exact okay_keeps' _ ⟨rfl, rfl, id, rfl⟩
    | exact startOp_keeps _ _ _ _ _ fun t => ⟨rfl, rfl, id, rfl⟩
    | exact ⟨rfl, rfl, id, rfl⟩
theorem cmdRange_good (opcode : Nat) (w : Nat → Nat → Work) (base : Spa) (lines : BitVec 34) : (cmdRange opcode w base lines).Good := by
  intro h s
  dsimp only [cmdRange]
  repeat' split
  all_goals first
    | exact deny_keeps _ _
    | exact okay_keeps' _ (onDp_keeps _ _)
    | exact okay_keeps _ _
    | exact startWalk_keeps _ _ _ _
    | exact startOp_keeps _ _ _ _ _ fun t => onDp_keeps _ t
    | exact startOp_keeps _ _ _ _ _ fun t => Keeps.refl t
    | exact okay_keeps' _ ⟨rfl, rfl, id, rfl⟩
    | exact startOp_keeps _ _ _ _ _ fun t => ⟨rfl, rfl, id, rfl⟩
    | exact ⟨rfl, rfl, id, rfl⟩
theorem cmdCleanRange_good (base : Spa) (lines : BitVec 34) : (cmdCleanRange base lines).Good := cmdRange_good _ _ _ _
theorem cmdInvalRange_good (lockedOk : Bool) (base : Spa) (lines : BitVec 34) : (cmdInvalRange lockedOk base lines).Good := cmdRange_good _ _ _ _
theorem cmdClinvRange_good (base : Spa) (lines : BitVec 34) : (cmdClinvRange base lines).Good := cmdRange_good _ _ _ _
theorem cmdSetway_good (tile slice : Byte) (set : BitVec 16) (way op : Byte) (lockedOk : Bool) :
    (cmdSetway tile slice set way op lockedOk).Good := by
  intro h s
  simp only [cmdSetway]
  split
  · exact deny_keeps _ s
  · split
    · exact okay_keeps' _ ((onDp_keeps _ _).after (onDp_keeps _ s))
    · exact setwayTry_keeps _ _ _ _ _ _ s
theorem cmdWayLock_good (instn : Byte) (ways : BitVec 24) (slices : BitVec 64) : (cmdWayLock instn ways slices).Good := by
  intro h s
  dsimp only [cmdWayLock]
  repeat' split
  all_goals first
    | exact deny_keeps _ _
    | exact okay_keeps' _ (onDp_keeps _ _)
    | exact okay_keeps _ _
    | exact startOp_keeps _ _ _ _ _ fun t => onDp_keeps _ t
    | exact startOp_keeps _ _ _ _ _ fun t => Keeps.refl t
    | exact okay_keeps' _ ⟨rfl, rfl, id, rfl⟩
    | exact startOp_keeps _ _ _ _ _ fun t => ⟨rfl, rfl, id, rfl⟩
    | exact ⟨rfl, rfl, id, rfl⟩
theorem cmdWayUnlock_good (instn : Byte) (ways : BitVec 24) (slices : BitVec 64) : (cmdWayUnlock instn ways slices).Good := by
  intro h s
  dsimp only [cmdWayUnlock]
  repeat' split
  all_goals first
    | exact deny_keeps _ _
    | exact okay_keeps' _ (onDp_keeps _ _)
    | exact okay_keeps _ _
    | exact startOp_keeps _ _ _ _ _ fun t => onDp_keeps _ t
    | exact startOp_keeps _ _ _ _ _ fun t => Keeps.refl t
    | exact okay_keeps' _ ⟨rfl, rfl, id, rfl⟩
    | exact startOp_keeps _ _ _ _ _ fun t => ⟨rfl, rfl, id, rfl⟩
    | exact ⟨rfl, rfl, id, rfl⟩
theorem cmdLinePin_good (instn : Byte) (unpin : Bool) (lines : BitVec 32) (base : Spa) : (cmdLinePin instn unpin lines base).Good := by
  intro h s
  dsimp only [cmdLinePin]
  repeat' split
  all_goals first
    | exact deny_keeps _ _
    | exact okay_keeps' _ (onDp_keeps _ _)
    | exact okay_keeps _ _
    | exact startOp_keeps _ _ _ _ _ fun t => onDp_keeps _ t
    | exact startOp_keeps _ _ _ _ _ fun t => Keeps.refl t
    | exact okay_keeps' _ ⟨rfl, rfl, id, rfl⟩
    | exact startOp_keeps _ _ _ _ _ fun t => ⟨rfl, rfl, id, rfl⟩
    | exact ⟨rfl, rfl, id, rfl⟩
theorem cmdWayRetire_good (tile slc way : Byte) (restore : Bool) : (cmdWayRetire tile slc way restore).Good := by
  intro h s
  dsimp only [cmdWayRetire]
  repeat' split
  all_goals first
    | exact deny_keeps _ _
    | exact okay_keeps' _ (onDp_keeps _ _)
    | exact okay_keeps _ _
    | exact startOp_keeps _ _ _ _ _ fun t => onDp_keeps _ t
    | exact startOp_keeps _ _ _ _ _ fun t => Keeps.refl t
    | exact okay_keeps' _ ⟨rfl, rfl, id, rfl⟩
    | exact startOp_keeps _ _ _ _ _ fun t => ⟨rfl, rfl, id, rfl⟩
    | exact ⟨rfl, rfl, id, rfl⟩
theorem cmdReplayDescSet_good (desc : Byte) (d : BitVec 256) : (cmdReplayDescSet desc d).Good := by
  intro h s
  dsimp only [cmdReplayDescSet]
  repeat' split
  all_goals first
    | exact deny_keeps _ _
    | exact okay_keeps' _ (onDp_keeps _ _)
    | exact okay_keeps _ _
    | exact startOp_keeps _ _ _ _ _ fun t => onDp_keeps _ t
    | exact startOp_keeps _ _ _ _ _ fun t => Keeps.refl t
    | exact okay_keeps' _ ⟨rfl, rfl, id, rfl⟩
    | exact startOp_keeps _ _ _ _ _ fun t => ⟨rfl, rfl, id, rfl⟩
    | exact ⟨rfl, rfl, id, rfl⟩
theorem cmdInstCreate_good (instn op : Byte) (share : BitVec 32) (mem : BitVec 256) : (cmdInstCreate instn op share mem).Good := by
  intro h s
  dsimp only [cmdInstCreate]
  repeat' split
  all_goals first
    | exact deny_keeps _ _
    | exact okay_keeps' _ (onDp_keeps _ _)
    | exact okay_keeps _ _
    | exact startOp_keeps _ _ _ _ _ fun t => onDp_keeps _ t
    | exact startOp_keeps _ _ _ _ _ fun t => Keeps.refl t
    | exact okay_keeps' _ ⟨rfl, rfl, id, rfl⟩
    | exact startOp_keeps _ _ _ _ _ fun t => ⟨rfl, rfl, id, rfl⟩
    | exact ⟨rfl, rfl, id, rfl⟩
theorem cmdInstDestroy_good (instn : Byte) : (cmdInstDestroy instn).Good := by
  intro h s
  dsimp only [cmdInstDestroy]
  repeat' split
  all_goals first
    | exact deny_keeps _ _
    | exact okay_keeps' _ (onDp_keeps _ _)
    | exact okay_keeps _ _
    | exact startOp_keeps _ _ _ _ _ fun t => (endNow_keeps _ _ _).after (onDp_keeps _ t)
    | exact startOp_keeps _ _ _ _ _ fun t => onDp_keeps _ t
    | exact startOp_keeps _ _ _ _ _ fun t => Keeps.refl t
    | exact okay_keeps' _ ⟨rfl, rfl, id, rfl⟩
    | exact startOp_keeps _ _ _ _ _ fun t => ⟨rfl, rfl, id, rfl⟩
    | exact ⟨rfl, rfl, id, rfl⟩
theorem cmdInstReset_good (instn step : Byte) (drainUs : BitVec 16) : (cmdInstReset instn step drainUs).Good := by
  intro h s
  dsimp only [cmdInstReset]
  repeat' split
  all_goals first
    | exact deny_keeps _ _
    | exact okay_keeps' _ (onDp_keeps _ _)
    | exact okay_keeps _ _
    | exact startOp_keeps _ _ _ _ _ fun t => onDp_keeps _ t
    | exact startOp_keeps _ _ _ _ _ fun t => Keeps.refl t
    | exact okay_keeps' _ ⟨rfl, rfl, id, rfl⟩
    | exact startOp_keeps _ _ _ _ _ fun t => ⟨rfl, rfl, id, rfl⟩
    | exact ⟨rfl, rfl, id, rfl⟩
theorem cmdInstShareSet_good (instn : Byte) (share : BitVec 32) : (cmdInstShareSet instn share).Good := by
  intro h s
  dsimp only [cmdInstShareSet]
  repeat' split
  all_goals first
    | exact deny_keeps _ _
    | exact okay_keeps' _ (onDp_keeps _ _)
    | exact okay_keeps _ _
    | exact (acceptOp_keeps _ _ _ _ _ fun t => onDp_keeps _ t).after (endNow_keeps _ _ _)
    | exact startOp_keeps _ _ _ _ _ fun t => onDp_keeps _ t
    | exact startOp_keeps _ _ _ _ _ fun t => Keeps.refl t
    | exact okay_keeps' _ ⟨rfl, rfl, id, rfl⟩
    | exact startOp_keeps _ _ _ _ _ fun t => ⟨rfl, rfl, id, rfl⟩
    | exact ⟨rfl, rfl, id, rfl⟩
theorem cmdInstWindowSet_good (instn window : Byte) (entry : BitVec 256) : (cmdInstWindowSet instn window entry).Good := by
  intro h s
  dsimp only [cmdInstWindowSet]
  repeat' split
  all_goals first
    | exact deny_keeps _ _
    | exact okay_keeps' _ (onDp_keeps _ _)
    | exact okay_keeps _ _
    | exact startOp_keeps _ _ _ _ _ fun t => onDp_keeps _ t
    | exact startOp_keeps _ _ _ _ _ fun t => Keeps.refl t
    | exact okay_keeps' _ ⟨rfl, rfl, id, rfl⟩
    | exact startOp_keeps _ _ _ _ _ fun t => ⟨rfl, rfl, id, rfl⟩
    | exact ⟨rfl, rfl, id, rfl⟩
theorem cmdInstStatus_good (instn part : Byte) : (cmdInstStatus instn part).Good := by
  intro h s
  dsimp only [cmdInstStatus]
  repeat' split
  all_goals first
    | exact deny_keeps _ _
    | exact okay_keeps' _ (onDp_keeps _ _)
    | exact okay_keeps _ _
    | exact startOp_keeps _ _ _ _ _ fun t => onDp_keeps _ t
    | exact startOp_keeps _ _ _ _ _ fun t => Keeps.refl t
    | exact okay_keeps' _ ⟨rfl, rfl, id, rfl⟩
    | exact startOp_keeps _ _ _ _ _ fun t => ⟨rfl, rfl, id, rfl⟩
    | exact ⟨rfl, rfl, id, rfl⟩
theorem cmdJoinNodeIdSet_good (node : BitVec 16) : (cmdJoinNodeIdSet node).Good := by
  intro h s
  dsimp only [cmdJoinNodeIdSet]
  repeat' split
  all_goals first
    | exact deny_keeps _ _
    | exact okay_keeps' _ (onDp_keeps _ _)
    | exact okay_keeps _ _
    | exact startOp_keeps _ _ _ _ _ fun t => onDp_keeps _ t
    | exact startOp_keeps _ _ _ _ _ fun t => Keeps.refl t
    | exact okay_keeps' _ ⟨rfl, rfl, id, rfl⟩
    | exact startOp_keeps _ _ _ _ _ fun t => ⟨rfl, rfl, id, rfl⟩
    | exact ⟨rfl, rfl, id, rfl⟩
theorem cmdJoinLinkUp_good (lnk : Byte) (expect : Bool) (peer : BitVec 14) : (cmdJoinLinkUp lnk expect peer).Good := by
  intro h s
  dsimp only [cmdJoinLinkUp]
  repeat' split
  all_goals first
    | exact deny_keeps _ _
    | exact okay_keeps' _ (onDp_keeps _ _)
    | exact okay_keeps _ _
    | exact startOp_keeps _ _ _ _ _ fun t => onDp_keeps _ t
    | exact startOp_keeps _ _ _ _ _ fun t => Keeps.refl t
    | exact okay_keeps' _ ⟨rfl, rfl, id, rfl⟩
    | exact startOp_keeps _ _ _ _ _ fun t => ⟨rfl, rfl, id, rfl⟩
    | exact ⟨rfl, rfl, id, rfl⟩
theorem cmdJoinRouteSet_good (multi : Bool) (lnk : Byte) (first count : BitVec 16) (entry : BitVec 64) (dl : Bool) : (cmdJoinRouteSet multi lnk first count entry dl).Good := by
  intro h s
  dsimp only [cmdJoinRouteSet]
  repeat' split
  all_goals first
    | exact deny_keeps _ _
    | exact okay_keeps' _ (onDp_keeps _ _)
    | exact okay_keeps _ _
    | exact startOp_keeps _ _ _ _ _ fun t => onDp_keeps _ t
    | exact startOp_keeps _ _ _ _ _ fun t => Keeps.refl t
    | exact okay_keeps' _ ⟨rfl, rfl, id, rfl⟩
    | exact startOp_keeps _ _ _ _ _ fun t => ⟨rfl, rfl, id, rfl⟩
    | exact ⟨rfl, rfl, id, rfl⟩
theorem cmdMapEpochPrepare_good (epoch : BitVec 16) (chunk : Byte) (vector : BitVec 256) : (cmdMapEpochPrepare epoch chunk vector).Good := by
  intro h s
  dsimp only [cmdMapEpochPrepare]
  repeat' split
  all_goals first
    | exact deny_keeps _ _
    | exact okay_keeps' _ (onDp_keeps _ _)
    | exact okay_keeps _ _
    | exact startOp_keeps _ _ _ _ _ fun t => onDp_keeps _ t
    | exact startOp_keeps _ _ _ _ _ fun t => Keeps.refl t
    | exact okay_keeps' _ ⟨rfl, rfl, id, rfl⟩
    | exact startOp_keeps _ _ _ _ _ fun t => ⟨rfl, rfl, id, rfl⟩
    | exact ⟨rfl, rfl, id, rfl⟩
theorem cmdMapEpochCommit_good (epoch : BitVec 16) (at_ : BitVec 64) : (cmdMapEpochCommit epoch at_).Good := by
  intro h s
  dsimp only [cmdMapEpochCommit]
  repeat' split
  all_goals first
    | exact deny_keeps _ _
    | exact okay_keeps' _ (onDp_keeps _ _)
    | exact okay_keeps _ _
    | exact startOp_keeps _ _ _ _ _ fun t => onDp_keeps _ t
    | exact startOp_keeps _ _ _ _ _ fun t => Keeps.refl t
    | exact okay_keeps' _ ⟨rfl, rfl, id, rfl⟩
    | exact startOp_keeps _ _ _ _ _ fun t => ⟨rfl, rfl, id, rfl⟩
    | exact ⟨rfl, rfl, id, rfl⟩
theorem cmdNodeLeave_good (step : Byte) : (cmdNodeLeave step).Good := by
  intro h s
  dsimp only [cmdNodeLeave]
  repeat' split
  all_goals first
    | exact deny_keeps _ _
    | exact okay_keeps' _ (onDp_keeps _ _)
    | exact okay_keeps _ _
    | exact startOp_keeps _ _ _ _ _ fun t => onDp_keeps _ t
    | exact startOp_keeps _ _ _ _ _ fun t => Keeps.refl t
    | exact okay_keeps' _ ⟨rfl, rfl, id, rfl⟩
    | exact startOp_keeps _ _ _ _ _ fun t => ⟨rfl, rfl, id, rfl⟩
    | exact ⟨rfl, rfl, id, rfl⟩
theorem cmdMemTrain_good (mode : Byte) (channels : BitVec 64) : (cmdMemTrain mode channels).Good := by
  intro h s
  dsimp only [cmdMemTrain]
  repeat' split
  all_goals first
    | exact deny_keeps _ _
    | exact okay_keeps' _ (onDp_keeps _ _)
    | exact okay_keeps _ _
    | exact startOp_keeps _ _ _ _ _ fun t => onDp_keeps _ t
    | exact startOp_keeps _ _ _ _ _ fun t => Keeps.refl t
    | exact okay_keeps' _ ⟨rfl, rfl, id, rfl⟩
    | exact startOp_keeps _ _ _ _ _ fun t => ⟨rfl, rfl, id, rfl⟩
    | exact ⟨rfl, rfl, id, rfl⟩
theorem cmdMemChannelEvacuate_good (channel : Byte) (clearRecord : Bool) : (cmdMemChannelEvacuate channel clearRecord).Good := by
  intro h s
  dsimp only [cmdMemChannelEvacuate]
  repeat' split
  all_goals first
    | exact deny_keeps _ _
    | exact okay_keeps' _ (onDp_keeps _ _)
    | exact okay_keeps _ _
    | exact startOp_keeps _ _ _ _ _ fun t => onDp_keeps _ t
    | exact startOp_keeps _ _ _ _ _ fun t => Keeps.refl t
    | exact okay_keeps' _ ⟨rfl, rfl, id, rfl⟩
    | exact startOp_keeps _ _ _ _ _ fun t => ⟨rfl, rfl, id, rfl⟩
    | exact ⟨rfl, rfl, id, rfl⟩
theorem cmdMemPageRetire_good (mode channel bank : Byte) (row : BitVec 32) (spa : Spa) : (cmdMemPageRetire mode channel bank row spa).Good := by
  intro h s
  dsimp only [cmdMemPageRetire]
  repeat' split
  all_goals first
    | exact deny_keeps _ _
    | exact okay_keeps' _ (onDp_keeps _ _)
    | exact okay_keeps _ _
    | exact startOp_keeps _ _ _ _ _ fun t => onDp_keeps _ t
    | exact startOp_keeps _ _ _ _ _ fun t => Keeps.refl t
    | exact okay_keeps' _ ⟨rfl, rfl, id, rfl⟩
    | exact startOp_keeps _ _ _ _ _ fun t => ⟨rfl, rfl, id, rfl⟩
    | exact ⟨rfl, rfl, id, rfl⟩
theorem cmdEccScrubCfg_good (op dramHours sramHours : Byte) (base : Spa) (lines : BitVec 34) : (cmdEccScrubCfg op dramHours sramHours base lines).Good := by
  intro h s
  dsimp only [cmdEccScrubCfg]
  repeat' split
  all_goals first
    | exact deny_keeps _ _
    | exact okay_keeps' _ (onDp_keeps _ _)
    | exact okay_keeps _ _
    | exact startOp_keeps _ _ _ _ _ fun t => onDp_keeps _ t
    | exact startOp_keeps _ _ _ _ _ fun t => Keeps.refl t
    | exact okay_keeps' _ ⟨rfl, rfl, id, rfl⟩
    | exact startOp_keeps _ _ _ _ _ fun t => ⟨rfl, rfl, id, rfl⟩
    | exact ⟨rfl, rfl, id, rfl⟩
theorem cmdEccCountRead_good (tile kind index : Byte) (clear : Bool) : (cmdEccCountRead tile kind index clear).Good := by
  intro h s
  dsimp only [cmdEccCountRead]
  repeat' split
  all_goals first
    | exact deny_keeps _ _
    | exact okay_keeps' _ (onDp_keeps _ _)
    | exact okay_keeps _ _
    | exact startOp_keeps _ _ _ _ _ fun t => onDp_keeps _ t
    | exact startOp_keeps _ _ _ _ _ fun t => Keeps.refl t
    | exact okay_keeps' _ ⟨rfl, rfl, id, rfl⟩
    | exact startOp_keeps _ _ _ _ _ fun t => ⟨rfl, rfl, id, rfl⟩
    | exact ⟨rfl, rfl, id, rfl⟩
theorem cmdMarginReplan_good (op : Byte) (planId : BitVec 32) (islands : BitVec 128) : (cmdMarginReplan op planId islands).Good := by
  intro h s
  dsimp only [cmdMarginReplan]
  repeat' split
  all_goals first
    | exact deny_keeps _ _
    | exact okay_keeps' _ (onDp_keeps _ _)
    | exact okay_keeps _ _
    | exact startOp_keeps _ _ _ _ _ fun t => (sendDone_keeps _ _).after ((onDp_keeps _ _).after (onKiln_keeps _ t))
    | exact startOp_keeps _ _ _ _ _ fun t => onDp_keeps _ t
    | exact startOp_keeps _ _ _ _ _ fun t => Keeps.refl t
    | exact okay_keeps' _ ⟨rfl, rfl, id, rfl⟩
    | exact startOp_keeps _ _ _ _ _ fun t => ⟨rfl, rfl, id, rfl⟩
    | exact ⟨rfl, rfl, id, rfl⟩
theorem cmdMarginLedgerRead_good (index : BitVec 16) : (cmdMarginLedgerRead index).Good := by
  intro h s
  dsimp only [cmdMarginLedgerRead]
  repeat' split
  all_goals first
    | exact deny_keeps _ _
    | exact okay_keeps' _ (onDp_keeps _ _)
    | exact okay_keeps _ _
    | exact startOp_keeps _ _ _ _ _ fun t => onDp_keeps _ t
    | exact startOp_keeps _ _ _ _ _ fun t => Keeps.refl t
    | exact okay_keeps' _ ⟨rfl, rfl, id, rfl⟩
    | exact startOp_keeps _ _ _ _ _ fun t => ⟨rfl, rfl, id, rfl⟩
    | exact ⟨rfl, rfl, id, rfl⟩
theorem cmdThermalCfg_good (isl : Byte) (freqCap powerCap : BitVec 16) : (cmdThermalCfg isl freqCap powerCap).Good := by
  intro h s
  by_cases hb : (127 < isl.toNat ∧ isl ≠ 255) ∨ freqOk freqCap.toNat = false ∨ powerOk powerCap.toNat = false
  · simp only [cmdThermalCfg, if_pos hb]
    exact deny_keeps _ _
  · simp only [cmdThermalCfg, if_neg hb]
    exact okay_keeps' _ ⟨rfl, rfl, id, rfl⟩
theorem cmdDomainPower_good (domain : Byte) (on : Bool) : (cmdDomainPower domain on).Good := by
  intro h s
  dsimp only [cmdDomainPower]
  repeat' split
  all_goals first
    | exact deny_keeps _ _
    | exact okay_keeps' _ (onDp_keeps _ _)
    | exact okay_keeps _ _
    | exact startOp_keeps _ _ _ _ _ fun t => (mgEvent_keeps _ _ _ _ _).after ⟨rfl, rfl, id, rfl⟩
    | exact startOp_keeps _ _ _ _ _ fun t => onDp_keeps _ t
    | exact startOp_keeps _ _ _ _ _ fun t => Keeps.refl t
    | exact okay_keeps' _ ⟨rfl, rfl, id, rfl⟩
    | exact startOp_keeps _ _ _ _ _ fun t => ⟨rfl, rfl, id, rfl⟩
    | exact ⟨rfl, rfl, id, rfl⟩
theorem cmdOdoConfig_good (counter event : BitVec 16) (flags : BitVec 6) (user : Byte) (filters : BitVec 256) : (cmdOdoConfig counter event flags user filters).Good := by
  intro h s
  dsimp only [cmdOdoConfig]
  repeat' split
  all_goals first
    | exact deny_keeps _ _
    | exact okay_keeps' _ (onDp_keeps _ _)
    | exact okay_keeps _ _
    | exact startOp_keeps _ _ _ _ _ fun t => onDp_keeps _ t
    | exact startOp_keeps _ _ _ _ _ fun t => Keeps.refl t
    | exact okay_keeps' _ ⟨rfl, rfl, id, rfl⟩
    | exact startOp_keeps _ _ _ _ _ fun t => ⟨rfl, rfl, id, rfl⟩
    | exact ⟨rfl, rfl, id, rfl⟩
theorem cmdOdoSnapshot_good (first count : BitVec 16) (clear : Bool) (dest : BitVec 64) : (cmdOdoSnapshot first count clear dest).Good := by
  intro h s
  dsimp only [cmdOdoSnapshot]
  repeat' split
  all_goals first
    | exact deny_keeps _ _
    | exact okay_keeps' _ (onDp_keeps _ _)
    | exact okay_keeps _ _
    | exact startOp_keeps _ _ _ _ _ fun t => onDp_keeps _ t
    | exact startOp_keeps _ _ _ _ _ fun t => Keeps.refl t
    | exact okay_keeps' _ ⟨rfl, rfl, id, rfl⟩
    | exact startOp_keeps _ _ _ _ _ fun t => ⟨rfl, rfl, id, rfl⟩
    | exact ⟨rfl, rfl, id, rfl⟩
theorem cmdHistConfig_good (hist : Byte) (event : BitVec 16) (flags : BitVec 6) (filters : BitVec 256) : (cmdHistConfig hist event flags filters).Good := by
  intro h s
  dsimp only [cmdHistConfig]
  repeat' split
  all_goals first
    | exact deny_keeps _ _
    | exact okay_keeps' _ (onDp_keeps _ _)
    | exact okay_keeps _ _
    | exact startOp_keeps _ _ _ _ _ fun t => onDp_keeps _ t
    | exact startOp_keeps _ _ _ _ _ fun t => Keeps.refl t
    | exact okay_keeps' _ ⟨rfl, rfl, id, rfl⟩
    | exact startOp_keeps _ _ _ _ _ fun t => ⟨rfl, rfl, id, rfl⟩
    | exact ⟨rfl, rfl, id, rfl⟩
theorem cmdPerturbSet_good (engine target mode : Byte) (value valueMax : BitVec 16) (pattern seed : BitVec 64) : (cmdPerturbSet engine target mode value valueMax pattern seed).Good := by
  intro h s
  dsimp only [cmdPerturbSet]
  repeat' split
  all_goals first
    | exact deny_keeps _ _
    | exact okay_keeps' _ (onDp_keeps _ _)
    | exact okay_keeps _ _
    | exact startOp_keeps _ _ _ _ _ fun t => onDp_keeps _ t
    | exact startOp_keeps _ _ _ _ _ fun t => Keeps.refl t
    | exact okay_keeps' _ ⟨rfl, rfl, id, rfl⟩
    | exact startOp_keeps _ _ _ _ _ fun t => ⟨rfl, rfl, id, rfl⟩
    | exact ⟨rfl, rfl, id, rfl⟩
theorem cmdPerturbClear_good : (cmdPerturbClear).Good := by
  intro h s
  dsimp only [cmdPerturbClear]
  repeat' split
  all_goals first
    | exact deny_keeps _ _
    | exact okay_keeps' _ (onDp_keeps _ _)
    | exact okay_keeps _ _
    | exact startOp_keeps _ _ _ _ _ fun t => onDp_keeps _ t
    | exact startOp_keeps _ _ _ _ _ fun t => Keeps.refl t
    | exact okay_keeps' _ ⟨rfl, rfl, id, rfl⟩
    | exact startOp_keeps _ _ _ _ _ fun t => ⟨rfl, rfl, id, rfl⟩
    | exact ⟨rfl, rfl, id, rfl⟩
theorem cmdErrInject_good (kind target : Byte) (count : BitVec 16) (spa : Spa) (symbols : BitVec 72) (word bit0 bit1 : Byte) :
    (cmdErrInject kind target count spa symbols word bit0 bit1).Good := by
  intro h s
  simp only [cmdErrInject]
  split
  · exact deny_keeps _ s
  · split
    · split
      · exact okay_keeps' _ (onDp_keeps _ s)
      · exact deny_keeps _ s
    · split
      · exact deny_keeps _ s
      · generalize ht : onDp (reachIntern .command (spaLine spa) 0) s = t
        have h1 : Keeps s t := ht ▸ onDp_keeps _ s
        split
        · exact (injectAct_keeps _ _ _ _ _ _ _ t).after h1
        · exact (waits_keeps _ t).after h1
theorem cmdFwStage_good (offset length : BitVec 32) (src : BitVec 64) (final : Bool) (bytes : List Byte) :
    (cmdFwStage offset length src final bytes).Good := by
  intro h s
  dsimp only [cmdFwStage]
  repeat' split
  all_goals first
    | exact deny_keeps _ _
    | refine startOp_keeps _ _ _ _ _ fun t => ?_
  unfold setSlot
  split <;> exact ⟨rfl, rfl, id, rfl⟩
theorem cmdFwActivate_good (slot when_ : Byte) : (cmdFwActivate slot when_).Good := by
  intro h s
  dsimp only [cmdFwActivate]
  repeat' split
  all_goals first
    | exact deny_keeps _ _
    | exact okay_keeps' _ (onDp_keeps _ _)
    | exact okay_keeps _ _
    | exact startOp_keeps _ _ _ _ _ fun t => onDp_keeps _ t
    | exact startOp_keeps _ _ _ _ _ fun t => Keeps.refl t
    | exact okay_keeps' _ ⟨rfl, rfl, id, rfl⟩
    | exact startOp_keeps _ _ _ _ _ fun t => ⟨rfl, rfl, id, rfl⟩
    | exact ⟨rfl, rfl, id, rfl⟩
theorem cmdFwInfo_good : (cmdFwInfo).Good := fun _ s => okay_keeps _ s
theorem cmdSaggerStatus_good : (cmdSaggerStatus).Good := fun _ s => okay_keeps _ s
theorem cmdLinkTrain_good (prt mode : Byte) : (cmdLinkTrain prt mode).Good := by
  intro h s
  dsimp only [cmdLinkTrain]
  repeat' split
  all_goals first
    | exact deny_keeps _ _
    | exact okay_keeps' _ (onDp_keeps _ _)
    | exact okay_keeps _ _
    | exact startOp_keeps _ _ _ _ _ fun t => onDp_keeps _ t
    | exact startOp_keeps _ _ _ _ _ fun t => Keeps.refl t
    | exact okay_keeps' _ ⟨rfl, rfl, id, rfl⟩
    | exact startOp_keeps _ _ _ _ _ fun t => ⟨rfl, rfl, id, rfl⟩
    | exact ⟨rfl, rfl, id, rfl⟩
theorem cmdLinkStatus_good (kind index : Byte) : (cmdLinkStatus kind index).Good := by
  intro h s
  dsimp only [cmdLinkStatus]
  repeat' split
  all_goals first
    | exact deny_keeps _ _
    | exact okay_keeps' _ (onDp_keeps _ _)
    | exact okay_keeps _ _
    | exact startOp_keeps _ _ _ _ _ fun t => onDp_keeps _ t
    | exact startOp_keeps _ _ _ _ _ fun t => Keeps.refl t
    | exact okay_keeps' _ ⟨rfl, rfl, id, rfl⟩
    | exact startOp_keeps _ _ _ _ _ fun t => ⟨rfl, rfl, id, rfl⟩
    | exact ⟨rfl, rfl, id, rfl⟩
theorem cmdDevResetWarm_good : (cmdDevResetWarm).Good := by
  intro h s
  dsimp only [cmdDevResetWarm]
  repeat' split
  all_goals first
    | exact deny_keeps _ _
    | exact okay_keeps' _ (onDp_keeps _ _)
    | exact okay_keeps _ _
    | exact startOp_keeps _ _ _ _ _ beginWarm_keeps
    | exact startOp_keeps _ _ _ _ _ fun t => onDp_keeps _ t
    | exact startOp_keeps _ _ _ _ _ fun t => Keeps.refl t
    | exact okay_keeps' _ ⟨rfl, rfl, id, rfl⟩
    | exact startOp_keeps _ _ _ _ _ fun t => ⟨rfl, rfl, id, rfl⟩
    | exact ⟨rfl, rfl, id, rfl⟩
theorem cmdDevPowerState_good (state : Byte) : (cmdDevPowerState state).Good := by
  intro h s
  dsimp only [cmdDevPowerState]
  repeat' split
  all_goals first
    | exact deny_keeps _ _
    | exact okay_keeps' _ (onDp_keeps _ _)
    | exact okay_keeps _ _
    | exact startOp_keeps _ _ _ _ _ fun t => onDp_keeps _ t
    | exact startOp_keeps _ _ _ _ _ fun t => Keeps.refl t
    | exact okay_keeps' _ ⟨rfl, rfl, id, rfl⟩
    | exact startOp_keeps _ _ _ _ _ fun t => ⟨rfl, rfl, id, rfl⟩
    | exact ⟨rfl, rfl, id, rfl⟩

end Sys2Proof.Machine
end

