-- ==== Sys2Proof/Laws/Controls.lean ====
section
/-! SUPPORT. Register writes, firings, votes, held commands, long operations and packets leave the queue, the Sagger and the life
of the module alone, and never clear the debug lock (R328, R358). -/
namespace Sys2Proof.Machine
open Sys2Proof

/-! ### Staging and firing -/

theorem stage_keeps (a : Nat) (v : Reg) (s : State) : Keeps s (stage a v s) := ⟨rfl, rfl, id, rfl⟩
theorem fireGroup_keeps (g : Nat) (s : State) : Keeps s (fireGroup g s) := by
  unfold fireGroup; split <;> exact ⟨rfl, rfl, id, rfl⟩
theorem fireWrite_keeps (v : Reg) (s : State) : Keeps s (fireWrite v s) :=
  Keeps.foldl _ (fun s g => fireGroup_keeps g s) _ s
theorem plane_keeps (p : Plane) (s : State) : Keeps s { s with dp := p } := ⟨rfl, rfl, id, rfl⟩
theorem applyReg_keeps (a : Nat) (v : Reg) (s : State) : Keeps s (applyReg a v s) := by
  unfold applyReg
  extract_lets keep v' src p s1 s2
  have h1 : Keeps s s1 := plane_keeps _ _
  have h2 : Keeps s s2 := Keeps.ite ((stage_keeps _ _ s1).after h1) h1
  clear_value s2
  split
  · exact h2
  · exact Keeps.ite ((plane_keeps _ s2).after h2) (Keeps.ite ((plane_keeps _ s2).after h2)
      (Keeps.ite ((plane_keeps _ s2).after h2) (Keeps.ite ((plane_keeps _ s2).after h2) h2)))
theorem applySnap_keeps (unit : Nat) (snap : Table Reg) (s : State) : Keeps s (applySnap unit snap s) := by
  unfold applySnap
  lift_lets
  intro m t
  have ht : Keeps s t :=
    Keeps.foldl (fun s (x : Nat × Reg) => applyReg x.1 x.2 s) (fun s x => applyReg_keeps x.1 x.2 s) _ s
  clear_value t m
  exact Keeps.ite ht (Keeps.after (t := t) ⟨rfl, rfl, id, rfl⟩ ht)
theorem applyFire_keeps (g unit : Nat) (s : State) : Keeps s (applyFire g unit s) := by
  unfold applyFire
  split
  · exact Keeps.refl s
  · dsimp only
    split
    · exact Keeps.refl s
    · refine (applySnap_keeps _ _ _).after ?_
      exact ⟨rfl, rfl, id, rfl⟩
theorem applyAllFires_keeps (s : State) : Keeps s (applyAllFires s) :=
  Keeps.foldl (fun s (x : Nat × Firing) => x.2.units.foldl (fun s u => applyFire x.1 u s) s)
    (fun s x => Keeps.foldl _ (fun s u => applyFire_keeps x.1 u s) _ s) _ s

/-! ### The key gate and the controls -/

theorem keyWrite_keeps (v : Reg) (s : State) : Keeps s (keyWrite v s) := by
  unfold keyWrite
  split
  · exact ⟨rfl, rfl, id, rfl⟩
  · refine (mgEvent_keeps _ _ _ _ _).after ?_
    exact ⟨rfl, rfl, id, rfl⟩
theorem devCtrlWrite_keeps (v : Reg) (s : State) : Keeps s (devCtrlWrite v s) := by
  unfold devCtrlWrite
  dsimp only
  split
  · split
    · exact ⟨rfl, rfl, fun _ => rfl, rfl⟩
    · exact ⟨rfl, rfl, id, rfl⟩
  · refine (mgEvent_keeps _ _ _ _ _).after ?_
    exact ⟨rfl, rfl, id, rfl⟩
theorem ringCtrlWrite_keeps (q : Nat) (v : Reg) (s : State) : Keeps s (ringCtrlWrite q v s) := ⟨rfl, rfl, id, rfl⟩
theorem ringBaseWrite_keeps (q word : Nat) (v : Reg) (s : State) : Keeps s (ringBaseWrite q word v s) := by
  unfold ringBaseWrite
  dsimp only
  split
  · exact queueErr_keeps _ _ _
  · exact ⟨rfl, rfl, id, rfl⟩
theorem evCtrlWrite_keeps (v : Reg) (s : State) : Keeps s (evCtrlWrite v s) := by
  unfold evCtrlWrite
  dsimp only
  repeat' split
  all_goals exact ⟨rfl, rfl, id, rfl⟩
theorem evBaseWrite_keeps (high : Bool) (v : Reg) (s : State) : Keeps s (evBaseWrite high v s) := by
  unfold evBaseWrite
  dsimp only
  repeat' split
  all_goals exact ⟨rfl, rfl, id, rfl⟩
theorem setMsix_keeps (m : Mgmt) (v : Nat) (e : BitVec 128) : KeepsMg m (setMsix m v e) := ⟨rfl, rfl⟩
theorem msixWrite_keeps (v w : Nat) (x : Reg) (s : State) : Keeps s (msixWrite v w x s) := by
  unfold msixWrite
  lift_lets
  intro _ _ e'
  exact ((unmasked_keeps v _).trans' (setMsix_keeps s.mg v e')).keeps
theorem ringWrite_keeps (q o : Nat) (v : Reg) (s : State) : Keeps s (ringWrite q o v s) := by
  unfold ringWrite
  split
  · exact ringBaseWrite_keeps _ _ _ _
  · exact ringBaseWrite_keeps _ _ _ _
  · exact ringBaseWrite_keeps _ _ _ _
  · exact ringBaseWrite_keeps _ _ _ _
  · exact ringCtrlWrite_keeps _ _ _
  · exact Keeps.ite ⟨rfl, rfl, id, rfl⟩ (Keeps.refl s)
  · exact Keeps.refl s
theorem evWrite_keeps (o : Nat) (v : Reg) (s : State) : Keeps s (evWrite o v s) := by
  unfold evWrite
  split
  · exact evBaseWrite_keeps _ _ _
  · exact evBaseWrite_keeps _ _ _
  · exact evCtrlWrite_keeps _ _
  · exact ⟨rfl, rfl, id, rfl⟩
  · exact Keeps.ite ⟨rfl, rfl, id, rfl⟩ (Keeps.refl s)
  · exact Keeps.ite (Keeps.refl s) (stage_keeps _ _ _)
theorem regWrite_keeps (a : Nat) (v : Reg) (s : State) : Keeps s (regWrite a v s) :=
  Keeps.ite (Keeps.ite ⟨rfl, rfl, id, rfl⟩ (Keeps.refl s)) <|
  Keeps.ite (devCtrlWrite_keeps _ _) <|
  Keeps.ite ⟨rfl, rfl, id, rfl⟩ <|
  Keeps.ite (msixWrite_keeps _ _ _ _) <|
  Keeps.ite (fireWrite_keeps _ _) <|
  Keeps.ite ⟨rfl, rfl, id, rfl⟩ <|
  Keeps.ite (Keeps.ite (ringWrite_keeps _ _ _ _) (Keeps.refl s)) <|
  Keeps.ite (evWrite_keeps _ _ _) <|
  Keeps.ite (Keeps.ite ⟨rfl, rfl, id, rfl⟩ (Keeps.refl s)) <|
  Keeps.ite (keyWrite_keeps _ _) <|
  Keeps.ite (Keeps.ite ⟨rfl, rfl, id, rfl⟩ (Keeps.refl s)) <|
  Keeps.ite (Keeps.refl s) (stage_keeps _ _ _)

/-! ### Votes (R226, R324) -/

/-- Mending copies never changes what they vote for. -/
theorem vote_mend {α : Type} [DecidableEq α] (v : Voted α) : vote (mend v).1 = vote v := by
  unfold mend
  split
  · rfl
  · split
    · rfl
    · simp [vote, three]
/-- A field that is put back is read again; the fields beside it stay. -/
theorem fieldOf_putField (m : Reg) (f v : Voted Reg) : fieldOf m (putField m (fieldOf m f) v) = fieldOf m f := by
  simp only [fieldOf, putField, Voted.mk.injEq]
  refine ⟨?_, ?_, ?_⟩ <;> (ext i; simp; grind)
theorem noteVote_keeps (a n splits : Nat) (s : State) : Keeps s (noteVote a n splits s) := by
  unfold noteVote
  refine (Keeps.foldl _ (fun s _ => mgEvent_keeps _ _ _ _ s) _ _).after ?_
  exact Keeps.ite (Keeps.refl s) ⟨rfl, rfl, id, rfl⟩
theorem mendReg_keeps (a : Nat) (s : State) : Keeps s (mendReg a s) := by
  unfold mendReg
  refine Keeps.ite ?_ (Keeps.ite ?_ (Keeps.ite ?_ (Keeps.refl s)))
  · refine (noteVote_keeps _ _ _ _).after ⟨rfl, rfl, fun e => ?_, rfl⟩
    unfold locked at *
    rw [vote_mend]
    exact e
  · exact (noteVote_keeps _ _ _ _).after ⟨rfl, rfl, id, rfl⟩
  · exact (noteVote_keeps _ _ _ _).after ⟨rfl, rfl, id, rfl⟩

/-! ### Held commands and packets -/

theorem heldReply_keeps (h : HeldCmd) (s : State) (r : Ret) (hr : Keeps s r.1) : Keeps s (heldReply h r) := by
  unfold heldReply
  split
  · exact hr
  · refine Keeps.ite ?_ ((replyTo_keeps _ _ _ _ _ _ _).after ?_) <;> exact Keeps.after (t := r.1) ⟨rfl, rfl, id, rfl⟩ hr
theorem retryHeld_keeps (s : State) : Keeps s (retryHeld s) := by
  unfold retryHeld
  split
  · exact Keeps.refl s
  · split
    · exact Keeps.ite (heldReply_keeps _ _ _ ((setwayTry_keeps _ _ _ _ _ _ _).after (onDp_keeps _ s)))
        (Keeps.ite (heldReply_keeps _ _ _ (setwayAct_keeps _ _ _ _ _ _ s)) (Keeps.refl s))
    · exact Keeps.ite (heldReply_keeps _ _ _ (injectAct_keeps _ _ _ _ _ _ _ s)) (Keeps.refl s)

theorem packetCache_good (x : BitVec 512) (c : Command) (h : packetCache x = some c) : c.Good := by
  unfold packetCache at h
  split at h
  all_goals try cases h
  all_goals apply_rules [cmdDevInfo_good, cmdDevStatus_good, cmdDevResetWarm_good, cmdDevPowerState_good, cmdFuncModeSet_good,
    cmdFuncModeGet_good, cmdRegionSet_good, cmdRegionGet_good, cmdCacheEnable_good, cmdCacheDisable_good,
    cmdCacheInvalidateAll_good, cmdCacheCleanAll_good, cmdCleanRange_good, cmdInvalRange_good, cmdClinvRange_good,
    cmdSetway_good, cmdWayLock_good, cmdWayUnlock_good, cmdLinePin_good, cmdWayRetire_good, cmdReplayDescSet_good]
theorem packetJoin_good (x : BitVec 512) (c : Command) (h : packetJoin x = some c) : c.Good := by
  unfold packetJoin at h
  split at h
  all_goals try cases h
  all_goals apply_rules [cmdInstCreate_good, cmdInstDestroy_good, cmdInstReset_good, cmdInstShareSet_good,
    cmdInstWindowSet_good, cmdInstStatus_good, cmdJoinNodeIdSet_good, cmdJoinLinkUp_good, cmdJoinRouteSet_good,
    cmdMapEpochPrepare_good, cmdMapEpochCommit_good, cmdNodeLeave_good]
theorem packetMem_good (x : BitVec 512) (c : Command) (h : packetMem x = some c) : c.Good := by
  unfold packetMem at h
  split at h
  all_goals try cases h
  all_goals apply_rules [cmdMemTrain_good, cmdMemChannelEvacuate_good, cmdMemPageRetire_good, cmdEccScrubCfg_good,
    cmdEccCountRead_good]
theorem packetKiln_good (x : BitVec 512) (c : Command) (h : packetKiln x = some c) : c.Good := by
  unfold packetKiln at h
  split at h
  all_goals try cases h
  all_goals apply_rules [cmdMarginReplan_good, cmdMarginLedgerRead_good, cmdThermalCfg_good, cmdDomainPower_good,
    cmdOdoConfig_good, cmdOdoSnapshot_good, cmdHistConfig_good]
theorem packetUnit_good (x : BitVec 512) (bytes : List Byte) (c : Command) (h : packetUnit x bytes = some c) : c.Good := by
  unfold packetUnit at h
  split at h
  all_goals try cases h
  · exact cmdPerturbSet_good _ _ _ _ _ _ _
  · exact cmdPerturbClear_good
  · exact cmdErrInject_good _ _ _ _ _ _ _ _
  · exact cmdFwStage_good _ _ _ _ _
  · exact cmdFwActivate_good _ _
  · exact cmdFwInfo_good
  · exact cmdSaggerStatus_good
  · exact cmdLinkTrain_good _ _
  · exact cmdLinkStatus_good _ _
theorem packetCmd_good (x : BitVec 512) (bytes : List Byte) (c : Command) (h : packetCmd x bytes = some c) : c.Good := by
  unfold packetCmd at h
  split at h
  · rename_i h1; cases h; exact packetCache_good _ _ h1
  · rename_i h1; cases h; exact packetJoin_good _ _ h1
  · rename_i h1; cases h; exact packetMem_good _ _ h1
  · rename_i h1; cases h; exact packetKiln_good _ _ h1
  · exact packetUnit_good _ _ _ h
theorem startPacket_keeps (q : Fin 5) (ok : Bool) (x : BitVec 512) (bytes : List Byte) (s : State) :
    Keeps s (startPacket q ok x bytes s) := by
  unfold startPacket
  dsimp only
  split
  · exact replyTo_keeps _ _ _ _ _ _ _
  · rename_i c hc
    exact conclude_keeps _ _ _ _ (perform_keeps _ _ (packetCmd_good _ _ _ hc) _)

end Sys2Proof.Machine
end

