-- ==== Sys2Proof/Laws/Memory.lean ====
section
/-! SUPPORT. The array of DRAM symbols: every operation that writes it keeps its canonical form (R413). -/
namespace Sys2Proof.Machine
open Sys2Proof

theorem putSyms_wf (d : Table Byte) (base : Nat) (w : List Nat) (k : Nat) (h : twf 0 d = true) :
    twf 0 (putSyms d base w k) = true := by
  induction w generalizing d k with
  | nil => exact h
  | cons s t ih => exact ih _ _ (twf_tput _ _ _ _ h)

theorem foldl_tput_wf (xs : List Nat) (key : Nat → Nat) (f : Table Byte → Nat → Byte) (d : Table Byte) (h : twf 0 d = true) :
    twf 0 (xs.foldl (fun (t : Table Byte) k => tput 0 t (key k) (f t k)) d) = true := by
  induction xs generalizing d with
  | nil => exact h
  | cons x xs ih => exact ih _ (twf_tput _ _ _ _ h)

/-- A stored line keeps the form. -/
theorem dramPut_wf (p : Plane) (ch raw : Nat) (w : List Nat) (h : twf 0 p.dram = true) :
    twf 0 (dramPut p ch raw w).dram = true := putSyms_wf _ _ _ _ h

/-- An injected error keeps the form. -/
theorem corruptDram_wf (line : Nat) (symbols : BitVec 72) (p : Plane) (h : twf 0 p.dram = true) :
    twf 0 (corruptDram line symbols p).dram = true := foldl_tput_wf _ _ _ _ h

/-- The word a line holds after it is stored. -/
theorem putSyms_get (d : Table Byte) (base : Nat) (w : List Nat) (k j : Nat) :
    tget 0 (putSyms d base w k) j =
      if base + k ≤ j ∧ j < base + k + w.length then BitVec.ofNat 8 (w.getD (j - (base + k)) 0) else tget 0 d j := by
  induction w generalizing d k with
  | nil =>
    have : ¬ (base + k ≤ j ∧ j < base + k + 0) := by omega
    simp only [putSyms, List.length_nil, if_neg this]
  | cons s t ih =>
    simp only [putSyms, ih, tget_tput, List.length_cons]
    by_cases h0 : j = base + k
    · subst h0
      have h1 : ¬ (base + (k + 1) ≤ base + k ∧ base + k < base + (k + 1) + t.length) := by omega
      have h2 : base + k ≤ base + k ∧ base + k < base + k + (t.length + 1) := by omega
      simp [h1]
    · by_cases h1 : base + (k + 1) ≤ j ∧ j < base + (k + 1) + t.length
      · have h2 : base + k ≤ j ∧ j < base + k + (t.length + 1) := by omega
        have h3 : j - (base + k) = (j - (base + (k + 1))) + 1 := by omega
        rw [if_pos h1, if_pos h2, h3]; simp
      · have h2 : ¬ (base + k ≤ j ∧ j < base + k + (t.length + 1)) := by omega
        rw [if_neg h1, if_neg h2, if_neg h0]

end Sys2Proof.Machine
end

