-- ==== Sys2Proof/Laws/Packets.lean ====
section
/-! SUPPORT. Command packet rows: a row is its command, taken where it is the next packet of its queue, and carried out where the
queue, key, lock and recovery service allow it (R290, R298, R299). -/
namespace Sys2Proof.Machine
open Sys2Proof

/-- A packet row is its command. -/
theorem exec_packet (c : Instr) (h : Hdr) (cmd : Command) (s : State) (e : commandOf c = some (h, cmd)) :
    exec c s = .next (direct h cmd s) := by
  cases c <;> simp only [commandOf, Option.some.injEq, Prod.mk.injEq, reduceCtorEq] at e
  all_goals obtain ⟨rfl, rfl⟩ := e; rfl

@[simp] theorem locked_enterRow (h : Hdr) (s : State) : locked (enterRow h s) = locked s := by simp [locked]
@[simp] theorem gate_enterRow (h : Hdr) (c : Command) (s : State) : gate h c (enterRow h s) = gate h c s := by simp [gate]

/-- A row that is the next packet of its queue is carried out. -/
theorem direct_ready (h : Hdr) (cmd : Command) (s : State) (r : rowReady h s = true) :
    direct h cmd s = conclude h cmd.opcode (perform' h cmd (enterRow h s)) := by
  unfold direct
  rw [if_neg, if_pos r]
  rintro ⟨hq, -, hb⟩
  unfold rowReady at r
  rw [if_pos hq] at r
  rcases hb with hb | hb
  · simp [hb] at r
  · rw [Option.isSome_iff_ne_none, ne_eq, ← Option.isNone_iff_eq_none] at hb
    simp [hb] at r

/-- A refused row. -/
theorem exec_refused (c : Instr) (h : Hdr) (cmd : Command) (s : State) (st : BitVec 8) (e : commandOf c = some (h, cmd))
    (r : rowReady h s = true) (g : gate h cmd s = some st) : exec c s = turnedAway h cmd.opcode st 0 s := by
  rw [exec_packet c h cmd s e, direct_ready h cmd s r]
  simp [perform', g, deny, conclude, turnedAway]

/-- A row that nothing refuses before its own body. -/
theorem exec_admitted (c : Instr) (h : Hdr) (cmd : Command) (s : State) (e : commandOf c = some (h, cmd))
    (r : rowReady h s = true) (g : gate h cmd s = none) :
    exec c s = .next (conclude h cmd.opcode (cmd.body h (enterRow h s))) := by
  rw [exec_packet c h cmd s e, direct_ready h cmd s r]
  simp [perform', g]

/-- A row that its queue and key may give is carried out by its body. -/
theorem exec_given (c : Instr) (h : Hdr) (cmd : Command) (s : State) {qs : List Nat} {keyed : Bool}
    (m : mayGive qs keyed h s) (e : commandOf c = some (h, cmd)) (hq : ∀ q ∈ qs, cmd.queues.testBit q = true)
    (hk : cmd.keyed = true → keyed = true) (hl : cmd.noLock = true → locked s = false) :
    exec c s = .next (conclude h cmd.opcode (cmd.body h (enterRow h s))) := by
  obtain ⟨r, hlife, hin, hkey, hlock⟩ := m
  refine exec_admitted c h cmd s e r ?_
  unfold gate
  have h2 := hq _ hin
  unfold rightsOf at h2 hlock
  rw [if_neg, if_neg]
  · simp [hlife]
  · rintro (⟨h3, h4⟩ | ⟨h3, -⟩ | h3 | ⟨h3, h4⟩ | ⟨h3, h4⟩)
    · exact hlock h4 h3
    · exact hlife h3
    · rw [h2] at h3; cases h3
    · exact h4 (hkey (hk h3))
    · rw [hl h3] at h4; cases h4

end Sys2Proof.Machine
end

