-- ==== Sys2Proof/Laws/PerInstr.lean ====
section
/-! SUPPORT. A fact of every command as syntax: a command packet can be given whatever its parameters are, the bytes of FW_STAGE
apart (R308). -/
namespace Sys2Proof.Laws.Wf
open Sys2Proof
open Sys2Proof.Machine

/-- A command packet is well formed, or an FW_STAGE. -/
def Statement (c : Instr) : Prop :=
  (commandOf c).isSome = true → c.wf = true ∨ ∃ h o l f b, c = .fwStage h o l f b

theorem devInfo : ∀ a, Statement (.devInfo a) := fun _ _ => .inl rfl
theorem devStatus : ∀ a, Statement (.devStatus a) := fun _ _ => .inl rfl
theorem devResetWarm : ∀ a, Statement (.devResetWarm a) := fun _ _ => .inl rfl
theorem devPowerState : ∀ a b, Statement (.devPowerState a b) := fun _ _ _ => .inl rfl
theorem funcModeSet : ∀ a b c, Statement (.funcModeSet a b c) := fun _ _ _ _ => .inl rfl
theorem funcModeGet : ∀ a, Statement (.funcModeGet a) := fun _ _ => .inl rfl
theorem regionSet : ∀ a b c, Statement (.regionSet a b c) := fun _ _ _ _ => .inl rfl
theorem regionGet : ∀ a b, Statement (.regionGet a b) := fun _ _ _ => .inl rfl
theorem cacheEnable : ∀ a, Statement (.cacheEnable a) := fun _ _ => .inl rfl
theorem cacheDisable : ∀ a, Statement (.cacheDisable a) := fun _ _ => .inl rfl
theorem cacheInvalidateAll : ∀ a, Statement (.cacheInvalidateAll a) := fun _ _ => .inl rfl
theorem cacheCleanAll : ∀ a, Statement (.cacheCleanAll a) := fun _ _ => .inl rfl
theorem cacheCleanRange : ∀ a b c, Statement (.cacheCleanRange a b c) := fun _ _ _ _ => .inl rfl
theorem cacheInvalRange : ∀ a b c d, Statement (.cacheInvalRange a b c d) := fun _ _ _ _ _ => .inl rfl
theorem cacheClinvRange : ∀ a b c, Statement (.cacheClinvRange a b c) := fun _ _ _ _ => .inl rfl
theorem cacheSetwayOp : ∀ a b c d e f g, Statement (.cacheSetwayOp a b c d e f g) := fun _ _ _ _ _ _ _ _ => .inl rfl
theorem wayLock : ∀ a b c d, Statement (.wayLock a b c d) := fun _ _ _ _ _ => .inl rfl
theorem wayUnlock : ∀ a b c d, Statement (.wayUnlock a b c d) := fun _ _ _ _ _ => .inl rfl
theorem linePin : ∀ a b c d e, Statement (.linePin a b c d e) := fun _ _ _ _ _ _ => .inl rfl
theorem wayRetire : ∀ a b c d e, Statement (.wayRetire a b c d e) := fun _ _ _ _ _ _ => .inl rfl
theorem replayDescSet : ∀ a b c, Statement (.replayDescSet a b c) := fun _ _ _ _ => .inl rfl
theorem instCreate : ∀ a b c d e, Statement (.instCreate a b c d e) := fun _ _ _ _ _ _ => .inl rfl
theorem instDestroy : ∀ a b, Statement (.instDestroy a b) := fun _ _ _ => .inl rfl
theorem instReset : ∀ a b c d, Statement (.instReset a b c d) := fun _ _ _ _ _ => .inl rfl
theorem instShareSet : ∀ a b c, Statement (.instShareSet a b c) := fun _ _ _ _ => .inl rfl
theorem instWindowSet : ∀ a b c d, Statement (.instWindowSet a b c d) := fun _ _ _ _ _ => .inl rfl
theorem instStatus : ∀ a b c, Statement (.instStatus a b c) := fun _ _ _ _ => .inl rfl
theorem joinNodeIdSet : ∀ a b, Statement (.joinNodeIdSet a b) := fun _ _ _ => .inl rfl
theorem joinLinkUp : ∀ a b c d, Statement (.joinLinkUp a b c d) := fun _ _ _ _ _ => .inl rfl
theorem joinRouteSet : ∀ a b c d e f g, Statement (.joinRouteSet a b c d e f g) := fun _ _ _ _ _ _ _ _ => .inl rfl
theorem mapEpochPrepare : ∀ a b c d, Statement (.mapEpochPrepare a b c d) := fun _ _ _ _ _ => .inl rfl
theorem mapEpochCommit : ∀ a b c, Statement (.mapEpochCommit a b c) := fun _ _ _ _ => .inl rfl
theorem nodeLeave : ∀ a b, Statement (.nodeLeave a b) := fun _ _ _ => .inl rfl
theorem memTrain : ∀ a b c, Statement (.memTrain a b c) := fun _ _ _ _ => .inl rfl
theorem memChannelEvacuate : ∀ a b c, Statement (.memChannelEvacuate a b c) := fun _ _ _ _ => .inl rfl
theorem memPageRetire : ∀ a b c d e f, Statement (.memPageRetire a b c d e f) := fun _ _ _ _ _ _ _ => .inl rfl
theorem eccScrubCfg : ∀ a b c d e f, Statement (.eccScrubCfg a b c d e f) := fun _ _ _ _ _ _ _ => .inl rfl
theorem eccCountRead : ∀ a b c d e, Statement (.eccCountRead a b c d e) := fun _ _ _ _ _ _ => .inl rfl
theorem marginReplan : ∀ a b c d, Statement (.marginReplan a b c d) := fun _ _ _ _ _ => .inl rfl
theorem marginLedgerRead : ∀ a b, Statement (.marginLedgerRead a b) := fun _ _ _ => .inl rfl
theorem thermalCfg : ∀ a b c d, Statement (.thermalCfg a b c d) := fun _ _ _ _ _ => .inl rfl
theorem domainPower : ∀ a b c, Statement (.domainPower a b c) := fun _ _ _ _ => .inl rfl
theorem odoConfig : ∀ a b c d e f, Statement (.odoConfig a b c d e f) := fun _ _ _ _ _ _ _ => .inl rfl
theorem odoSnapshot : ∀ a b c d e, Statement (.odoSnapshot a b c d e) := fun _ _ _ _ _ _ => .inl rfl
theorem histConfig : ∀ a b c d e, Statement (.histConfig a b c d e) := fun _ _ _ _ _ _ => .inl rfl
theorem perturbSet : ∀ a b c d e f g h, Statement (.perturbSet a b c d e f g h) := fun _ _ _ _ _ _ _ _ _ => .inl rfl
theorem perturbClear : ∀ a, Statement (.perturbClear a) := fun _ _ => .inl rfl
theorem errInject : ∀ a b c d e f g h i, Statement (.errInject a b c d e f g h i) := fun _ _ _ _ _ _ _ _ _ _ => .inl rfl
theorem fwStage : ∀ a b c d e, Statement (.fwStage a b c d e) := fun _ _ _ _ _ _ => .inr ⟨_, _, _, _, _, rfl⟩
theorem fwActivate : ∀ a b c, Statement (.fwActivate a b c) := fun _ _ _ _ => .inl rfl
theorem fwInfo : ∀ a, Statement (.fwInfo a) := fun _ _ => .inl rfl
theorem saggerStatus : ∀ a, Statement (.saggerStatus a) := fun _ _ => .inl rfl
theorem linkTrain : ∀ a b c, Statement (.linkTrain a b c) := fun _ _ _ _ => .inl rfl
theorem linkStatus : ∀ a b c, Statement (.linkStatus a b c) := fun _ _ _ _ => .inl rfl
theorem sqTail : ∀ a b c, Statement (.sqTail a b c) := fun _ _ _ h => nomatch h
theorem rqHead : ∀ a b, Statement (.rqHead a b) := fun _ _ h => nomatch h
theorem commandStart : ∀ a b, Statement (.commandStart a b) := fun _ _ h => nomatch h
theorem spiCmd : ∀ a, Statement (.spiCmd a) := fun _ h => nomatch h
theorem spiReply : Statement .spiReply := fun h => nomatch h
theorem spiStat : Statement .spiStat := fun h => nomatch h
theorem spiCompl : Statement .spiCompl := fun h => nomatch h
theorem mtrStatus : Statement .mtrStatus := fun h => nomatch h
theorem mtrTime : Statement .mtrTime := fun h => nomatch h
theorem windowRead : ∀ a, Statement (.windowRead a) := fun _ h => nomatch h
theorem auditRead : ∀ a, Statement (.auditRead a) := fun _ h => nomatch h
theorem paramGet : ∀ a b, Statement (.paramGet a b) := fun _ _ h => nomatch h
theorem paramSet : ∀ a b c, Statement (.paramSet a b c) := fun _ _ _ h => nomatch h
theorem setTime : ∀ a, Statement (.setTime a) := fun _ h => nomatch h
theorem cfgFire : ∀ a, Statement (.cfgFire a) := fun _ h => nomatch h
theorem fireApply : ∀ a b, Statement (.fireApply a b) := fun _ _ h => nomatch h
theorem keyGate : ∀ a, Statement (.keyGate a) := fun _ h => nomatch h
theorem devCtrl : ∀ a, Statement (.devCtrl a) := fun _ h => nomatch h
theorem cmdqCtrl : ∀ a b, Statement (.cmdqCtrl a b) := fun _ _ h => nomatch h
theorem cmdqBaseWrite : ∀ a b c, Statement (.cmdqBaseWrite a b c) := fun _ _ _ h => nomatch h
theorem evtCtrl : ∀ a, Statement (.evtCtrl a) := fun _ h => nomatch h
theorem evtHead : ∀ a, Statement (.evtHead a) := fun _ h => nomatch h
theorem lowWordRead : ∀ a, Statement (.lowWordRead a) := fun _ h => nomatch h
theorem registerWrite : ∀ a b c, Statement (.registerWrite a b c) := fun _ _ _ h => nomatch h
theorem smbusRead : ∀ a, Statement (.smbusRead a) := fun _ h => nomatch h
theorem smbusWrite : ∀ a b c, Statement (.smbusWrite a b c) := fun _ _ _ h => nomatch h
theorem alertResponse : Statement .alertResponse := fun h => nomatch h
theorem tapInstructionLoad : ∀ a b, Statement (.tapInstructionLoad a b) := fun _ _ h => nomatch h
theorem powerOn : ∀ a, Statement (.powerOn a) := fun _ h => nomatch h
theorem coldReset : ∀ a, Statement (.coldReset a) := fun _ h => nomatch h
theorem vinLoss : Statement .vinLoss := fun h => nomatch h
theorem overVoltageStop : Statement .overVoltageStop := fun h => nomatch h
theorem regulatorFault : ∀ a, Statement (.regulatorFault a) := fun _ h => nomatch h
theorem endpointDisable : Statement .endpointDisable := fun h => nomatch h
theorem vsagPowerUp : Statement .vsagPowerUp := fun h => nomatch h
theorem vsagRemoval : Statement .vsagRemoval := fun h => nomatch h
theorem flitReceive : ∀ a b c, Statement (.flitReceive a b c) := fun _ _ _ h => nomatch h
theorem retryReq : ∀ a b, Statement (.retryReq a b) := fun _ _ h => nomatch h
theorem retryReqRepeat : ∀ a, Statement (.retryReqRepeat a) := fun _ h => nomatch h
theorem param : ∀ a b, Statement (.param a b) := fun _ _ h => nomatch h
theorem jparam : ∀ a b, Statement (.jparam a b) := fun _ _ h => nomatch h
theorem signalLoss : ∀ a, Statement (.signalLoss a) := fun _ h => nomatch h
theorem trainingStepTimeout : ∀ a, Statement (.trainingStepTimeout a) := fun _ h => nomatch h
theorem trainingRestart : ∀ a, Statement (.trainingRestart a) := fun _ h => nomatch h
theorem trainingEnd : ∀ a b, Statement (.trainingEnd a b) := fun _ _ h => nomatch h
theorem containTimeout : ∀ a, Statement (.containTimeout a) := fun _ h => nomatch h
theorem reqRdShared : ∀ a b, Statement (.reqRdShared a b) := fun _ _ h => nomatch h
theorem reqRdUnique : ∀ a b, Statement (.reqRdUnique a b) := fun _ _ h => nomatch h
theorem reqRdOnce : ∀ a b, Statement (.reqRdOnce a b) := fun _ _ h => nomatch h
theorem reqCleanUnique : ∀ a b, Statement (.reqCleanUnique a b) := fun _ _ h => nomatch h
theorem reqWrFull : ∀ a b, Statement (.reqWrFull a b) := fun _ _ h => nomatch h
theorem reqWrPartial : ∀ a b, Statement (.reqWrPartial a b) := fun _ _ h => nomatch h
theorem reqLdRsv : ∀ a b, Statement (.reqLdRsv a b) := fun _ _ h => nomatch h
theorem reqStCond : ∀ a b, Statement (.reqStCond a b) := fun _ _ h => nomatch h
theorem reqAtAdd : ∀ a b, Statement (.reqAtAdd a b) := fun _ _ h => nomatch h
theorem reqAtSwap : ∀ a b, Statement (.reqAtSwap a b) := fun _ _ h => nomatch h
theorem reqAtCas : ∀ a b, Statement (.reqAtCas a b) := fun _ _ h => nomatch h
theorem reqIoRd : ∀ a b, Statement (.reqIoRd a b) := fun _ _ h => nomatch h
theorem reqIoWr : ∀ a b, Statement (.reqIoWr a b) := fun _ _ h => nomatch h
theorem reqFence : ∀ a b, Statement (.reqFence a b) := fun _ _ h => nomatch h
theorem evnWbData : ∀ a b, Statement (.evnWbData a b) := fun _ _ h => nomatch h
theorem datData : ∀ a b, Statement (.datData a b) := fun _ _ h => nomatch h
theorem datDataPoison : ∀ a b, Statement (.datDataPoison a b) := fun _ _ h => nomatch h
theorem rspI : ∀ a b, Statement (.rspI a b) := fun _ _ h => nomatch h
theorem rspS : ∀ a b, Statement (.rspS a b) := fun _ _ h => nomatch h
theorem rspIWbpend : ∀ a b, Statement (.rspIWbpend a b) := fun _ _ h => nomatch h
theorem rspComp : ∀ a b, Statement (.rspComp a b) := fun _ _ h => nomatch h
theorem rspCompErr : ∀ a b, Statement (.rspCompErr a b) := fun _ _ h => nomatch h
theorem rspCompAck : ∀ a b, Statement (.rspCompAck a b) := fun _ _ h => nomatch h
theorem rspLevel : ∀ a b, Statement (.rspLevel a b) := fun _ _ h => nomatch h
theorem relRelease : ∀ a b, Statement (.relRelease a b) := fun _ _ h => nomatch h
theorem acceptanceNotice : ∀ a b, Statement (.acceptanceNotice a b) := fun _ _ h => nomatch h
theorem visibilityNotice : ∀ a b, Statement (.visibilityNotice a b) := fun _ _ h => nomatch h
theorem rspScFailRpt : ∀ a b, Statement (.rspScFailRpt a b) := fun _ _ h => nomatch h
theorem rspLinkFailover : ∀ a b c, Statement (.rspLinkFailover a b c) := fun _ _ _ h => nomatch h
theorem failoverNoticeTimeout : ∀ a, Statement (.failoverNoticeTimeout a) := fun _ h => nomatch h
theorem multicastCopy : ∀ a b c d e, Statement (.multicastCopy a b c d e) := fun _ _ _ _ _ h => nomatch h
theorem joinSnoopDelivery : ∀ a b c d, Statement (.joinSnoopDelivery a b c d) := fun _ _ _ _ h => nomatch h
theorem originAnswerDelivery : ∀ a b c d e, Statement (.originAnswerDelivery a b c d e) := fun _ _ _ _ _ h => nomatch h
theorem messageForward : ∀ a b, Statement (.messageForward a b) := fun _ _ h => nomatch h
theorem transactionStart : ∀ a, Statement (.transactionStart a) := fun _ h => nomatch h
theorem fetchedData : ∀ a, Statement (.fetchedData a) := fun _ h => nomatch h
theorem broadcastToken : ∀ a, Statement (.broadcastToken a) := fun _ h => nomatch h
theorem rsvHold : ∀ a b, Statement (.rsvHold a b) := fun _ _ h => nomatch h
theorem admission : ∀ a, Statement (.admission a) := fun _ h => nomatch h
theorem dmcQueueGrant : ∀ a b, Statement (.dmcQueueGrant a b) := fun _ _ h => nomatch h
theorem dramCommandIssue : ∀ a, Statement (.dramCommandIssue a) := fun _ h => nomatch h
theorem refreshDue : ∀ a b, Statement (.refreshDue a b) := fun _ _ h => nomatch h
theorem pageIdleTimer : ∀ a b, Statement (.pageIdleTimer a b) := fun _ _ h => nomatch h
theorem devicePowerDown : ∀ a, Statement (.devicePowerDown a) := fun _ h => nomatch h
theorem starve : ∀ a b, Statement (.starve a b) := fun _ _ h => nomatch h
theorem retrainDue : ∀ a, Statement (.retrainDue a) := fun _ h => nomatch h
theorem retrainDeferralExpiry : ∀ a, Statement (.retrainDeferralExpiry a) := fun _ h => nomatch h
theorem retrainPauseEnd : ∀ a b, Statement (.retrainPauseEnd a b) := fun _ _ h => nomatch h
theorem evacuationCopy : ∀ a, Statement (.evacuationCopy a) := fun _ h => nomatch h
theorem glazePassRead : ∀ a, Statement (.glazePassRead a) := fun _ h => nomatch h
theorem sramPassRead : ∀ a, Statement (.sramPassRead a) := fun _ h => nomatch h
theorem rangeScrubRead : ∀ a, Statement (.rangeScrubRead a) := fun _ h => nomatch h
theorem rowRetirement : ∀ a b c, Statement (.rowRetirement a b c) := fun _ _ _ h => nomatch h
theorem rowCopy : ∀ a, Statement (.rowCopy a) := fun _ h => nomatch h
theorem trackerExpiry : ∀ a b c, Statement (.trackerExpiry a b c) := fun _ _ _ h => nomatch h
theorem replayPrefetch : ∀ a, Statement (.replayPrefetch a) := fun _ h => nomatch h
theorem maintenanceLineOp : ∀ a, Statement (.maintenanceLineOp a) := fun _ h => nomatch h
theorem hopperAcceptance : ∀ a, Statement (.hopperAcceptance a) := fun _ h => nomatch h
theorem hopperReadResume : ∀ a, Statement (.hopperReadResume a) := fun _ h => nomatch h
theorem fenceComplete : ∀ a, Statement (.fenceComplete a) := fun _ h => nomatch h
theorem ioWrSend : ∀ a, Statement (.ioWrSend a) := fun _ h => nomatch h
theorem ioTimeout : ∀ a b, Statement (.ioTimeout a b) := fun _ _ h => nomatch h
theorem hopDrainStall : ∀ a, Statement (.hopDrainStall a) := fun _ h => nomatch h
theorem squash : ∀ a, Statement (.squash a) := fun _ h => nomatch h
theorem ismResetStall : ∀ a, Statement (.ismResetStall a) := fun _ h => nomatch h
theorem resetComplete : ∀ a, Statement (.resetComplete a) := fun _ h => nomatch h
theorem epochBoundary : ∀ a b c, Statement (.epochBoundary a b c) := fun _ _ _ h => nomatch h
theorem temperatureSample : ∀ a b c d e, Statement (.temperatureSample a b c d e) := fun _ _ _ _ _ h => nomatch h
theorem canaryReading : ∀ a b, Statement (.canaryReading a b) := fun _ _ h => nomatch h
theorem periodicPlan : Statement .periodicPlan := fun h => nomatch h
theorem retuneEnd : ∀ a, Statement (.retuneEnd a) := fun _ h => nomatch h
theorem islandClockGate : ∀ a, Statement (.islandClockGate a) := fun _ h => nomatch h
theorem eventWrite : ∀ a, Statement (.eventWrite a) := fun _ h => nomatch h
theorem holdOffEnd : ∀ a, Statement (.holdOffEnd a) := fun _ h => nomatch h
theorem coalescingTimeout : ∀ a, Statement (.coalescingTimeout a) := fun _ h => nomatch h
theorem longOperationComplete : ∀ a, Statement (.longOperationComplete a) := fun _ h => nomatch h
theorem perturbationRelease : ∀ a b c, Statement (.perturbationRelease a b c) := fun _ _ _ h => nomatch h
theorem creditPatternPeriod : ∀ a, Statement (.creditPatternPeriod a) := fun _ h => nomatch h
theorem tapBucketEnd : ∀ a, Statement (.tapBucketEnd a) := fun _ h => nomatch h
theorem frameOrphanTimeout : ∀ a b, Statement (.frameOrphanTimeout a b) := fun _ _ h => nomatch h
theorem timeLinkDown : ∀ a, Statement (.timeLinkDown a) := fun _ h => nomatch h
theorem timeStreamReturn : ∀ a, Statement (.timeStreamReturn a) := fun _ h => nomatch h
theorem windowBoundary : Statement .windowBoundary := fun h => nomatch h
theorem tapRecord : ∀ a, Statement (.tapRecord a) := fun _ h => nomatch h
theorem windowRecordClose : Statement .windowRecordClose := fun h => nomatch h
theorem sealN : ∀ a, Statement (.sealN a) := fun _ h => nomatch h
theorem referenceLoss : Statement .referenceLoss := fun h => nomatch h
theorem referenceLock : Statement .referenceLock := fun h => nomatch h
theorem mirrorLoss : Statement .mirrorLoss := fun h => nomatch h
theorem signalDetect : ∀ a, Statement (.signalDetect a) := fun _ h => nomatch h
theorem slowClockEdge : Statement .slowClockEdge := fun h => nomatch h
theorem endpointEnable : Statement .endpointEnable := fun h => nomatch h
theorem referenceReturn : Statement .referenceReturn := fun h => nomatch h
theorem saggerMirrorUpdate : Statement .saggerMirrorUpdate := fun h => nomatch h
theorem saggerSecondEdge : Statement .saggerSecondEdge := fun h => nomatch h
theorem trainingCommandTimeout : ∀ a, Statement (.trainingCommandTimeout a) := fun _ h => nomatch h
theorem busyLineTimeout : Statement .busyLineTimeout := fun h => nomatch h
theorem flushSilenceTimeout : ∀ a, Statement (.flushSilenceTimeout a) := fun _ h => nomatch h
theorem overVoltageEnd : ∀ a, Statement (.overVoltageEnd a) := fun _ h => nomatch h
theorem vioChange : ∀ a, Statement (.vioChange a) := fun _ h => nomatch h
theorem marginPlanMade : Statement .marginPlanMade := fun h => nomatch h
theorem smbusClockLowTimeout : Statement .smbusClockLowTimeout := fun h => nomatch h

end Sys2Proof.Laws.Wf
end

