-- ==== Sys2Proof/Laws/Rows.lean ====
section
/-! SUPPORT. Rows of the data plane: what a row does while the main domain runs, and that a message which comes in order is taken
by its row's own operation. -/
namespace Sys2Proof.Machine
open Sys2Proof

/-- A row of the data plane in the run state. -/
theorem onPlane_run (f : Plane → Plane) (s : State) (h : s.mg.life = .run) : onPlane f s = planeTurns (f s.dp) s := by
  simp [onPlane, planeTurns, h]

/-- A row of the data plane in any other state. -/
theorem onPlane_off (f : Plane → Plane) (s : State) (h : s.mg.life ≠ .run) : onPlane f s = .next s := by
  simp [onPlane, h]

/-- A message of an agent that comes in order is taken, and its row's operation acts. -/
theorem fromPort_fresh (i : Nat) (cls : BitVec 3) (op : BitVec 5) (b : Body) (k : Body → Plane → Plane) (p : Plane)
    (h : freshMessage p i cls op (asSlots (agentSlots cls op) b)) :
    fromPort i cls op b k p =
      k (asSlots (agentSlots cls op) b) (takeMessage i cls op (asSlots (agentSlots cls op) b) p) := by
  obtain ⟨h1, h2, h3⟩ := h
  unfold fromPort recvPort
  simp only [h1, h2, h3]
  simp

/-- A message of an agent that its port takes: its row's operation acts. -/
theorem fromPort_taken (i : Nat) (cls : BitVec 3) (op : BitVec 5) (b : Body) (k : Body → Plane → Plane) (s p : Plane)
    (h : agentTakes s p i cls op (asSlots (agentSlots cls op) b)) :
    fromPort i cls op b k s = k (asSlots (agentSlots cls op) b) p := by
  rcases h with ⟨h, rfl⟩ | ⟨h, rfl⟩
  · exact fromPort_fresh i cls op b k s h
  · simp only [fromPort, recvPort, h, if_true]

/-- A message of a join link that comes in order is taken, and its row's operation acts. -/
theorem fromLink_fresh (j : Nat) (r : Route) (g : BitVec 64) (cls : BitVec 3) (op : BitVec 5) (b : Body)
    (k : Body → Plane → Plane) (p : Plane) (hs : (joinSlots cls op).isSome = true)
    (h : freshJoin p j r g cls op (asSlots (joinSlots cls op) b)) :
    fromLink j r g cls op b k p =
      k (asSlots (joinSlots cls op) b) (joinTaken j r g cls op (asSlots (joinSlots cls op) b) p) := by
  obtain ⟨h1, h2, h3, h4⟩ := h
  unfold fromLink recvJoin joinTaken
  have hn : (joinSlots cls op).isNone = false := by cases hh : joinSlots cls op <;> simp_all
  simp only [h1, h2, h3, hn]
  have ht : joinTake j (.join r g cls op (asSlots (joinSlots cls op) b)) cls.toNat r.vcb p ≠ none := by
    simp only [joinTake, h1]
    have : credit (joinGiven (link p j) r.vcb) cls.toNat ≠ 0 := by omega
    simp [this]
  cases hh : joinTake j (.join r g cls op (asSlots (joinSlots cls op) b)) cls.toNat r.vcb p with
  | none => exact absurd hh ht
  | some q => simp

/-- A message of a join link that the link takes: its row's operation acts. -/
theorem fromLink_taken (j : Nat) (r : Route) (g : BitVec 64) (cls : BitVec 3) (op : BitVec 5) (b : Body)
    (k : Body → Plane → Plane) (s p : Plane) (hs : (joinSlots cls op).isSome = true)
    (h : linkTakes s p j r g cls op (asSlots (joinSlots cls op) b)) :
    fromLink j r g cls op b k s = k (asSlots (joinSlots cls op) b) p := by
  rcases h with ⟨h, rfl⟩ | ⟨h1, h2, rfl⟩
  · exact fromLink_fresh j r g cls op b k s hs h
  · have hn : (joinSlots cls op).isNone = false := by cases hh : joinSlots cls op <;> simp_all
    simp only [fromLink, recvJoin, hn, h1, h2]
    simp

end Sys2Proof.Machine
end

