-- ==== Sys2Proof/Laws/Sagger.lean ====
section
/-! SUPPORT. What the Sagger's operations leave alone: the legal parameters, the seal counter and the audit log (R374 to R376). -/
namespace Sys2Proof.Machine
open Sys2Proof

/-- `h` has the legal parameters, the seal counter and the audit log of `g`; a window's length is one that `g` had or had set. -/
structure SagKeeps (g h : Sag) : Prop where
  audit : h.audit = g.audit
  sealCnt : h.sealCnt = g.sealCnt
  lenNext : h.lenNext = g.lenNext
  labelsNext : h.labelsNext = g.labelsNext
  refSel : h.refSel = g.refSel
  policy : h.policy = g.policy
  limitS : h.limitS = g.limitS
  len : h.lenMs = g.lenMs ∨ h.lenMs = g.lenNext
  winLen : h.win.lenMs = g.win.lenMs ∨ h.win.lenMs = g.lenNext

theorem SagKeeps.refl (g : Sag) : SagKeeps g g := ⟨rfl, rfl, rfl, rfl, rfl, rfl, rfl, Or.inl rfl, Or.inl rfl⟩
theorem SagKeeps.trans {g h k : Sag} (a : SagKeeps g h) (b : SagKeeps h k) : SagKeeps g k where
  audit := b.audit.trans a.audit
  sealCnt := b.sealCnt.trans a.sealCnt
  lenNext := b.lenNext.trans a.lenNext
  labelsNext := b.labelsNext.trans a.labelsNext
  refSel := b.refSel.trans a.refSel
  policy := b.policy.trans a.policy
  limitS := b.limitS.trans a.limitS
  len := by
    rcases b.len with e | e
    · rw [e]; exact a.len
    · rw [e, a.lenNext]; exact Or.inr rfl
  winLen := by
    rcases b.winLen with e | e
    · rw [e]; exact a.winLen
    · rw [e, a.lenNext]; exact Or.inr rfl
theorem SagKeeps.after {g h k : Sag} (b : SagKeeps h k) (a : SagKeeps g h) : SagKeeps g k := a.trans b
theorem SagKeeps.ite {g a b : Sag} {c : Prop} [Decidable c] (h : SagKeeps g a) (k : SagKeeps g b) :
    SagKeeps g (if c then a else b) := by
  split
  · exact h
  · exact k

theorem tell_keeps (src : Nat) (code : BitVec 16) (data : Nat) (pay : BitVec 128) (g : Sag) :
    SagKeeps g (tell src code data pay g) := ⟨rfl, rfl, rfl, rfl, rfl, rfl, rfl, Or.inl rfl, Or.inl rfl⟩
theorem meterAnswer_keeps (status : Byte) (data : List Byte) (g : Sag) : SagKeeps g (meterAnswer status data g) :=
  ⟨rfl, rfl, rfl, rfl, rfl, rfl, rfl, Or.inl rfl, Or.inl rfl⟩
theorem syncHold_keeps (g : Sag) : SagKeeps g (syncHold g) := by
  unfold syncHold
  split
  · exact ⟨rfl, rfl, rfl, rfl, rfl, rfl, rfl, Or.inl rfl, Or.inl rfl⟩
  · exact SagKeeps.refl g
theorem turnWindow_keeps (stop start : Nat) (timeSet mainDown : Bool) (g : Sag) :
    SagKeeps g (turnWindow stop start timeSet mainDown g) := by
  have hh : SagKeeps g (syncHold { g with time := stop }) :=
    (syncHold_keeps _).after (h := { g with time := stop }) ⟨rfl, rfl, rfl, rfl, rfl, rfl, rfl, Or.inl rfl, Or.inl rfl⟩
  unfold turnWindow
  generalize syncHold { g with time := stop } = h at hh
  dsimp only
  refine SagKeeps.ite ?_ ((tell_keeps _ _ _ _ _).after ?_) <;>
    exact SagKeeps.trans hh ⟨rfl, rfl, rfl, rfl, rfl, rfl, rfl, Or.inr rfl, Or.inr rfl⟩
theorem closeRecord_keeps (g : Sag) : SagKeeps g (closeRecord g) := by
  unfold closeRecord
  split
  · exact SagKeeps.refl g
  · extract_lets rs h
    have hh : SagKeeps g h := (tell_keeps _ _ _ _ _).after ⟨rfl, rfl, rfl, rfl, rfl, rfl, rfl, Or.inl rfl, Or.inl rfl⟩
    exact SagKeeps.ite ((tell_keeps _ _ _ _ _).after hh) hh
theorem addRec_lenMs (r : TapRec) (ended : Bool) (w : SagWin) : (addRec r ended w).lenMs = w.lenMs := by
  unfold addRec
  split
  · rfl
  · split <;> rfl
theorem onWindow_keeps (n : Nat) (f : Bool → SagWin → SagWin) (hf : ∀ b w, (f b w).lenMs = w.lenMs) (g h : Sag)
    (e : onWindow n f g = some h) : SagKeeps g h := by
  unfold onWindow at e
  split at e
  · cases e; exact ⟨rfl, rfl, rfl, rfl, rfl, rfl, rfl, Or.inl rfl, Or.inl (hf _ _)⟩
  · split at e
    · cases e; exact ⟨rfl, rfl, rfl, rfl, rfl, rfl, rfl, Or.inl rfl, Or.inl rfl⟩
    · cases e
theorem markGap_lenMs (t gap : Nat) (start : Bool) (w : SagWin) : (markGap t gap start w).lenMs = w.lenMs := by
  unfold markGap
  split
  · rfl
  · split <;> rfl
theorem tellLoss_keeps (t gap n : Nat) (g : Sag) : SagKeeps g (tellLoss t gap n g) := tell_keeps _ _ _ _ _
theorem noteGap_keeps (r : TapRec) (gap : Nat) (g : Sag) : SagKeeps g (noteGap r gap g) := by
  unfold noteGap
  dsimp only
  split
  · exact ⟨rfl, rfl, rfl, rfl, rfl, rfl, rfl, Or.inl rfl, Or.inl rfl⟩
  · exact ⟨rfl, rfl, rfl, rfl, rfl, rfl, rfl, Or.inl rfl, Or.inl rfl⟩
theorem takeAt_keeps (r : TapRec) (gap : Nat) (g : Sag) : SagKeeps g (takeAt r gap g) := by
  unfold takeAt
  split
  · rename_i h e
    exact onWindow_keeps _ _ (fun b w => by rw [addRec_lenMs, markGap_lenMs]) _ _ e
  · exact ⟨rfl, rfl, rfl, rfl, rfl, rfl, rfl, Or.inl rfl, Or.inl (markGap_lenMs _ _ _ _)⟩
theorem takeRec_keeps (r : TapRec) (g : Sag) : SagKeeps g (takeRec r g) :=
  (takeAt_keeps _ _ _).after (noteGap_keeps _ _ _)
theorem refLost_keeps (g : Sag) : SagKeeps g (refLost g) := by
  unfold refLost
  exact SagKeeps.ite ((tell_keeps _ _ _ _ _).after ((syncHold_keeps _).after
    ⟨rfl, rfl, rfl, rfl, rfl, rfl, rfl, Or.inl rfl, Or.inl rfl⟩)) (SagKeeps.refl g)
theorem refBack_keeps (g : Sag) : SagKeeps g (refBack g) := by
  unfold refBack
  refine SagKeeps.ite ((tell_keeps _ _ _ _ _).after ?_) (SagKeeps.refl g)
  exact SagKeeps.trans (syncHold_keeps g) ⟨rfl, rfl, rfl, rfl, rfl, rfl, rfl, Or.inl rfl, Or.inl rfl⟩
theorem refLocked_keeps (g : Sag) : SagKeeps g (refLocked g) := by
  unfold refLocked
  exact SagKeeps.ite ((tell_keeps _ _ _ _ _).after ⟨rfl, rfl, rfl, rfl, rfl, rfl, rfl, Or.inl rfl, Or.inl rfl⟩)
    (SagKeeps.refl g)
theorem sagOff_keeps (g : Sag) : SagKeeps g (sagOff g) := ⟨rfl, rfl, rfl, rfl, rfl, rfl, rfl, Or.inr rfl, Or.inr rfl⟩
theorem sagOn_keeps (g : Sag) : SagKeeps g (sagOn g) := by
  unfold sagOn
  dsimp only
  refine SagKeeps.ite ?_ ((tell_keeps _ _ _ _ _).after ?_) <;>
    exact ⟨rfl, rfl, rfl, rfl, rfl, rfl, rfl, Or.inr rfl, Or.inr rfl⟩
theorem secondEdge_keeps (mainDown : Bool) (g : Sag) : SagKeeps g (secondEdge mainDown g) := by
  unfold secondEdge
  dsimp only
  split
  · exact ⟨rfl, rfl, rfl, rfl, rfl, rfl, rfl, Or.inl rfl, Or.inl rfl⟩
  · exact (turnWindow_keeps _ _ _ _ _).after ⟨rfl, rfl, rfl, rfl, rfl, rfl, rfl, Or.inl rfl, Or.inl rfl⟩

/-- An entry appended to the log, and nothing else of what is kept. -/
theorem logEntry_keeps (e : BitVec 256) (g : Sag) :
    SagKeeps { g with audit := g.audit ++ [e] } (logEntry e g) := by
  unfold logEntry
  dsimp only
  exact SagKeeps.ite (tell_keeps _ _ _ _ _) (SagKeeps.refl _)
/-- SET_TIME keeps the legal parameters and the seal counter, and appends at most one entry. -/
theorem timeWrite_cases (secs : Nat) (g : Sag) :
    SagKeeps g (timeWrite secs g).2 ∨
      (logFull g = false ∧ g.sealN = true ∧ ∃ e, SagKeeps { g with audit := g.audit ++ [e] } (timeWrite secs g).2) := by
  unfold timeWrite
  split
  · exact Or.inl (SagKeeps.refl g)
  · rename_i hl
    split
    · rename_i hs
      refine Or.inr ⟨by simpa using hl, hs, auditEntry g 4 0 g.sealCnt (BitVec.ofNat 64 (g.time / secLen)) (BitVec.ofNat 64 secs), ?_⟩
      refine (logEntry_keeps _ _).after ?_
      exact ⟨rfl, rfl, rfl, rfl, rfl, rfl, rfl, Or.inl rfl, Or.inl rfl⟩
    · split
      · exact Or.inl ⟨rfl, rfl, rfl, rfl, rfl, rfl, rfl, Or.inl rfl, Or.inl rfl⟩
      · exact Or.inl (SagKeeps.refl g)

theorem setParam_audit (param inst : Nat) (v : BitVec 64) (g : Sag) : (setParam param inst v g).audit = g.audit := by
  unfold setParam
  split
  · rfl
  · rfl
  · exact (syncHold_keeps g).audit
  · exact ((syncHold_keeps _).audit).trans (syncHold_keeps g).audit

/-- PARAM_SET changes nothing, or, under the seal and with a value of Table 16.5, sets it, counts one and appends one entry. -/
theorem paramWrite_cases (param inst : Nat) (v : BitVec 64) (g : Sag) :
    (paramWrite param inst v g).2 = g ∨
      (logFull g = false ∧ g.sealN = true ∧ paramOk param inst v = true ∧
        ∃ e, SagKeeps { setParam param inst v { g with sealCnt := g.sealCnt + 1 } with audit := g.audit ++ [e] }
          (paramWrite param inst v g).2) := by
  unfold paramWrite
  split
  · exact Or.inl rfl
  · rename_i h1
    split
    · exact Or.inl rfl
    · rename_i h2
      split
      · exact Or.inl rfl
      · rename_i h3
        refine Or.inr ⟨by simpa using h1, by simpa using h2, by simpa using h3, ?_⟩
        dsimp only
        have ha := setParam_audit param inst v { g with sealCnt := g.sealCnt + 1 }
        generalize setParam param inst v { g with sealCnt := g.sealCnt + 1 } = h at ha ⊢
        refine ⟨auditEntry g param (if param = 1 then inst else 0) h.sealCnt (paramLast g param inst)
          (paramLast { h with win := h.win.flag fParam } param inst), ?_⟩
        refine (tell_keeps _ _ _ _ _).after ((logEntry_keeps _ _).after ?_)
        dsimp only at ha ⊢
        rw [ha]
        exact ⟨rfl, rfl, rfl, rfl, rfl, rfl, rfl, Or.inl rfl, Or.inl rfl⟩

end Sys2Proof.Machine
end

