-- ==== Sys2Proof/Laws/Runs.lean ====
section
/-! SUPPORT. What stops, starts, resets, power states, long operations and the tick leave alone: the queue and the Sagger's legal
state; and the debug lock while the management die stays powered (R328, R358). -/
namespace Sys2Proof.Machine
open Sys2Proof

/-- `t` has the queue and the Sagger's legal state of `s`; a lock that stood in `s` stands, or the management die is unpowered. -/
structure Runs (s t : State) : Prop where
  pending : t.pending = s.pending
  sag : SagKeeps s.sg t.sg
  lock : locked s = true → locked t = true ∨ mgcOn t = false

theorem Keeps.runs {s t : State} (h : Keeps s t) : Runs s t :=
  ⟨h.pending, by rw [h.sg]; exact SagKeeps.refl _, fun e => Or.inl (h.lock e)⟩
theorem Runs.refl (s : State) : Runs s s := (Keeps.refl s).runs
theorem Runs.after_keeps {s t u : State} (k : Runs t u) (h : Keeps s t) : Runs s u :=
  ⟨k.pending.trans h.pending, by rw [← h.sg]; exact k.sag, fun e => k.lock (h.lock e)⟩
theorem mgcOn_congr {s t : State} (h : t.mg.life = s.mg.life) : mgcOn t = mgcOn s := by unfold mgcOn; rw [h]
theorem Keeps.after_runs {s t u : State} (k : Keeps t u) (h : Runs s t) : Runs s u :=
  ⟨k.pending.trans h.pending, by rw [k.sg]; exact h.sag, fun e => (h.lock e).imp k.lock fun x => by rw [mgcOn_congr k.life]; exact x⟩
theorem Runs.ite {s a b : State} {c : Prop} [Decidable c] (h : Runs s a) (k : Runs s b) : Runs s (if c then a else b) := by
  split
  · exact h
  · exact k

/-! ### Stops -/

/-- A stop that leaves the management die unpowered. -/
theorem stopMain_runs (life : Life) (power : Nat) (s : State)
    (h : life = .noVin ∨ life = .overVoltage ∨ life = .off ∨ life = .tripped) : Runs s (stopMain life power s) := by
  refine ⟨rfl, ?_, fun _ => Or.inr ?_⟩
  · show SagKeeps s.sg (if life = .noVin ∧ s.sg.powered then { s.sg with win := s.sg.win.flag fMainDown } else s.sg)
    exact SagKeeps.ite ⟨rfl, rfl, rfl, rfl, rfl, rfl, rfl, Or.inl rfl, Or.inl rfl⟩ (SagKeeps.refl _)
  · rcases h with rfl | rfl | rfl | rfl <;> rfl
theorem trip_runs (s : State) : Runs s (trip s) := by
  have h := stopMain_runs .tripped 0 s (Or.inr (Or.inr (Or.inr rfl)))
  exact ⟨h.pending, h.sag, h.lock⟩

/-! ### Starts: the queue and the Sagger alone -/

theorem firmwareEvent_keeps (code : BitVec 16) (data : Nat) (s : State) : Keeps s (firmwareEvent code data s) :=
  mgEvent_keeps _ _ _ _ _
theorem startMain_pending (boot : Boot) (s : State) : (startMain boot s).pending = s.pending := by
  unfold startMain
  dsimp only
  split
  · rfl
  · rw [onDp_pending]
    split
    · rw [(firmwareEvent_keeps _ _ _).pending]
    · rfl
theorem startMain_sg (boot : Boot) (s : State) : (startMain boot s).sg = s.sg := by
  unfold startMain
  dsimp only
  split
  · rfl
  · rw [onDp_sg]
    split
    · rw [(firmwareEvent_keeps _ _ _).sg]
    · rfl

/-! ### Warm reset and power states -/

theorem warmRecovery_runs (id : Nat) (s : State) : Runs s (warmRecovery id s) :=
  ⟨rfl, SagKeeps.refl _, fun e => Or.inl e⟩
theorem endWarm_runs (n : Nat) (s : State) : Runs s (endWarm n s) := by
  unfold endWarm
  dsimp only
  split
  · exact warmRecovery_runs _ _
  · refine Keeps.runs ?_
    refine (settled_keeps _).after ((Keeps.foldl _ (fun s i => sendDone_keeps i s) _ _).after ?_)
    refine Keeps.ite ((onDp_keeps _ _).after ?_) ?_ <;>
    · refine Keeps.ite ((firmwareEvent_keeps _ _ _).after ?_) ?_ <;>
      · refine Keeps.ite ((firmwareEvent_keeps _ _ _).after ?_) ?_ <;> exact ⟨rfl, rfl, id, rfl⟩
theorem stepWarm_runs (o : LongOp) (s : State) : Runs s (stepWarm o s) := by
  unfold stepWarm
  dsimp only
  refine Runs.ite (Runs.ite (Runs.refl s) (Runs.ite ?_ (Runs.ite ?_ (endWarm_runs _ _))))
    (Runs.ite (Runs.refl s) (endWarm_runs _ _))
  · exact (endWarm_runs _ _).after_keeps (mgEvent_keeps _ _ _ _ _)
  · exact Keeps.runs ⟨rfl, rfl, id, rfl⟩
theorem execEventWrite_keeps (ok : Bool) (s : State) : ∃ t, execEventWrite ok s = .next t ∧ Keeps s t := by
  unfold execEventWrite
  refine ⟨_, rfl, ?_⟩
  split
  · exact Keeps.refl s
  · dsimp only
    refine Keeps.ite (Keeps.refl s) (Keeps.ite ((mgEvent_keeps _ _ _ _ _).after ?_) ?_)
    · exact ⟨rfl, rfl, id, rfl⟩
    · exact ⟨rfl, rfl, by simp [locked], by simp⟩
theorem writeOut_keeps (n : Nat) (s : State) : Keeps s (writeOut n s) := by
  induction n generalizing s with
  | zero => exact Keeps.refl s
  | succ n ih =>
    obtain ⟨t, e, h⟩ := execEventWrite_keeps true s
    unfold writeOut
    rw [e]
    exact (ih t).after h
theorem powerDown_runs (o : LongOp) (n : Nat) (s : State) : Runs s (powerDown o n s) := by
  unfold powerDown
  split
  · refine (sendDone_keeps _ _).after_runs ((onDp_keeps _ _).after_runs ?_)
    exact ⟨rfl, SagKeeps.refl _, fun e => Or.inl e⟩
  · dsimp only
    have h := (stopMain_runs .off 3 (writeOut (sendDone o.id (onDp (endOp o.id sOk) s)).dp.evq.length
      (sendDone o.id (onDp (endOp o.id sOk) s))) (Or.inr (Or.inr (Or.inl rfl)))).after_keeps
      ((writeOut_keeps _ _).after ((sendDone_keeps _ _).after (onDp_keeps _ s)))
    exact ⟨h.pending, h.sag, h.lock⟩
theorem powerUp_runs (o : LongOp) (s : State) : Runs s (powerUp o s) := by
  unfold powerUp
  extract_lets bad chs p
  clear_value p
  exact ⟨rfl, SagKeeps.refl _, fun e => Or.inl e⟩
theorem powerReady_keeps (o : LongOp) (n : Nat) (s : State) : Keeps s (powerReady o n s) := by
  unfold powerReady
  refine (settled_keeps _).after ((sendDone_keeps _ _).after ((onDp_keeps _ _).after ((applyAllFires_keeps _).after ?_)))
  exact ⟨rfl, rfl, id, rfl⟩
theorem stepPower_runs (o : LongOp) (n : Nat) (s : State) : Runs s (stepPower o n s) := by
  unfold stepPower
  refine Runs.ite (Runs.ite (powerDown_runs _ _ _) (powerUp_runs _ _))
    (Runs.ite (Runs.ite (Runs.refl s) (powerReady_keeps _ _ s).runs) (Runs.ite ?_
      (Runs.ite (Runs.ite ?_ (Runs.refl s))
        (Runs.ite (Runs.ite (Runs.refl s) (onDp_keeps _ s).runs) (Runs.ite (powerDown_runs _ _ _) (Runs.refl s))))))
  · refine ((sendDone_keeps _ _).after ((onDp_keeps _ _).after ?_)).runs
    exact ⟨rfl, rfl, id, rfl⟩
  · exact ((settled_keeps _).after (onDp_keeps _ _)).runs

/-! ### Long operations -/

theorem endWith_keeps (o : LongOp) (status : BitVec 8) (s : State) : Keeps s (endWith o status s) :=
  (sendDone_keeps _ _).after (onDp_keeps _ _)
theorem leaveStep_keeps (o : LongOp) (k : Nat) (all : Bool) (s : State) : Keeps s (leaveStep o k all s) := by
  unfold leaveStep
  dsimp only
  exact Keeps.ite ((sendStep_keeps _ _ _).after ((onDp_keeps _ _).after (onDp_keeps _ _))) ((endWith_keeps _ _ _).after (onDp_keeps _ _))
@[simp] theorem setSlot_dbgLock (m : Mgmt) (n : Nat) (x : FwSlot) : (setSlot m n x).dbgLock = m.dbgLock := by
  unfold setSlot; split <;> rfl
@[simp] theorem setSlot_life (m : Mgmt) (n : Nat) (x : FwSlot) : (setSlot m n x).life = m.life := by
  unfold setSlot; split <;> rfl
theorem stageEnd_keeps (o : LongOp) (s : State) : Keeps s (stageEnd o s) := by
  unfold stageEnd
  split
  · exact endWith_keeps _ _ _
  · dsimp only
    refine (endWith_keeps _ _ _).after ?_
    exact ⟨rfl, rfl, by simp [locked], by simp⟩
theorem snapEnd_keeps (o : LongOp) (s : State) : Keeps s (snapEnd o s) := by
  unfold snapEnd
  split
  · exact Keeps.refl s
  · refine Keeps.ite (Keeps.refl s) ((endWith_keeps _ _ _).after ?_)
    exact ⟨rfl, rfl, id, rfl⟩
theorem finishWork_runs (o : LongOp) (s : State) : Runs s (finishWork o s) := by
  have h0 : ∀ (c : Prop) [Decidable c] st, Runs s (if c then endWith o st s else s) :=
    fun c _ st => (Keeps.ite (endWith_keeps o st s) (Keeps.refl s)).runs
  unfold finishWork
  split
  case h_7 =>
    refine (Keeps.ite ?_ (Keeps.refl s)).runs
    exact (endWith_keeps o sOk _).after (onDp_keeps _ s)
  case h_8 =>
    refine (Keeps.ite ?_ (Keeps.refl s)).runs
    exact (endWith_keeps o sOk _).after ((onDp_keeps cacheOff _).after (onDp_keeps _ s))
  case h_11 => exact (Keeps.ite (leaveStep_keeps _ _ _ _) (Keeps.refl s)).runs
  case h_14 => exact (stageEnd_keeps _ _).runs
  case h_15 => exact (snapEnd_keeps _ _).runs
  case h_16 => exact stepPower_runs _ _ _
  case h_17 => exact stepWarm_runs _ _
  case h_18 => exact (endWith_keeps _ _ _).runs
  all_goals first
    | exact h0 _ _
    | exact Runs.refl s

/-! ### The Sagger's rows and the tick -/

theorem turnBoth_runs (f : Sag → Sag) (hf : ∀ g, SagKeeps g (f g)) (s : State) : Runs s (turnBoth f s) := by
  unfold turnBoth
  split
  · exact ⟨rfl, hf _, fun e => Or.inl e⟩
  · exact Runs.refl s
theorem tickMain_keeps (s : State) : Keeps s (tickMain s) := by
  unfold tickMain
  exact Keeps.ite (onDp_keeps tickPlane s) (Keeps.ite (onDp_keeps (fun p => { p with clock := p.clock + 1 }) s) (Keeps.refl s))
theorem tickSag_runs (s : State) : Runs s (tickSag s) := by
  unfold tickSag
  dsimp only
  refine Runs.ite (Runs.refl s) (Runs.ite (turnBoth_runs _ (fun g => secondEdge_keeps _ g) s)
    (Runs.ite (turnBoth_runs _ (fun g => turnWindow_keeps _ _ _ _ g) s) ?_))
  exact ⟨rfl, ⟨rfl, rfl, rfl, rfl, rfl, rfl, rfl, Or.inl rfl, Or.inl rfl⟩, fun e => Or.inl e⟩
theorem tick_runs (s : State) : Runs s (tick s) :=
  (tickSag_runs _).after_keeps ((tickMain_keeps _).after (retryHeld_keeps s))

end Sys2Proof.Machine
end

