-- ==== Sys2Proof/Laws/Steps.lean ====
section
/-! SUPPORT. One lemma for each row that is no packet and no row of the data plane, and from them what a step can do to the queue, to
the debug lock and to the Sagger (R328, R358, R374 to R376). -/
namespace Sys2Proof.Machine
set_option Elab.async false
open Sys2Proof

/-- The rows that start the module. -/
def starts : Instr → Bool
  | .powerOn _ | .coldReset _ | .overVoltageEnd _ => true
  | _ => false
/-- The rows that write under the seal. -/
def seals : Instr → Bool
  | .paramSet _ _ _ | .setTime _ => true
  | _ => false
theorem onSag_runs (f : Sag → Sag) (hf : ∀ g, SagKeeps g (f g)) (s : State) : ∃ t, onSag f s = .next t ∧ Runs s t := by
  unfold onSag; split
  · exact ⟨_, rfl, rfl, hf _, fun e => Or.inl e⟩
  · exact ⟨_, rfl, Runs.refl s⟩
theorem packet_good (c : Instr) (h : Hdr) (cmd : Command) (e : commandOf c = some (h, cmd)) : cmd.Good := by
  cases c <;> simp only [commandOf, Option.some.injEq, Prod.mk.injEq, reduceCtorEq] at e
  all_goals obtain ⟨rfl, rfl⟩ := e
  case devInfo => exact cmdDevInfo_good
  case devStatus => exact cmdDevStatus_good
  case devResetWarm => exact cmdDevResetWarm_good
  case devPowerState => exact cmdDevPowerState_good _
  case funcModeSet => exact cmdFuncModeSet_good _ _
  case funcModeGet => exact cmdFuncModeGet_good
  case regionSet => exact cmdRegionSet_good _ _
  case regionGet => exact cmdRegionGet_good _
  case cacheEnable => exact cmdCacheEnable_good
  case cacheDisable => exact cmdCacheDisable_good
  case cacheInvalidateAll => exact cmdCacheInvalidateAll_good
  case cacheCleanAll => exact cmdCacheCleanAll_good
  case cacheCleanRange => exact cmdCleanRange_good _ _
  case cacheInvalRange => exact cmdInvalRange_good _ _ _
  case cacheClinvRange => exact cmdClinvRange_good _ _
  case cacheSetwayOp => exact cmdSetway_good _ _ _ _ _ _
  case wayLock => exact cmdWayLock_good _ _ _
  case wayUnlock => exact cmdWayUnlock_good _ _ _
  case linePin => exact cmdLinePin_good _ _ _ _
  case wayRetire => exact cmdWayRetire_good _ _ _ _
  case replayDescSet => exact cmdReplayDescSet_good _ _
  case instCreate => exact cmdInstCreate_good _ _ _ _
  case instDestroy => exact cmdInstDestroy_good _
  case instReset => exact cmdInstReset_good _ _ _
  case instShareSet => exact cmdInstShareSet_good _ _
  case instWindowSet => exact cmdInstWindowSet_good _ _ _
  case instStatus => exact cmdInstStatus_good _ _
  case joinNodeIdSet => exact cmdJoinNodeIdSet_good _
  case joinLinkUp => exact cmdJoinLinkUp_good _ _ _
  case joinRouteSet => exact cmdJoinRouteSet_good _ _ _ _ _ _
  case mapEpochPrepare => exact cmdMapEpochPrepare_good _ _ _
  case mapEpochCommit => exact cmdMapEpochCommit_good _ _
  case nodeLeave => exact cmdNodeLeave_good _
  case memTrain => exact cmdMemTrain_good _ _
  case memChannelEvacuate => exact cmdMemChannelEvacuate_good _ _
  case memPageRetire => exact cmdMemPageRetire_good _ _ _ _ _
  case eccScrubCfg => exact cmdEccScrubCfg_good _ _ _ _ _
  case eccCountRead => exact cmdEccCountRead_good _ _ _ _
  case marginReplan => exact cmdMarginReplan_good _ _ _
  case marginLedgerRead => exact cmdMarginLedgerRead_good _
  case thermalCfg => exact cmdThermalCfg_good _ _ _
  case domainPower => exact cmdDomainPower_good _ _
  case odoConfig => exact cmdOdoConfig_good _ _ _ _ _
  case odoSnapshot => exact cmdOdoSnapshot_good _ _ _ _
  case histConfig => exact cmdHistConfig_good _ _ _ _
  case perturbSet => exact cmdPerturbSet_good _ _ _ _ _ _ _
  case perturbClear => exact cmdPerturbClear_good
  case errInject => exact cmdErrInject_good _ _ _ _ _ _ _ _
  case fwStage => exact cmdFwStage_good _ _ _ _ _
  case fwActivate => exact cmdFwActivate_good _ _
  case fwInfo => exact cmdFwInfo_good
  case saggerStatus => exact cmdSaggerStatus_good
  case linkTrain => exact cmdLinkTrain_good _ _
  case linkStatus => exact cmdLinkStatus_good _ _
theorem foldl_keeps {α : Type} (f : State → α → State) (h : ∀ s a, Keeps s (f s a)) (l : List α) (s : State) : Keeps s (l.foldl f s) :=
  Keeps.foldl f h l s
theorem ev_mgk (m m' : Mgmt) (h : KeepsMg m m') (s : State) (e : s.mg = m) (p : Plane) : Keeps s { s with mg := m', dp := p } := by
  subst e; exact ⟨rfl, rfl, by simp only [locked]; rw [h.1]; exact id, h.2⟩
theorem onPlane_runs (f : Plane → Plane) (s : State) : ∃ t, onPlane f s = .next t ∧ Runs s t :=
  ⟨_, rfl, Runs.ite ⟨rfl, SagKeeps.refl _, fun e => Or.inl e⟩ (Runs.refl s)⟩
theorem plane_runs (c : Instr) (s : State) (hp : planeRow c = true) (hk : commandOf c = none) : ∃ t, exec c s = .next t ∧ Runs s t := by
  have h2 : ∃ f, exec c s = onPlane f s := by
    cases c <;> simp only [planeRow, Bool.false_eq_true] at hp <;> first | (simp only [exec, execTrainingStepTimeout, execEvnWbData, execTrainingEnd]; exact ⟨_, rfl⟩) | exact ⟨_, rfl⟩
  obtain ⟨f, h2⟩ := h2
  exact h2 ▸ onPlane_runs f s
theorem lowWordRead_runs (offset : BitVec 25) (s : State) :
    ∃ t, exec (.lowWordRead offset) s = .next t ∧ Runs s t := by
  simp only [exec]
  unfold execLowWordRead; refine ⟨_, rfl, Runs.ite (Runs.refl s) ((mendReg_keeps _ _).runs.after_keeps ⟨rfl, rfl, id, rfl⟩)⟩
theorem registerWrite_runs (offset : BitVec 25) (enables : BitVec 4) (value : Reg) (s : State) :
    ∃ t, exec (.registerWrite offset enables value) s = .next t ∧ Runs s t := by
  simp only [exec]
  exact ⟨_, rfl, Runs.ite (Runs.refl s)
    (Runs.ite (Runs.ite (mgEvent_keeps _ _ _ _ _).runs (Runs.refl s)) (regWrite_keeps _ _ _).runs)⟩
theorem sqTail_runs (q : Fin 4) (tail : BitVec 8) (packets : List (BitVec 512)) (s : State) :
    ∃ t, exec (.sqTail q tail packets) s = .next t ∧ Runs s t := by
  simp only [exec]
  exact ⟨_, rfl, Runs.ite (Runs.refl s) (Runs.ite (queueErr_keeps _ _ _).runs (Keeps.runs ⟨rfl, rfl, id, rfl⟩))⟩
theorem rqHead_runs (q : Fin 4) (head : BitVec 8) (s : State) :
    ∃ t, exec (.rqHead q head) s = .next t ∧ Runs s t := by
  simp only [exec]
  exact ⟨_, rfl, Runs.ite (Runs.refl s) (Runs.ite (queueErr_keeps _ _ _).runs (Keeps.runs ⟨rfl, rfl, id, rfl⟩))⟩
theorem commandStart_runs (bytes : List Byte) (host : HostAccess) (s : State) :
    ∃ t, exec (.commandStart bytes host) s = .next t ∧ Runs s t := by
  simp only [exec]
  unfold execCommandStart
  refine ⟨_, rfl, Runs.ite (Runs.refl s) ?_⟩
  split
  · exact Runs.refl s
  · refine Runs.ite ((startPacket_keeps _ _ _ _ _).runs.after_keeps ⟨rfl, rfl, id, rfl⟩)
      (Runs.ite ((hostFault_keeps _ _).runs.after_keeps ⟨rfl, rfl, id, rfl⟩)
        ((startPacket_keeps _ _ _ _ _).runs.after_keeps ⟨rfl, rfl, id, rfl⟩))
theorem spiCmd_runs (packet : BitVec 512) (s : State) :
    ∃ t, exec (.spiCmd packet) s = .next t ∧ Runs s t := by
  simp only [exec]
  exact ⟨_, rfl, Runs.ite (Runs.refl s) (Runs.ite (Keeps.runs ⟨rfl, rfl, id, rfl⟩) (Keeps.runs ⟨rfl, rfl, id, rfl⟩))⟩
theorem spiReply_runs (s : State) :
    ∃ t, exec (.spiReply) s = .next t ∧ Runs s t := by
  simp only [exec]
  exact ⟨_, rfl, Runs.ite (Runs.refl s) (Keeps.runs (Keeps.trans (spiOut_keeps _ s) ⟨rfl, rfl, id, rfl⟩))⟩
theorem spiStat_runs (s : State) :
    ∃ t, exec (.spiStat) s = .next t ∧ Runs s t := by
  simp only [exec]
  exact ⟨_, rfl, Runs.ite (Runs.refl s) (Keeps.runs (Keeps.trans (spiOut_keeps _ s) ⟨rfl, rfl, id, rfl⟩))⟩
theorem spiCompl_runs (s : State) :
    ∃ t, exec (.spiCompl) s = .next t ∧ Runs s t := by
  simp only [exec]
  exact ⟨_, rfl, Runs.ite (Runs.refl s) (Keeps.runs (Keeps.trans (spiOut_keeps _ s) ⟨rfl, rfl, id, rfl⟩))⟩
theorem mtrStatus_runs (s : State) :
    ∃ t, exec (.mtrStatus) s = .next t ∧ Runs s t := by
  simp only [exec]
  exact onSag_runs _ (fun g => meterAnswer_keeps _ _ _) s
theorem mtrTime_runs (s : State) :
    ∃ t, exec (.mtrTime) s = .next t ∧ Runs s t := by
  simp only [exec]
  exact onSag_runs _ (fun g => meterAnswer_keeps _ _ _) s
theorem windowRead_runs (seq : BitVec 32) (s : State) :
    ∃ t, exec (.windowRead seq) s = .next t ∧ Runs s t := by
  simp only [exec]
  exact onSag_runs _ (fun g => by split <;> exact meterAnswer_keeps _ _ _) s
theorem auditRead_runs (index : BitVec 16) (s : State) :
    ∃ t, exec (.auditRead index) s = .next t ∧ Runs s t := by
  simp only [exec]
  exact onSag_runs _ (fun g => by split <;> exact meterAnswer_keeps _ _ _) s
theorem paramGet_runs (param : Byte) (inst : Byte) (s : State) :
    ∃ t, exec (.paramGet param inst) s = .next t ∧ Runs s t := by
  simp only [exec]
  exact onSag_runs _ (fun g => by split <;> exact meterAnswer_keeps _ _ _) s
theorem cfgFire_runs (value : Reg) (s : State) :
    ∃ t, exec (.cfgFire value) s = .next t ∧ Runs s t := by
  simp only [exec]
  exact ⟨_, rfl, Runs.ite (fireWrite_keeps _ _).runs (Runs.refl s)⟩
theorem fireApply_runs (group : Fin 8) (unit : Fin 5) (s : State) :
    ∃ t, exec (.fireApply group unit) s = .next t ∧ Runs s t := by
  simp only [exec]
  exact ⟨_, rfl, Runs.ite (applyFire_keeps _ _ _).runs (Runs.refl s)⟩
theorem keyGate_runs (value : Reg) (s : State) :
    ∃ t, exec (.keyGate value) s = .next t ∧ Runs s t := by
  simp only [exec]
  exact ⟨_, rfl, Runs.ite (keyWrite_keeps _ _).runs (Runs.refl s)⟩
theorem devCtrl_runs (value : Reg) (s : State) :
    ∃ t, exec (.devCtrl value) s = .next t ∧ Runs s t := by
  simp only [exec]
  exact ⟨_, rfl, Runs.ite (devCtrlWrite_keeps _ _).runs (Runs.refl s)⟩
theorem cmdqCtrl_runs (q : Fin 4) (value : Reg) (s : State) :
    ∃ t, exec (.cmdqCtrl q value) s = .next t ∧ Runs s t := by
  simp only [exec]
  exact ⟨_, rfl, Runs.ite (ringCtrlWrite_keeps _ _ _).runs (Runs.refl s)⟩
theorem cmdqBaseWrite_runs (q : Fin 4) (word : Fin 4) (value : Reg) (s : State) :
    ∃ t, exec (.cmdqBaseWrite q word value) s = .next t ∧ Runs s t := by
  simp only [exec]
  exact ⟨_, rfl, Runs.ite (ringBaseWrite_keeps _ _ _ _).runs (Runs.refl s)⟩
theorem evtCtrl_runs (value : Reg) (s : State) :
    ∃ t, exec (.evtCtrl value) s = .next t ∧ Runs s t := by
  simp only [exec]
  exact ⟨_, rfl, Runs.ite (evCtrlWrite_keeps _ _).runs (Runs.refl s)⟩
theorem evtHead_runs (value : Reg) (s : State) :
    ∃ t, exec (.evtHead value) s = .next t ∧ Runs s t := by
  simp only [exec]
  exact ⟨_, rfl, Runs.ite (evWrite_keeps _ _ _).runs (Runs.refl s)⟩
theorem smbusRead_runs (code : Byte) (s : State) :
    ∃ t, exec (.smbusRead code) s = .next t ∧ Runs s t := by
  simp only [exec]
  unfold execSmbusRead; refine ⟨_, rfl, Runs.ite (Runs.refl s) ?_⟩; split <;> exact Keeps.runs ⟨rfl, rfl, id, rfl⟩
theorem smbusWrite_runs (code : Byte) (value : BitVec 16) (pecOk : Bool) (s : State) :
    ∃ t, exec (.smbusWrite code value pecOk) s = .next t ∧ Runs s t := by
  simp only [exec]
  exact ⟨_, rfl, Runs.ite (Runs.refl s) (Runs.ite (Keeps.runs ⟨rfl, rfl, id, rfl⟩) (Keeps.runs ⟨rfl, rfl, id, rfl⟩))⟩
theorem alertResponse_runs (s : State) :
    ∃ t, exec (.alertResponse) s = .next t ∧ Runs s t := by
  simp only [exec]
  exact ⟨_, rfl, Runs.ite (Runs.refl s) (Runs.ite (Keeps.runs ⟨rfl, rfl, id, rfl⟩) (Keeps.runs ⟨rfl, rfl, id, rfl⟩))⟩
theorem tapInstructionLoad_runs (code : Byte) (rstLow : Bool) (s : State) :
    ∃ t, exec (.tapInstructionLoad code rstLow) s = .next t ∧ Runs s t := by
  simp only [exec]
  exact ⟨_, rfl, Runs.ite (Runs.refl s) (Runs.ite (Keeps.runs ⟨rfl, rfl, id, rfl⟩) (Keeps.runs ⟨rfl, rfl, id, rfl⟩))⟩
theorem vinLoss_runs (s : State) :
    ∃ t, exec (.vinLoss) s = .next t ∧ Runs s t := by
  simp only [exec]
  exact ⟨_, rfl, Runs.ite (Runs.refl s) (stopMain_runs _ _ _ (by simp))⟩
theorem overVoltageStop_runs (s : State) :
    ∃ t, exec (.overVoltageStop) s = .next t ∧ Runs s t := by
  simp only [exec]
  exact ⟨_, rfl, Runs.ite (stopMain_runs _ _ _ (by simp)) (Runs.refl s)⟩
theorem regulatorFault_runs (domain : Fin 64) (s : State) :
    ∃ t, exec (.regulatorFault domain) s = .next t ∧ Runs s t := by
  simp only [exec]
  unfold execRegulatorFault
  refine ⟨_, rfl, Runs.ite (Runs.refl s) (Runs.ite (Runs.ite (Runs.refl s) ?_) ?_)⟩
  · dsimp only
    refine ((settled_keeps _).after ((mgEvent_keeps _ _ _ _ _).after ?_)).runs
    exact ⟨rfl, rfl, id, rfl⟩
  · exact (stopMain_runs _ _ _ (by simp)).after_keeps ⟨rfl, rfl, id, rfl⟩
theorem endpointOff_keeps (m : Mgmt) : KeepsMg m (endpointOff m) := by
  unfold endpointOff
  generalize (List.range 4).foldl _ _ = t
  exact ⟨rfl, rfl⟩
theorem endpointDisable_runs (s : State) :
    ∃ t, exec (.endpointDisable) s = .next t ∧ Runs s t := by
  simp only [exec]
  unfold execEndpointDisable
  refine ⟨_, rfl, ?_⟩
  split
  · exact (KeepsMg.keeps (endpointOff_keeps _)).runs
  · exact Runs.refl s
theorem vsagPowerUp_runs (s : State) :
    ∃ t, exec (.vsagPowerUp) s = .next t ∧ Runs s t := by
  simp only [exec]
  exact ⟨_, rfl, Runs.ite ⟨rfl, sagOn_keeps _, fun e => Or.inl e⟩ (Runs.refl s)⟩
theorem vsagRemoval_runs (s : State) :
    ∃ t, exec (.vsagRemoval) s = .next t ∧ Runs s t := by
  simp only [exec]
  exact ⟨_, rfl, Runs.ite ⟨rfl, sagOff_keeps _, fun e => Or.inl e⟩ (Runs.refl s)⟩
theorem retrainPauseEnd_runs (ch : Fin 64) (failed : Bool) (s : State) :
    ∃ t, exec (.retrainPauseEnd ch failed) s = .next t ∧ Runs s t := by
  simp only [exec]
  unfold execRetrainPauseEnd
  dsimp only
  split
  · obtain ⟨t, e, h⟩ := onPlane_runs (pauseEnd ch failed)
      { s with mg := { s.mg with settings := tput 0 s.mg.settings ch (s.mg.rateCur + 1) } }
    exact ⟨t, e, h.after_keeps ⟨rfl, rfl, id, rfl⟩⟩
  · exact onPlane_runs (pauseEnd ch failed) s
theorem epochBoundary_runs (rates : BitVec 128) (rfm : BitVec 16) (watts : BitVec 16) (s : State) :
    ∃ t, exec (.epochBoundary rates rfm watts) s = .next t ∧ Runs s t := by
  simp only [exec]
  unfold execEpochBoundary
  refine ⟨_, rfl, Runs.ite (Runs.refl s) (Runs.ite (onDp_keeps _ _).runs ?_)⟩
  refine ((settled_keeps _).after ((onKiln_keeps _ _).after ((onDp_keeps _ _).after (foldl_keeps _ ?_ _ _)))).runs
  intro s o
  unfold latchOne; split
  · split
    · exact Keeps.refl s
    · exact ⟨rfl, rfl, id, rfl⟩
  · exact Keeps.refl s
theorem temperatureSample_runs (temps : List (BitVec 16)) (bad : BitVec 96) (dram : List Byte) (vin : BitVec 16) (pin : BitVec 16) (s : State) :
    ∃ t, exec (.temperatureSample temps bad dram vin pin) s = .next t ∧ Runs s t := by
  simp only [exec]
  unfold execTemperatureSample
  refine ⟨_, rfl, Runs.ite (Runs.refl s) ?_⟩
  dsimp only
  generalize readSensors _ _ s.kn s.dp = x
  refine Keeps.after_runs (t := if _ then trip _ else _) ⟨rfl, rfl, id, rfl⟩ ?_
  refine Runs.ite ((trip_runs _).after_keeps ?_) (Keeps.runs ?_) <;> split <;> exact ⟨rfl, rfl, id, rfl⟩
theorem canaryReading_runs (c : Byte) (slack : BitVec 16) (s : State) :
    ∃ t, exec (.canaryReading c slack) s = .next t ∧ Runs s t := by
  simp only [exec]
  unfold execCanaryReading
  refine ⟨_, rfl, Runs.ite (Runs.refl s) ?_⟩
  dsimp only
  have k : Keeps s { s with kn := { s.kn with canaries := tput {} s.kn.canaries c.toNat { valid := true, slack := slack } } } := ⟨rfl, rfl, id, rfl⟩
  have k2 := (mgEvent_keeps 35 0 (BitVec.ofNat 32 c.toNat) (slack.setWidth 128) _).after k
  refine Runs.ite (Runs.ite k2.runs (Keeps.runs (Keeps.trans k2 ?_))) (Keeps.runs ⟨rfl, rfl, id, rfl⟩)
  exact ⟨rfl, rfl, id, rfl⟩
theorem periodicPlan_runs (s : State) :
    ∃ t, exec (.periodicPlan) s = .next t ∧ Runs s t := by
  simp only [exec]
  exact ⟨_, rfl, Runs.ite (Keeps.runs ⟨rfl, rfl, id, rfl⟩) (Runs.refl s)⟩
theorem retuneEnd_runs (i : Fin 128) (s : State) :
    ∃ t, exec (.retuneEnd i) s = .next t ∧ Runs s t := by
  simp only [exec]
  exact ⟨_, rfl, (Keeps.runs ⟨rfl, rfl, id, rfl⟩)⟩
theorem eventWrite_runs (hostOk : Bool) (s : State) :
    ∃ t, exec (.eventWrite hostOk) s = .next t ∧ Runs s t := by
  simp only [exec]
  obtain ⟨t, e, k⟩ := execEventWrite_keeps hostOk s; exact ⟨t, e, k.runs⟩
theorem holdOffEnd_runs (source : Fin 288) (s : State) :
    ∃ t, exec (.holdOffEnd source) s = .next t ∧ Runs s t := by
  simp only [exec]
  exact ⟨_, rfl, Runs.ite (Runs.refl s) (Keeps.runs ⟨rfl, rfl, id, rfl⟩)⟩
theorem coalescingTimeout_runs (vector : Fin 64) (s : State) :
    ∃ t, exec (.coalescingTimeout vector) s = .next t ∧ Runs s t := by
  simp only [exec]
  unfold execCoalescingTimeout
  exact ⟨_, rfl, Runs.ite (Runs.refl s) (Keeps.runs ⟨rfl, rfl, by simp only [locked, vectorMessage_dbgLock]; exact id, by simp only [vectorMessage_life]⟩)⟩
theorem longOperationComplete_runs (op : Nat) (s : State) :
    ∃ t, exec (.longOperationComplete op) s = .next t ∧ Runs s t := by
  simp only [exec]
  unfold execLongOperationComplete
  refine ⟨_, rfl, ?_⟩
  split
  · exact Runs.refl s
  · exact Runs.ite ((settled_keeps _).after_runs (finishWork_runs _ _)) (Runs.ite (Runs.refl s) (sendDone_keeps _ _).runs)
theorem windowBoundary_runs (s : State) :
    ∃ t, exec (.windowBoundary) s = .next t ∧ Runs s t := by
  simp only [exec]
  exact ⟨_, rfl, turnBoth_runs _ (fun g => turnWindow_keeps _ _ _ _ _) s⟩
theorem sagTurn_runs (s : State) (g : Sag) (p : Plane) (k : SagKeeps s.sg g) : Runs s { s with sg := g, dp := p } :=
  ⟨rfl, k, fun e => Or.inl e⟩
theorem tapRecord_runs (k : Fin 4) (s : State) :
    ∃ t, exec (.tapRecord k) s = .next t ∧ Runs s t := by
  simp only [exec]
  unfold execTapRecord
  refine ⟨_, rfl, ?_⟩
  split
  · exact Runs.refl s
  · split
    · exact sagTurn_runs _ _ _ (takeRec_keeps _ _)
    · exact Runs.refl s
theorem windowRecordClose_runs (s : State) :
    ∃ t, exec (.windowRecordClose) s = .next t ∧ Runs s t := by
  simp only [exec]
  exact onSag_runs _ closeRecord_keeps s
theorem sealN_runs (low : Bool) (s : State) :
    ∃ t, exec (.sealN low) s = .next t ∧ Runs s t := by
  simp only [exec]
  refine onSag_runs _ (fun g => ?_) s
  split
  · exact SagKeeps.refl g
  · exact (tell_keeps _ _ _ _ _).after ⟨rfl, rfl, rfl, rfl, rfl, rfl, rfl, Or.inl rfl, Or.inl rfl⟩
theorem referenceLoss_runs (s : State) :
    ∃ t, exec (.referenceLoss) s = .next t ∧ Runs s t := by
  simp only [exec]
  exact onSag_runs _ refLost_keeps s
theorem referenceLock_runs (s : State) :
    ∃ t, exec (.referenceLock) s = .next t ∧ Runs s t := by
  simp only [exec]
  exact onSag_runs _ refLocked_keeps s
theorem mirrorLoss_runs (s : State) :
    ∃ t, exec (.mirrorLoss) s = .next t ∧ Runs s t := by
  simp only [exec]
  exact ⟨_, rfl, (Keeps.runs ⟨rfl, rfl, id, rfl⟩)⟩
theorem slowClockEdge_runs (s : State) :
    ∃ t, exec (.slowClockEdge) s = .next t ∧ Runs s t := by
  simp only [exec]
  unfold execSlowClockEdge
  refine ⟨_, rfl, Runs.ite (Runs.refl s) (Keeps.runs ?_)⟩
  exact (foldl_keeps _ (fun s a => mendReg_keeps a s) _ _).after ⟨rfl, rfl, id, rfl⟩
theorem endpointEnable_runs (s : State) :
    ∃ t, exec (.endpointEnable) s = .next t ∧ Runs s t := by
  simp only [exec]
  exact ⟨_, rfl, Runs.ite (Keeps.runs ⟨rfl, rfl, id, rfl⟩) (Runs.refl s)⟩
theorem referenceReturn_runs (s : State) :
    ∃ t, exec (.referenceReturn) s = .next t ∧ Runs s t := by
  simp only [exec]
  exact onSag_runs _ refBack_keeps s
theorem saggerMirrorUpdate_runs (s : State) :
    ∃ t, exec (.saggerMirrorUpdate) s = .next t ∧ Runs s t := by
  simp only [exec]
  unfold execSaggerMirrorUpdate
  refine ⟨_, rfl, Runs.ite (Runs.ite ⟨rfl, ⟨rfl, rfl, rfl, rfl, rfl, rfl, rfl, Or.inl rfl, Or.inl rfl⟩, fun e => Or.inl e⟩ ⟨rfl, ⟨rfl, rfl, rfl, rfl, rfl, rfl, rfl, Or.inl rfl, Or.inl rfl⟩, fun e => Or.inl e⟩) (Runs.refl s)⟩
theorem saggerSecondEdge_runs (s : State) :
    ∃ t, exec (.saggerSecondEdge) s = .next t ∧ Runs s t := by
  simp only [exec]
  exact ⟨_, rfl, turnBoth_runs _ (fun g => secondEdge_keeps _ g) s⟩
theorem trainingCommandTimeout_runs (op : Nat) (s : State) :
    ∃ t, exec (.trainingCommandTimeout op) s = .next t ∧ Runs s t := by
  simp only [exec]
  unfold execTrainingCommandTimeout; refine ⟨_, rfl, ?_⟩
  split
  · exact Runs.refl s
  · refine Runs.ite (Runs.refl s) ?_
    split
    · exact Runs.ite (Runs.refl s) (endWith_keeps _ _ _).runs
    · exact Runs.ite (Runs.refl s) (endWith_keeps _ _ _).runs
    · exact Runs.refl s
theorem busyLineTimeout_runs (s : State) :
    ∃ t, exec (.busyLineTimeout) s = .next t ∧ Runs s t := by
  simp only [exec]
  unfold execBusyLineTimeout; refine ⟨_, rfl, ?_⟩
  split
  · exact Runs.refl s
  · exact (heldReply_keeps _ s _ (onDp_keeps _ s)).runs
theorem flushSilenceTimeout_runs (p : Fin 32) (s : State) :
    ∃ t, exec (.flushSilenceTimeout p) s = .next t ∧ Runs s t := by
  simp only [exec]
  exact ⟨_, rfl, Runs.ite ((settled_keeps _).after (onDp_keeps _ _)).runs (Runs.refl s)⟩
theorem vioChange_runs (present : Bool) (s : State) :
    ∃ t, exec (.vioChange present) s = .next t ∧ Runs s t := by
  simp only [exec]
  exact ⟨_, rfl, (Keeps.runs ⟨rfl, rfl, id, rfl⟩)⟩
theorem marginPlanMade_runs (s : State) :
    ∃ t, exec (.marginPlanMade) s = .next t ∧ Runs s t := by
  simp only [exec]
  exact ⟨_, rfl, Runs.ite (onKiln_keeps _ _).runs (Runs.refl s)⟩
theorem smbusClockLowTimeout_runs (s : State) :
    ∃ t, exec (.smbusClockLowTimeout) s = .next t ∧ Runs s t := by
  simp only [exec]
  exact ⟨_, rfl, Runs.ite (Runs.refl s) (Keeps.runs ⟨rfl, rfl, id, rfl⟩)⟩

/-- A row that is no packet, no row of the data plane, no start and no write under the seal. -/
theorem control_runs (c : Instr) (s : State) (hs : starts c = false) (hm : seals c = false) (hp : planeRow c = false)
    (hk : commandOf c = none) : ∃ t, exec c s = .next t ∧ Runs s t := by
  cases c <;> simp only [planeRow, Bool.true_eq_false] at hp <;> simp only [commandOf, reduceCtorEq] at hk <;>
    simp only [starts, seals, Bool.true_eq_false] at hs hm
  case lowWordRead => exact lowWordRead_runs _ s
  case registerWrite => exact registerWrite_runs _ _ _ s
  case sqTail => exact sqTail_runs _ _ _ s
  case rqHead => exact rqHead_runs _ _ s
  case commandStart => exact commandStart_runs _ _ s
  case spiCmd => exact spiCmd_runs _ s
  case spiReply => exact spiReply_runs s
  case spiStat => exact spiStat_runs s
  case spiCompl => exact spiCompl_runs s
  case mtrStatus => exact mtrStatus_runs s
  case mtrTime => exact mtrTime_runs s
  case windowRead => exact windowRead_runs _ s
  case auditRead => exact auditRead_runs _ s
  case paramGet => exact paramGet_runs _ _ s
  case cfgFire => exact cfgFire_runs _ s
  case fireApply => exact fireApply_runs _ _ s
  case keyGate => exact keyGate_runs _ s
  case devCtrl => exact devCtrl_runs _ s
  case cmdqCtrl => exact cmdqCtrl_runs _ _ s
  case cmdqBaseWrite => exact cmdqBaseWrite_runs _ _ _ s
  case evtCtrl => exact evtCtrl_runs _ s
  case evtHead => exact evtHead_runs _ s
  case smbusRead => exact smbusRead_runs _ s
  case smbusWrite => exact smbusWrite_runs _ _ _ s
  case alertResponse => exact alertResponse_runs s
  case tapInstructionLoad => exact tapInstructionLoad_runs _ _ s
  case vinLoss => exact vinLoss_runs s
  case overVoltageStop => exact overVoltageStop_runs s
  case regulatorFault => exact regulatorFault_runs _ s
  case endpointDisable => exact endpointDisable_runs s
  case vsagPowerUp => exact vsagPowerUp_runs s
  case vsagRemoval => exact vsagRemoval_runs s
  case retrainPauseEnd => exact retrainPauseEnd_runs _ _ s
  case epochBoundary => exact epochBoundary_runs _ _ _ s
  case temperatureSample => exact temperatureSample_runs _ _ _ _ _ s
  case canaryReading => exact canaryReading_runs _ _ s
  case periodicPlan => exact periodicPlan_runs s
  case retuneEnd => exact retuneEnd_runs _ s
  case eventWrite => exact eventWrite_runs _ s
  case holdOffEnd => exact holdOffEnd_runs _ s
  case coalescingTimeout => exact coalescingTimeout_runs _ s
  case longOperationComplete => exact longOperationComplete_runs _ s
  case windowBoundary => exact windowBoundary_runs s
  case tapRecord => exact tapRecord_runs _ s
  case windowRecordClose => exact windowRecordClose_runs s
  case sealN => exact sealN_runs _ s
  case referenceLoss => exact referenceLoss_runs s
  case referenceLock => exact referenceLock_runs s
  case mirrorLoss => exact mirrorLoss_runs s
  case slowClockEdge => exact slowClockEdge_runs s
  case endpointEnable => exact endpointEnable_runs s
  case referenceReturn => exact referenceReturn_runs s
  case saggerMirrorUpdate => exact saggerMirrorUpdate_runs s
  case saggerSecondEdge => exact saggerSecondEdge_runs s
  case trainingCommandTimeout => exact trainingCommandTimeout_runs _ s
  case busyLineTimeout => exact busyLineTimeout_runs s
  case flushSilenceTimeout => exact flushSilenceTimeout_runs _ s
  case vioChange => exact vioChange_runs _ s
  case marginPlanMade => exact marginPlanMade_runs s
  case smbusClockLowTimeout => exact smbusClockLowTimeout_runs s

/-- Any row but a start or a write under the seal. -/
theorem exec_runs (c : Instr) (s : State) (hs : starts c = false) (hm : seals c = false) :
    ∃ t, exec c s = .next t ∧ Runs s t := by
  cases hk : commandOf c with
  | some x =>
    obtain ⟨h, cmd⟩ := x
    exact ⟨_, exec_packet c h cmd s hk, (direct_keeps h cmd (packet_good c h cmd hk) s).runs⟩
  | none =>
    cases hp : planeRow c with
    | true => exact plane_runs c s hp hk
    | false => exact control_runs c s hs hm hp hk

/-- A write under the seal. -/
theorem seals_sag (c : Instr) (s : State) (hm : seals c = true) :
    ∃ t, exec c s = .next t ∧ t.pending = s.pending ∧ t.mg = s.mg ∧
    (SagKeeps s.sg t.sg ∨ (logFull s.sg = false ∧ s.sg.sealN = true ∧ ∃ e,
      ((∃ x, c = .setTime x) ∧ SagKeeps { s.sg with audit := s.sg.audit ++ [e] } t.sg) ∨
      (∃ p i v, c = .paramSet p i v ∧ paramOk p.toNat i.toNat v = true ∧
        SagKeeps { setParam p.toNat i.toNat v { s.sg with sealCnt := s.sg.sealCnt + 1 } with audit := s.sg.audit ++ [e] } t.sg))) := by
  cases c <;> simp only [seals, Bool.false_eq_true] at hm
  case paramSet p i v =>
    simp only [exec, execParamSet, onSag]
    split
    · refine ⟨_, rfl, rfl, rfl, ?_⟩
      rcases paramWrite_cases p.toNat i.toNat v s.sg with h | ⟨a, b, c, e, k⟩
      · left; rw [h]; exact meterAnswer_keeps _ _ _
      · right; exact ⟨a, b, e, Or.inr ⟨p, i, v, rfl, c, (meterAnswer_keeps _ _ _).after k⟩⟩
    · exact ⟨_, rfl, rfl, rfl, Or.inl (SagKeeps.refl _)⟩
  case setTime x =>
    simp only [exec, execSetTime, onSag]
    split
    · refine ⟨_, rfl, rfl, rfl, ?_⟩
      rcases timeWrite_cases x.toNat s.sg with h | ⟨a, b, e, k⟩
      · left; exact (meterAnswer_keeps _ _ _).after h
      · right; exact ⟨a, b, e, Or.inl ⟨⟨x, rfl⟩, (meterAnswer_keeps _ _ _).after k⟩⟩
    · exact ⟨_, rfl, rfl, rfl, Or.inl (SagKeeps.refl _)⟩
/-- A start of the module. -/
theorem starts_sag (c : Instr) (s : State) (hs : starts c = true) :
    ∃ t, exec c s = .next t ∧ t.pending = s.pending ∧ SagKeeps s.sg t.sg := by
  cases c <;> simp only [starts, Bool.false_eq_true] at hs <;> simp only [exec]
  case powerOn b =>
    refine ⟨_, rfl, ?_⟩
    split
    · exact ⟨startMain_pending _ _, by rw [startMain_sg]; exact SagKeeps.refl _⟩
    · exact ⟨rfl, SagKeeps.refl _⟩
  case coldReset b =>
    refine ⟨_, rfl, ?_⟩
    split
    · exact ⟨startMain_pending _ _, by rw [startMain_sg]; exact SagKeeps.refl _⟩
    · exact ⟨rfl, SagKeeps.refl _⟩
  case overVoltageEnd b =>
    refine ⟨_, rfl, ?_⟩
    split
    · exact ⟨startMain_pending _ _, by rw [startMain_sg]; exact SagKeeps.refl _⟩
    · exact ⟨rfl, SagKeeps.refl _⟩
/-- What a step does to the Sagger. -/
theorem step_sag (s t : State) (h : step s = .next t) :
    SagKeeps s.sg t.sg ∨ (logFull s.sg = false ∧ s.sg.sealN = true ∧ ∃ e,
      (SagKeeps { s.sg with audit := s.sg.audit ++ [e] } t.sg) ∨
      (∃ p i v rest, s.pending = .paramSet p i v :: rest ∧ paramOk p.toNat i.toNat v = true ∧
        SagKeeps { setParam p.toNat i.toNat v { s.sg with sealCnt := s.sg.sealCnt + 1 } with audit := s.sg.audit ++ [e] } t.sg)) := by
  unfold step at h
  split at h
  · rename_i hp
    cases h
    left; exact (tick_runs s).sag
  · rename_i c rest hp
    cases hm : seals c with
    | true =>
      obtain ⟨u, e, _, _, k⟩ := seals_sag c { s with pending := rest } hm
      rw [e] at h; cases h
      rcases k with k | ⟨a, b, e2, (⟨⟨x, _⟩, k⟩ | ⟨p, i, v, rfl, c, k⟩)⟩
      · exact Or.inl k
      · exact Or.inr ⟨a, b, e2, Or.inl k⟩
      · exact Or.inr ⟨a, b, e2, Or.inr ⟨p, i, v, rest, hp, c, k⟩⟩
    | false =>
      cases hs : starts c with
      | true =>
        obtain ⟨u, e, _, k⟩ := starts_sag c { s with pending := rest } hs
        rw [e] at h; cases h
        exact Or.inl k
      | false =>
        obtain ⟨u, e, k⟩ := exec_runs c { s with pending := rest } hs hm
        rw [e] at h; cases h
        exact Or.inl k.sag

end Sys2Proof.Machine
end

