-- ==== Sys2Proof/Tests/Slice0.lean ====
section
/-! SUPPORT. Tests: what WellFormed refuses, the spec's worked examples and tables, single steps, and for every statement a state
and operands that meet its hypotheses. -/
namespace Sys2Proof.Tests
set_option Elab.async false
open Sys2Proof
open Sys2Proof.Machine

/-! ### Well-formed commands -/

/-- A message body with nothing in it. -/
def body0 : Body := { tag := 0, inst := 0, gen := 0, priv := false, sub := 0, info := 0, addr := 0, mask := 0, data := 0 }
/-- A packet on the SPI port, with the key. -/
def hdr4 : Hdr := { queue := 4, seq := 1, key := 0xB7E5 }

theorem test_wf_fwStage : Instr.wf (.fwStage hdr4 0 2 true ⟨0, [1]⟩) = false ∧ Instr.wf (.fwStage hdr4 0 2 true ⟨0, [1, 2]⟩) = true := by decide +kernel
theorem test_wf_sqTail :
    Instr.wf (.sqTail 0 0 (List.replicate 256 0)) = false ∧ Instr.wf (.sqTail 0 255 (List.replicate 255 0)) = true := by decide +kernel
theorem test_wf_lowWordRead : Instr.wf (.lowWordRead 2) = false ∧ Instr.wf (.lowWordRead 0x1FFFFFC) = true := by decide +kernel
theorem test_wf_registerWrite : Instr.wf (.registerWrite 1 15 0) = false ∧ Instr.wf (.registerWrite 4 15 0) = true := by decide +kernel
theorem test_wf_temperatureSample :
    Instr.wf (.temperatureSample (List.replicate 95 0) 0 (List.replicate 64 0) 0 0) = false ∧
    Instr.wf (.temperatureSample (List.replicate 96 0) 0 (List.replicate 63 0) 0 0) = false ∧
    Instr.wf (.temperatureSample (List.replicate 96 0) 0 (List.replicate 64 0) 0 0) = true := by decide +kernel
theorem test_wf_trainingEnd : Instr.wf (.trainingEnd (.port 0) ⟨0xFF, 3⟩) = false ∧ Instr.wf (.trainingEnd (.port 0) ⟨0xFE, 8⟩) = true := by decide +kernel
theorem test_wf_messages :
    ([.reqRdShared, .reqRdUnique, .reqRdOnce, .reqCleanUnique, .reqWrFull, .reqWrPartial, .reqLdRsv, .reqStCond, .reqAtAdd,
      .reqAtSwap, .reqAtCas, .reqIoRd, .reqIoWr, .reqFence, .evnWbData, .datData, .datDataPoison, .rspI, .rspS, .rspIWbpend,
      .rspComp, .rspCompErr, .rspCompAck, .rspLevel] : List (From → Body → Instr)).all (fun row =>
        !(row (.net 0 0) body0).wf && (row (.port 0) body0).wf) = true := by decide +kernel
theorem test_wf_notice : Instr.wf (.relRelease (.net 0 0) body0) = true := by decide +kernel

/-! ### Worked examples of the spec -/

/-- Chapter 02: SPA 0x0692_3456_7840 is homed on T2, channel index 11, at channel-local line 0x123_4567. -/
def exSpa : Spa := 0x069234567840
theorem test_hash : spaNode exSpa = 13 ∧ lineTile (spaLine exSpa) = 2 ∧ lineChan (spaLine exSpa) = 11 ∧
    lineCl (spaLine exSpa) = 0x1234567 ∧ lineTile (spaLine exSpa - 1) = 3 := by decide +kernel
/-- Chapter 08: column 39 of bank 9, row 0x48D1; during its evacuation CH34, row 0x1_E8D1. -/
theorem test_dram_map : colOf 0x1234567 = 39 ∧ bankOf 0x1234567 = 9 ∧ rowOf 0x1234567 = 0x48D1 := by decide +kernel
theorem test_evacuated_line :
    redirect { state := 1, chan := 11, cursor := 0x1234568 } 11 0x1234567 = (2, 0x1E8D159C0 / 64) ∧
    redirect { state := 1, chan := 11, cursor := 0x1234567 } 11 0x1234567 = (11, 0x1234567) := by decide +kernel
/-- Chapter 04: directory set 0x1_6C7D and tag 0x091A; the coarse entry's image. -/
theorem test_directory : dSet (spaLine exSpa) = 0x16C7D ∧ dTag (spaLine exSpa) = 0x091A ∧
    encodeDir { coarse := true, cls := 2, tag := 0x091A, groups := 0x10003 } = 0x70246800000000000000000000010003 := by decide +kernel
/-- Chapter 06: cache set 0x753 and tag 0x1234; the tag entry's image. -/
theorem test_cache : cSet 0x1234567 = 0x753 ∧ cTagOf 0x1234567 = 0x1234 ∧
    encodeTag { tag := 0x1234, age := 1, unch := true, cls := 2 } = 0x2469240400 := by decide +kernel
/-- Table 03.12: the header slot of the request. -/
def exBody : Body := { body0 with tag := 0x2A, inst := 9, gen := 4, addr := 0x34567840 }
theorem test_header_slot : encodeHdr 0 1 exBody = 0x01002A12080000000000000034567840 := by decide +kernel
/-- Chapter 10: the route slot of the request. -/
theorem test_route_slot :
    encodeRoute {
      dst := 13, src := 5, xtag := 0x123, epoch := 7, mcast := false, vcb := false, alt := false, panic := false,
      hops := 1, port := 3, inst := 9, gen := 4, priv := false, attach := 0, cls := 2, ack := 1, rt := false, rsn := 0 } =
    0x00340050123000700118120800900000 := by decide +kernel
/-- Chapter 12: the entry of REGION_SET, bytes 0x10 to 0x1F. -/
theorem test_region_entry : decodeRegion 0x00000549000900170014000100140001 =
    {
      base := 0x140001, limit := 0x140001, owner := 9, rt := false, meter := false, ack := 2, cls := 3, valid := true,
      target := 0x549 } := by decide +kernel

/-- Table 02.6: node 5 with instance 9, its window 0 and region 12, seen from sub-agent 0 of AP3. -/
def exPort : Port :=
  {
    state := .active, step := 0, width := 8, present := 0xFF, caching := 0xFF, given := { req := 192, evn := 64, dat := 64 },
    have_ := { req := 64, snp := 64, dat := 64 } }
def exWindow : Window :=
  {
    base := 0, limit := 0xFFFFF, offset := 0x69200000, privOnly := false, atomic := false, write := true, read := true,
    valid := true }
def exPlane : Plane :=
  let p : Plane := setPort {} 3 exPort
  { p with
    dw := { node := 5, cur := aloneMap 5, prev := aloneMap 5 }, insts := [(9, { state := .active, gen := 4 })],
    binds := [(24, 9)], windows := [(64 * 9, exWindow)],
    regions := [(12, {
      base := 0x349000, limit := 0x3497FF, owner := 9, rt := false, meter := false, ack := 1, cls := 2,
      valid := true, target := 0 })] }
/-- The same with node 13 in the map and a route to it over JL3. -/
def exJoined : Plane :=
  { exPlane with
    dw := { exPlane.dw with routes := [(13, 0x98000000)], cur := aloneMap 5 ||| aloneMap 13 } }
/-- The reason of a refusal. -/
def reasonOf : Checked → Option (BitVec 8)
  | .fail r _ => some r
  | _ => none
theorem test_window_reason : reasonOf (checkReq exPlane 3 .rdUnique { exBody with addr := 0x100000000 }) = some rWindow := by decide +kernel
theorem test_window_denied : reasonOf (checkReq { exPlane with windows := [(64 * 9, { exWindow with write := false })] } 3 .rdUnique
    exBody) = some rDenied := by decide +kernel
theorem test_generation : reasonOf (checkReq exPlane 3 .rdUnique { exBody with gen := 3 }) = some rGeneration := by decide +kernel
/-- The request that passes goes to SPA 0x0692_3456_7840 with class SHARED and policy HOME. -/
theorem test_request_passes : (match checkReq exJoined 3 .rdUnique exBody with
    | .pass r => r.spa == exSpa && r.cls == 2 && r.ack == 1 && r.owner == 9
    | _ => false) = true := by decide +kernel
theorem test_node_absent : reasonOf (checkReq exPlane 3 .rdUnique exBody) = some rNodeAbsent := by decide +kernel

/-- The generator of RS(544,514) as IEEE 802.3 prints it, and the codeword of one symbol. -/
theorem test_fec_generator : fecGen.take 5 = [523, 834, 128, 158, 185] ∧ fecGen.length = 31 ∧ fecGen.getLast? = some 1 := by decide +kernel
theorem test_fec_parity : ((List.range 30).all fun j => fecAt (fecEncode [1]) (gfAlpha j) == 0) = true := by decide +kernel
/-- R46: a codeword carries 5,140 message bits, so the third flit straddles the first two. -/
theorem test_fec_flits : codewordFlags (fun n => n == 1) 0 = 0 ∧ codewordFlags (fun n => n == 1) 2 = 0xD ∧
    codewordFlags (fun n => n == 1) 3 = 1 ∧ flitCodewords { cwBad := true } 1 = (0, true, true) ∧
    flitCodewords {} 0xD = (1, true, true) := by decide +kernel

/-! ### States that meet the hypotheses of the statements -/

/-- The reset state with another data plane. -/
def onP (p : Plane) : State := { State.reset with dp := p }
/-- The reset state with another management die. -/
def onM (m : Mgmt) : State := { State.reset with mg := m }
def votedOn : Voted Reg := ⟨0x80000000, 0x80000000, 0x80000000⟩
/-- Four running queues. -/
def ringsOn : State := onM { rings := [(0, { ctrl := votedOn }), (1, { ctrl := votedOn }), (2, { ctrl := votedOn }), (3, { ctrl := votedOn })] }
/-- A packet of a queue. -/
def hdrQ (q : Fin 5) (key : BitVec 16) : Hdr := { queue := q, seq := 7, key := key }
/-- The next packet of a queue, as `mayGive` says, decided. -/
def given (qs : List Nat) (keyed : Bool) (h : Hdr) (s : State) : Bool :=
  rowReady h s && s.mg.life != .recovery && qs.contains (rightsOf h) && (!keyed || h.key == 0xB7E5) &&
    (!(locked s) || rightsOf h != 3)
theorem given_mayGive {qs : List Nat} {keyed : Bool} {h : Hdr} {s : State} (g : given qs keyed h s = true) :
    mayGive qs keyed h s := by
  simp only [given, Bool.and_eq_true, bne_iff_ne, ne_eq, List.contains_iff_mem, Bool.or_eq_true, Bool.not_eq_true',
    beq_iff_eq] at g
  obtain ⟨⟨⟨⟨a, b⟩, c⟩, d⟩, e⟩ := g
  refine ⟨a, b, c, fun k => ?_, fun k => ?_⟩
  · rcases d with d | d
    · rw [d] at k; cases k
    · exact d
  · rcases e with e | e
    · rw [e] at k; cases k
    · exact e
/-- Packets of Q0 with the key, of Q1, Q2 and Q3 are all given on the running queues, and one on the SPI port at reset. -/
theorem test_meets_mayGive : mayGive [0] true (hdrQ 0 0xB7E5) ringsOn ∧ mayGive [0, 1] false (hdrQ 1 0) ringsOn ∧
    mayGive [0, 1, 2] false (hdrQ 2 0) ringsOn ∧ mayGive [0, 3] false (hdrQ 3 0) ringsOn ∧ mayGive [0] true hdr4 State.reset :=
  ⟨given_mayGive (by decide +kernel), given_mayGive (by decide +kernel), given_mayGive (by decide +kernel),
    given_mayGive (by decide +kernel), given_mayGive (by decide +kernel)⟩
theorem test_meets_slotFree : slotFree State.reset := by unfold slotFree; decide +kernel

theorem test_meets_StepRunsTheFrontCommand :
    ({ State.reset with pending := [.mtrTime, .mtrStatus] } : State).pending = .mtrTime :: [.mtrStatus] := rfl
theorem test_meets_AnIdleStepIsOneTick : State.reset.pending = [] := rfl
theorem test_legal_at_reset : Sag.Legal State.reset.sg := by constructor <;> decide +kernel
/-- A PARAM_SET under the seal, of a first label. -/
def sealing : State := { State.reset with pending := [.paramSet 1 7 0x0000000100000001] }
theorem test_meets_LegalMetrologyIsKept :
    Sag.Legal sealing.sg ∧ ∃ t, step sealing = .next t ∧ t.sg.labelsNext ≠ sealing.sg.labelsNext ∧ t.sg.sealCnt = 1 :=
  ⟨test_legal_at_reset, _, rfl, by decide +kernel, by decide +kernel⟩
/-- The debug lock set. -/
def lockedState : State := onM { dbgLock := ⟨true, true, false⟩ }
theorem test_meets_DebugLockHolds : locked lockedState = true ∧ ∃ t, step lockedState = .next t ∧ locked t = true :=
  ⟨by decide +kernel, _, rfl, by decide +kernel⟩
theorem test_meets_RefusedCommandsChangeNothing :
    commandOf (.devResetWarm { hdr4 with key := 0 }) = some ({ hdr4 with key := 0 }, cmdDevResetWarm) ∧
    rowReady { hdr4 with key := 0 } State.reset = true ∧
    gate { hdr4 with key := 0 } cmdDevResetWarm State.reset = some sDenied ∧
    gate hdr4 cmdCacheEnable State.reset = none ∧
    (cmdCacheEnable.body hdr4 (enterRow hdr4 State.reset)).2 = some (sNeedsInvalidate, 0) ∧ 0x10 ≤ sNeedsInvalidate.toNat :=
  ⟨rfl, by decide +kernel, by decide +kernel, by decide +kernel, by decide +kernel, by decide +kernel⟩
theorem test_meets_KeyedCommandsNeedTheKey :
    commandOf (.devResetWarm (hdrQ 0 0xB7E4)) = some (hdrQ 0 0xB7E4, cmdDevResetWarm) ∧ cmdDevResetWarm.keyed = true ∧
    rowReady (hdrQ 0 0xB7E4) ringsOn = true := ⟨rfl, rfl, by decide +kernel⟩
/-- The recovery service. -/
def recovering : State := { ringsOn with mg := { ringsOn.mg with life := .recovery } }
theorem test_meets_RecoveryServesItsCommands :
    rowReady (hdrQ 0 0) recovering = true ∧ rightsOf (hdrQ 0 0) = 0 ∧ rowReady (hdrQ 1 0) recovering = true ∧
    rightsOf (hdrQ 1 0) ≠ 0 ∧ recovering.mg.life = .recovery ∧ cmdCacheEnable.recover = false := by decide +kernel
/-- Q3 with a full reply ring. -/
def fullReplies : State := onM { rings := [(3, { ctrl := votedOn, rqTail := 255, rqHead := 0 })] }
theorem test_meets_AFullReplyRing :
    (ring fullReplies.mg 3).rqTail + 1 = (ring fullReplies.mg 3).rqHead ∧
    ∃ t, exec (.commandStart [] ⟨true, true⟩) fullReplies = .next t ∧ (ring t.mg 3).rqTail = 255 :=
  ⟨by decide +kernel, _, rfl, by decide +kernel⟩

theorem test_meets_InquiriesAnswer :
    (tfind exPlane.regions 12).isSome = true ∧ tfind exPlane.regions 255 = none ∧
    given [0, 1, 2, 3] false hdr4 (onP exPlane) = true := by decide +kernel
def okRegion : BitVec 128 := 0x00000549000900170014000100140001
theorem test_meets_DeviceCommandsAct :
    modeBusy 11 State.reset = false ∧ hostMode State.reset.dp 11 ≠ true ∧ hostMode State.reset.dp 0 = false ∧
    regionBad (decodeRegion okRegion) = false ∧ existsInst exPlane (decodeRegion okRegion).owner.toNat = true ∧
    powerRuns State.reset.dp = false ∧ alone State.reset.dp = true ∧
    given [0, 1] false hdr4 (onM { life := .retain }) = true := by decide +kernel
/-- Caches: invalidated, enabled, enabled with a dirty line under host-assisted mode. -/
def invalidated : Plane := { cache := { invDone := true, known := true } }
def enabledCache : Plane := { cache := { enabled := true, known := true } }
def dirtyWay : WayLine := { tag := 0, dirty := true }
def dirtyCache : Plane := { cache := { enabled := true, known := true }, modes := 0xFFF, ways := [(0, dirtyWay)] }
theorem test_meets_CacheSwitchesAct :
    maintRuns invalidated = false ∧ disableRuns invalidated = false ∧ invalidated.cache.enabled = false ∧
    invalidated.cache.invDone = true ∧ State.reset.dp.cache.invDone = false ∧ enabledCache.cache.enabled = true ∧
    hostMode enabledCache fmCache = false ∧ hostMode dirtyCache fmCache = true ∧ dirtyLines dirtyCache ≠ 0 ∧
    dirtyLines { dirtyCache with ways := [] } = 0 ∧ given [0, 1] false hdr4 (onP dirtyCache) = true := by decide +kernel
def patternRegion : Region :=
  ⟨0, 0, 9, false, false, 1, 1, true, 0⟩
/-- A PATTERN region of instance 9 over the first 2 MiB of node 0. -/
def patternPlane : Plane :=
  { enabledCache with
    insts := [(9, { state := .active })]
    regions := [(0, patternRegion)] }
theorem test_meets_CacheWalksAreAccepted :
    disableRuns State.reset.dp = false ∧ rangeBad State.reset.dp 0 1 = false ∧ rangeBad State.reset.dp 0x7FFFFFFFC0 1 = false ∧
    (slice State.reset.dp 63).retired.getLsbD 23 = false ∧
    countBits ((slice State.reset.dp 63).retired ||| (slice State.reset.dp 63).retiring) 24 < 8 ∧
    existsInst State.reset.dp 0 = true ∧ lockBad State.reset.dp 0 1 1 = false ∧ lockFull State.reset.dp 1 1 = false ∧
    allPattern patternPlane 9 0 32768 1 = true ∧ existsInst patternPlane 9 = true ∧ patternPlane.cache.enabled = true := by
  decide +kernel

/-- A line 0 of node 0 that is busy. -/
def busyJob : Job := { id := 9, kind := .recall 0, line := 0, phase := .running }
/-- A descriptor over the PATTERN region: COUNT 32,768, STRIDE 1, LEAD 1, instance 9. -/
def patternReplay : BitVec 256 := encodeReplay ⟨0, 32768, 1, 1, 0, 9, false, true⟩
/-- Q2 holds a command; its turn has come. -/
def fetching : State := onM { rings := [(2, { ctrl := votedOn, sqTail := 1 })], round := 2 }
/-- The SPI port holds a command. -/
def spiWaits : State := onM { spi := { cmd := some 0x0101 } }
/-- The event ring runs, with 2⁴ entries and more asked for, and one event waits. -/
def oneEvent : Ev := { source := 0, code := 1 }
def eventsOn : State :=
  { onM { ev := { ctrl := votedOn } } with dp := { evq := [oneEvent] } }
def heldEvent : Plane := { holds := [(0, { on := true, counted := some (oneEvent, 2) })] }
/-- Group 3 pending on tile T1, with chapter 13's DMC_PANIC_4. -/
def firing : State := onM { fires := [(3, { snap := [(aPanic 12, 0x420040FF)], units := [1] })] }
def cleanOp : LongOp := { id := 4, queue := 4, seq := 1, opcode := 0x0204, work := .cleanAll }
def evacOp : LongOp := { id := 5, queue := 4, seq := 1, opcode := 0x0502, work := .evac 0 }
def flushTag : ModTag := { use := .flush, cls := 1, op := 2, body := body0 }
def flushing : Plane :=
  { setPort {} 31 { exPort with mtags := [(0, flushTag)] } with ops := [{ evacOp with work := .power 2 }] }
def tapRec : TapRec := { seq := 0, tile := 3 }
theorem test_meets_CacheTableCommandsAct :
    tfind State.reset.dp.ways (wayKey 63 4095 23) = none ∧ (tfind dirtyCache.ways (wayKey 0 0 0)).isSome = true ∧
    isRetired dirtyCache 0 0 = false ∧ dirtyCache.cache.enabled = true ∧ wayLineNo 0 0 dirtyWay = 0 ∧
    dirtyCache.jobs = [] ∧ job? dirtyCache dirtyCache.nextJob = none ∧
    busy { dirtyCache with jobs := [busyJob] } 0 = true ∧
    job? { dirtyCache with jobs := [busyJob] } ({ dirtyCache with jobs := [busyJob] } : Plane).nextJob = none ∧
    ((slicesOf 0).any fun n => (waysOf 1).any fun w => lockOwner State.reset.dp n w != some 0) = false ∧
    (decodeReplay 0).valid = false ∧
    (decodeReplay patternReplay).valid = true ∧ (decodeReplay patternReplay).lead ≠ 0 ∧
    allPattern patternPlane 9 (decodeReplay patternReplay).start (decodeReplay patternReplay).count.toNat
      (decodeReplay patternReplay).stride.toNat = true := by decide +kernel
/-- Instance 9 under reset, stopped, with FM_INST host-assisted. -/
def resettingPlane : Plane := { insts := [(9, { state := .resetting, stopped := true })], modes := 0xFFF }
theorem test_meets_InstanceCommandsAct :
    (inst State.reset.dp 127).state = .free ∧ shareBad (decodeShare 0x00101010) = false ∧ allBound State.reset.dp 1 0 = true ∧
    (inst exPlane 9).state = .active ∧ allBound exPlane (2 ^ 24) 9 = true ∧
    (exPlane.regions.any fun y => y.2.owner.toNat == 8) = false ∧ (exPlane.windows.any fun y => y.1 / 64 == 8) = false ∧
    (inst patternPlane 9).state = .active ∧ (patternPlane.windows.any fun y => y.1 / 64 == 9) = false ∧
    hostMode State.reset.dp fmInst = false ∧ hostMode resettingPlane fmInst = true ∧
    (inst resettingPlane 9).state = .resetting ∧ (inst resettingPlane 9).stopped = true ∧
    existsInst exPlane 9 = true ∧ (decodeWindow (encodeWindow exWindow)).valid = true ∧
    windowWraps exWindow = false ∧ windowOverlaps exPlane 9 0 exWindow = false ∧ (decodeWindow 0).valid = false ∧
    windowWraps (decodeWindow 0) = false := by decide +kernel
/-- A prepared epoch 1 with nodes 0 to 16,383 all in the map. -/
def preparedPlane : Plane :=
  { dw := { prep := { valid := true, epoch := 1, seen := BitVec.allOnes 64, chunks := (List.range 64).map fun k => (k, BitVec.allOnes 256) } } }
theorem test_meets_JoinCommandsAct :
    (State.reset.dp.links.any fun x => x.2.state != .down) = false ∧ State.reset.dp.cache.enabled = false ∧
    State.reset.dp.dir = [] ∧ linkOff State.reset 15 = false ∧ (running State.reset.dp fun w => w == .linkUp 15) = false ∧
    (65535 : Nat) ≠ State.reset.dp.dw.curEp ∧ State.reset.dp.dw.pend = none ∧ preparedPlane.dw.prep.valid = true ∧
    preparedPlane.dw.prep.epoch = 1 ∧ preparedPlane.dw.prep.seen = BitVec.allOnes 64 ∧
    omits preparedPlane (mapOf preparedPlane.dw.prep) = false ∧ preparedPlane.epoch < 1 ∧
    windowOn State.reset.dp State.reset.dp.dw.node = false ∧ State.reset.dp.dw.leaving = false ∧
    hostMode State.reset.dp fmLeave = false ∧ hostMode resettingPlane fmLeave = true ∧ resettingPlane.dw.leaveDone = 0 := by
  decide +kernel
theorem test_meets_MemoryCommandsAct :
    trainRuns State.reset.dp 1 = false ∧ (chan (setChan {} 0 { state := .down }) 0).state = .down ∧
    evacuated { evac := [(3, { state := 2, chan := 15 })] } 63 = true ∧ (chan State.reset.dp 63).state ≠ .down ∧
    evacuating State.reset.dp 63 = false ∧ tget 0 (chan State.reset.dp 63).spares 15 < 64 ∧ canEvac { State.reset.dp with inforce := [(aDmcCtrl 0, 0x100)] } 63 = true ∧
    spaNode 0 = State.reset.dp.dw.node := by decide +kernel
theorem test_meets_KilnAndOdometerCommandsAct :
    ({ pend := some { id := 3, points := [], left := [] } } : Kiln).pend.isSome = true ∧ freqOk 2000 = true ∧ powerOk 600 = true ∧
    isPorts 49 = true ∧ isPorts 63 = false ∧ domainIdle State.reset.dp 49 = true ∧ counterCodes.contains 0x1001 = true ∧
    countersOf State.reset.dp 1023 0 < 512 ∧ (inst State.reset.dp 0).state ≠ .free ∧
    (List.range 64).any isJoin = true := by decide +kernel
theorem test_meets_DebugAndUnitCommandsAct :
    locked State.reset = false ∧ engineTargets 5 = 16 ∧ injectLinkUp exPlane 3 = true ∧
    injectParam exPlane 3 3 1 0 0 0 0 0 = false ∧ injectParam State.reset.dp 0 0 1 0 1 0 0 0 = false ∧
    injectBad State.reset.dp 0 0 0 = false ∧ writeWaits State.reset.dp 0 = false ∧ State.reset.dp.jobs = [] ∧
    job? State.reset.dp State.reset.dp.nextJob = none ∧ busy { State.reset.dp with jobs := [busyJob] } 0 = true ∧
    writeWaits (setChan {} 5 { wq := [{ wr := true, line := 0, raw := 0 }] }) 0 = true ∧ (sramWord dirtyCache 0 0).isSome = true ∧
    injectBad dirtyCache 1 0 0 = false ∧ stageRuns State.reset.dp = false ∧ State.reset.mg.endpoint = true ∧
    State.reset.mg.startSlot ≠ 1 - State.reset.mg.running ∧ (slotOf State.reset.mg 0).valid = true ∧
    portOff State.reset 31 = false ∧ (running State.reset.dp fun w => w == .linkTrain 31) = false ∧
    (port exPlane 3).state = .active := by decide +kernel

theorem test_meets_DoorbellsMoveTheirPointers :
    hostOn ringsOn = true ∧ enabled (ctlOf (ring ringsOn.mg 3)) = true ∧ enabled (ctlOf (ring State.reset.mg 3)) = false ∧
    (0 - (0 : BitVec 8)).toNat ≤ ((255 : BitVec 8) - 0).toNat ∧
    mayStart fetching = true ∧ turnOf (queueReady fetching) fetching.mg.round = some 2 := by decide +kernel
theorem test_meets_CommandStartTakesTheNextPacket :
    mayStart spiWaits = true ∧ turnOf (queueReady spiWaits) spiWaits.mg.round = some 4 ∧ spiWaits.mg.spi.cmd.isSome = true ∧
    turnOf (queueReady State.reset) State.reset.mg.round = none := by decide +kernel
theorem test_meets_SpiFramesAct :
    mgcOn State.reset = true ∧ State.reset.mg.spi.cmd = none ∧ runsHeld State.reset.mg 4 = false ∧
    State.reset.mg.spi.reply = none ∧ spiWaits.mg.spi.cmd ≠ none ∧ State.reset.side.vio = true ∧
    (onM { spi := { reply := some 1, compl := [2] } }).mg.spi.compl ≠ [] := by decide +kernel
theorem test_meets_KeyGateAdmitsOneKeyedWrite :
    hostOn State.reset = true ∧ (0x1234B7E5 : Reg).setWidth 16 = (0xB7E5 : BitVec 16) ∧
    (onM { keyOpen := true }).mg.keyOpen = true ∧ State.reset.mg.keyOpen = false := by decide +kernel
theorem test_meets_QueueAndEventControlsAct :
    enabled (ctlOf (ring ringsOn.mg 0)) = true ∧ runsHeld ringsOn.mg 0 = false ∧
    runsHeld (onM { held := some { queue := 3, seq := 0, opcode := 0, job := 0, work := .setway 0 0 0 0 false } }).mg 3 = true ∧
    enabled (evCtlOf State.reset.mg.ev) = false ∧ enabled (evCtlOf eventsOn.mg.ev) = true ∧
    fld (evCtlOf eventsOn.mg.ev) 0 4 ≠ fld (0x80000003 : Reg) 0 4 := by decide +kernel
theorem test_meets_FiringsApplyTheirSnapshot :
    (∀ x ∈ State.reset.mg.fires, x.1 ≠ 7) ∧ State.reset.mg.life = .run ∧
    firing.mg.fires.find? (fun x => x.1 == 3) = some (3, { snap := [(aPanic 12, 0x420040FF)], units := [1] }) ∧
    ([(aPanic 12, (0x420040FF : Reg))].map (·.1)).Nodup ∧ rwfUnit (aPanic 12) = 1 ∧ aPanic 12 ≠ aDmcCtrl 0 := by decide +kernel
theorem test_meets_FiringAPendingGroup :
    hostOn firing = true ∧ (8 : Reg).getLsbD 3 = true ∧ (∃ x ∈ firing.mg.fires, x.1 = 3) := by decide +kernel
theorem test_meets_RegisterAccessesAct :
    hostOn State.reset = true ∧ (0xB00140 : BitVec 25).extractLsb' 0 2 = 0 ∧ (0xB00140 : Nat) ∉ votedRegs ∧
    rwfMask 0xB00140 ≠ 0 ∧ aPanic 12 = 0xB00140 ∧ assigned 0xB00140 = true ∧ assigned 0x1FFFFFC = false := by decide +kernel
theorem test_meets_EventRowsAct :
    eventsOn.dp.evq.length = 1 ∧ evFull eventsOn.mg.ev = false ∧ hostOn eventsOn = true ∧
    tget 0 (onM { ev := { since := [(63, 1)] } }).mg.ev.since 63 ≠ 0 ∧
    fld (rg { State.reset.dp with inforce := [(aEvtVec 63, 0xFFFF0000)] } (aEvtVec 63)) 16 16 ≠ 0 ∧
    (tget {} ({ holds := [(287, { on := true })] } : Plane).holds 287).on = true ∧
    (tget {} ({ holds := [(287, { on := true })] } : Plane).holds 287).counted = none ∧
    (tget {} heldEvent.holds 0).counted.isSome = true := by decide +kernel
theorem test_meets_EndpointRowsAct : mgcOn State.reset = true ∧ State.reset.mg.endpoint = true := by decide +kernel
theorem test_meets_SidebandRowsAct :
    State.reset.mg.life ≠ .noVin ∧ (smbRead State.reset 0).isSome = true ∧ smbRead State.reset 0xFF = none ∧
    ({ State.reset with side := { alert := true } } : State).side.alert = true ∧ State.reset.side.alert = false := by decide +kernel
theorem test_meets_PowerRowsAct :
    (onM { life := .noVin }).mg.life = .noVin ∧ (onM { life := .overVoltage }).mg.life = .overVoltage ∧
    State.reset.kn.domOff.getLsbD 49 = false ∧ isPorts 49 = true ∧ isPorts 63 = false ∧ isJoin 63 = false ∧
    (port flushing 31).mtags.any (fun x => x.2.use == .flush) = true ∧
    (∃ o ∈ flushing.ops, o.ended = none ∧ o.work = .power 2) := by decide +kernel
theorem test_meets_MeterPortAnswers :
    State.reset.dp.variant = .ms ∧ State.reset.sg.powered = true ∧
    (({ records := [{ seq := 0 }] } : Sag).records.find? fun x => x.seq == 0).isSome = true ∧
    State.reset.sg.records.find? (fun x => x.seq == 0) = none ∧ (({ audit := [0] } : Sag).audit[0]?).isSome = true ∧
    State.reset.sg.audit.length ≤ 0 ∧ (paramNow State.reset.sg 0 0).isSome = true ∧ paramNow State.reset.sg 255 0 = none ∧
    State.reset.sg.sealN = true ∧ paramOk 0 0 1 = true ∧ paramOk 0 0 86400000 = true ∧ paramOk 0 0 86400001 = false := by
  decide +kernel
theorem test_meets_SealCounterAndAuditLog :
    1024 ≤ ({ audit := List.replicate 1024 0 } : Sag).audit.length ∧
    (paramWrite 0 0 5 { audit := List.replicate 1024 0 }).1 = 3 ∧ (paramWrite 0 0 5 State.reset.sg).1 = 0 := by decide +kernel
theorem test_meets_SaggerRowsAct :
    State.reset.sg.setPend = none ∧ ({ setPend := some (5, true) } : Sag).setPend.isSome = true ∧
    ({ ending := [{ seq := 1 }] } : Sag).ending ≠ [] ∧ (tap { taps := [(3, { recs := [tapRec] })] } 3).recs ≠ [] ∧
    State.reset.sg.sealN ≠ false ∧ ({ ref := .locked } : Sag).refSel ≠ 2 ∧ ({ powered := false } : Sag).powered = false := by
  decide +kernel
theorem test_meets_ClimateRowsAct :
    tooHot (sampleAll (readSensors (List.replicate 96 400) 0 {} {}).1 (readDram (List.replicate 64 0)
      (readSensors (List.replicate 96 400) 0 {} {}).2)).1 = false ∧
    tightCanary {} { valid := true, slack := 0 } = true ∧ tightCanary {} { valid := true, slack := 100 } = false ∧
    fld (rg State.reset.dp aKlnCfg) 0 16 ≠ 0 ∧ State.reset.mg.warm = false ∧ (onM { power := 1 }).mg.power = 1 ∧
    islandBusy State.reset.dp 127 = false := by decide +kernel
theorem test_meets_LongOperationRowsAct :
    op? { ops := [cleanOp] } 4 = some cleanOp ∧ cleanOp.ended = none ∧ nextWayFor { ops := [cleanOp] } cleanOp = none ∧
    cleanOp.inHand = 0 ∧ writesQueued (setChan {} 5 { wait := [{ wr := true, line := 0, raw := 0 }] }) = false ∧
    (link State.reset.dp 15).state ≠ .active ∧ (port State.reset.dp 31).state ≠ .active := by decide +kernel
theorem test_meets_FunctionModes :
    modeBusy 0 State.reset = false ∧ (List.range 12).any (fun f => modeBusy f (onP { ops := [{ evacOp with work := .disable }] })) = true ∧
    State.reset.mg.life ≠ .noVin ∧ State.reset.mg.life ≠ .overVoltage := by decide +kernel

/-! The rows of the data plane. -/

/-- A port that drains, and an agent tag in use. -/
def drainPlane : Plane := setPort exPlane 3 { exPort with hop := { draining := true } }
def usedPlane : Plane := setPort exPlane 3 { exPort with tags := [(0x2A, { sub := 0 })] }
theorem fresh_of (p : Plane) (i : Nat) (cls : BitVec 3) (op : BitVec 5) (b : Body)
    (h : ((port p i).state == .active && !((port p i).rx.contains (cls, op, b)) && (badMessage (port p i) cls op b).isNone) = true) :
    freshMessage p i cls op b := by
  simp only [Bool.and_eq_true, beq_iff_eq, Bool.not_eq_true', Option.isNone_iff_eq_none] at h
  exact ⟨h.1.1, h.1.2, h.2⟩
/-- Every request opcode arrives at the port of Table 02.6; it passes, fails, asks for a counter page, is held back by a drain or
uses a tag twice. -/
theorem test_meets_RequestsOfAgents :
    (∀ op : ReqOp, freshMessage exPlane 3 0 (opBits op) (asSlots (agentSlots 0 (opBits op)) exBody)) ∧
    (tfind (port usedPlane 3).tags exBody.tag.toNat).isSome = true ∧ tfind (port exPlane 3).tags exBody.tag.toNat = none ∧
    (port drainPlane 3).hop.draining = true ∧ (port exPlane 3).hop.draining = false := by
  refine ⟨fun op => fresh_of _ _ _ _ _ ?_, ?_⟩
  · cases op <;> decide +kernel
  · decide +kernel
/-- Node 0 with an ACTIVE join link 0 to node 8, which has given and holds credits. -/
def fullCredits : Credits := { req := 64, snp := 64, evn := 64, dat := 64, rsp := 128, rel := 128 }
def activeLink : JLink :=
  {
    state := .active, width := 8, peerNode := 8, givenA := fullCredits, givenB := fullCredits, haveA := fullCredits,
    haveB := fullCredits }
def linkPlane : Plane := setLink {} 0 activeLink
/-- A route to node 0 from node 8. -/
def inRoute : Route := ⟨0, 8, 5, 0, false, false, false, false, 1, 3, 0, 0, false, 0, 2, 1, false, 9⟩
theorem freshJoin_of (p : Plane) (j : Nat) (r : Route) (g : BitVec 64) (cls : BitVec 3) (op : BitVec 5) (b : Body)
    (h : ((link p j).state == .active && r.dst.toNat == p.dw.node && !((link p j).rx.contains (.join r g cls op b)) &&
      decide (0 < credit (joinGiven (link p j) r.vcb) cls.toNat)) = true) : freshJoin p j r g cls op b := by
  simp only [Bool.and_eq_true, beq_iff_eq, Bool.not_eq_true', decide_eq_true_eq] at h
  exact ⟨h.1.1.1, h.1.1.2, h.1.2, h.2⟩
theorem test_meets_RequestsOfOtherModules :
    (∀ op : ReqOp, freshJoin linkPlane 0 inRoute 0 0 (opBits op) (asSlots (joinSlots 0 (opBits op)) body0)) ∧
    drainOn (joinTaken 0 inRoute 0 0 0 (asSlots (some 1) body0) linkPlane) = false ∧ drainOn drainPlane = true ∧
    isIo .ioRd = true ∧ isIo .rdOnce = false ∧ (link linkPlane 0).state = .active ∧
    present linkPlane.dw.cur linkPlane.dw.node = true ∧ (port linkPlane 3).state ≠ .active ∧
    (port (setPort linkPlane 3 exPort) 3).state = .active ∧ present 0 linkPlane.dw.node = false := by
  refine ⟨fun op => freshJoin_of _ _ _ _ _ _ _ ?_, ?_⟩
  · cases op <;> decide +kernel
  · decide +kernel
theorem test_meets_EvictionsReachTheirHome :
    freshMessage exPlane 3 2 0 (asSlots (agentSlots 2 0) exBody) ∧ spaNode 0 ≠ exPlane.dw.node ∧
    spaNode 0x28000000000 = exPlane.dw.node ∧ freshJoin linkPlane 0 inRoute 0 2 0 (asSlots (joinSlots 2 0) body0) :=
  ⟨fresh_of _ _ _ _ _ (by decide +kernel), by decide +kernel, by decide +kernel, freshJoin_of _ _ _ _ _ _ _ (by decide +kernel)⟩
/-- AP3 owes answers: tag 0 to a snoop of job 1, tag 1 to a forwarded I/O request of entry 0, whose request is REQ.IO_RD; it has used
tags for a grant of a home here, for one of node 8, and for a request with no grant yet. -/
def snoopTag : ModTag := { use := .snoop 1, cls := 1, op := 0, body := body0 }
def ioTag : ModTag := { use := .io 0, cls := 0, op := BitVec.ofNat 5 (reqCode .ioRd), body := body0 }
def owedPlane : Plane :=
  { setPort exPlane 3 { exPort with
      mtags := [(0, snoopTag), (1, ioTag), (2, { ioTag with op := 0x19 })]
      tags := [(0, { sub := 0, ackDue := true, job := some 1 }), (1, { sub := 0, ackDue := true, home := some (8, 5) }), (2, { sub := 0 })] } with
    jobs := [{ id := 1, kind := .req .rdUnique, line := 0, phase := .running, snoops := [5 * 256 + 24] }]
    entries := [(0, { req := { op := .ioRd, port := 3 } })] }
theorem test_meets_AnswersOfAgents :
    freshMessage owedPlane 3 4 0 body0 ∧ freshMessage owedPlane 3 4 0xA body0 ∧ freshMessage owedPlane 3 4 0x10 body0 ∧
    freshMessage owedPlane 3 3 1 (asSlots (some 5) body0) ∧
    (tfind (port owedPlane 3).mtags 0).isSome = true ∧ (delayE (engineOf (port owedPlane 3) 3)).1 = 0 ∧
    (takeReply 3 0 0 0 (.snoop .i) owedPlane).isSome = true ∧ (takeReply 3 1 0 0 (.data 0 false) owedPlane).isSome = true ∧
    takeReply 3 9 0 0 .comp owedPlane = none ∧ tfind (port owedPlane 3).tags 9 = none ∧
    ((tfind (port owedPlane 3).mtags 2).map fun g => (g.op, g.use, g.body.sub)) = some (0x19, .io 0, 0) ∧
    ((tfind (port owedPlane 3).tags 0).bind (·.job)).bind (job? owedPlane) ≠ none ∧
    ((tfind (port owedPlane 3).tags 1).bind (·.home)) = some (8, 5) ∧
    ((tfind (port owedPlane 3).tags 2).map (·.ackDue)) = some false ∧
    freshJoin linkPlane 0 inRoute 0 4 8 body0 :=
  ⟨fresh_of _ _ _ _ _ (by decide +kernel), fresh_of _ _ _ _ _ (by decide +kernel), fresh_of _ _ _ _ _ (by decide +kernel),
    fresh_of _ _ _ _ _ (by decide +kernel), by decide +kernel, by decide +kernel, by decide +kernel, by decide +kernel,
    by rfl, by rfl, by decide +kernel, by decide +kernel, by decide +kernel, by decide +kernel,
    freshJoin_of _ _ _ _ _ _ _ (by decide +kernel)⟩
/-- Each kind of notice waits for the hopper entry 9 of AP3. -/
def noticePlane : Plane :=
  { setPort exPlane 3 { exPort with hop := { entries := [{ rsn := 9 }] } } with
    notices := [⟨0, 3, 9, false, 0, none⟩, ⟨1, 3, 9, false, 0, none⟩, ⟨2, 3, 9, false, 0, none⟩, ⟨3, 3, 9, false, 0, none⟩] }
theorem test_meets_ReleasesAndNotices :
    (takeNotice 0 3 9 noticePlane).isSome = true ∧ (takeNotice 1 3 9 noticePlane).isSome = true ∧
    (takeNotice 2 3 9 noticePlane).isSome = true ∧ (takeNotice 3 3 9 noticePlane).isSome = true ∧
    (hopEntry noticePlane 3 9).isSome = true ∧ hopEntry linkPlane 3 9 = none ∧
    freshJoin linkPlane 0 inRoute 0 5 0 body0 ∧ freshJoin linkPlane 0 inRoute 0 4 0x18 body0 ∧
    relRoom linkPlane inRoute body0 = true :=
  ⟨by decide +kernel, by decide +kernel, by decide +kernel, by decide +kernel, by decide +kernel, by rfl,
    freshJoin_of _ _ _ _ _ _ _ (by decide +kernel), freshJoin_of _ _ _ _ _ _ _ (by decide +kernel), by decide +kernel⟩
/-- A message for node 8 waits to be sent on; node 8 is or is not reachable. -/
def fwd8 : Fwd := { route := ⟨8, 0, 5, 0, false, false, false, false, 0, 3, 0, 0, false, 0, 2, 1, false, 9⟩, cls := 4, op := 8, body := body0 }
def sendPlane : Plane :=
  { linkPlane with dw := { out := [fwd8], routes := [(8, 0x80000000)], cur := aloneMap 0 ||| aloneMap 8 } }
def isYes : Sent → Bool
  | .yes _ => true
  | _ => false
theorem test_meets_DraywayRows :
    isYes (sendOn fwd8 sendPlane) = true ∧ isYes (sendOn fwd8 { sendPlane with links := [] }) = false ∧
    freshJoin linkPlane 0 inRoute 0 4 0x1B body0 ∧ freshJoin linkPlane 0 { inRoute with mcast := true } 1 1 1 body0 ∧
    freshJoin linkPlane 0 { inRoute with mcast := false } 0 1 0 body0 ∧ snoopable (port exPlane 3) = true ∧
    (port exPlane 3).caching.getLsbD 7 = true ∧ snoopable (port linkPlane 3) = false ∧
    freshJoin linkPlane 0 inRoute 0 3 0 (asSlots (joinSlots 3 0) body0) ∧ (joinSlots 3 0).isSome = true ∧
    (entry? owedPlane 0).isSome = true ∧ entry? linkPlane 5 = none ∧ (inst linkPlane 0).gen = inRoute.gen ∧
    (inst linkPlane 0).gen ≠ 1 ∧ presentIn linkPlane 0 = true ∧ presentIn { linkPlane with dw := { cur := 0, prev := 0 } } 0 = false ∧
    (linkPlane.links.find? fun x => x.2.peerNode == inRoute.src.toNat && x.2.peerLink == 0 &&
      (x.2.failPend || x.2.state == .active || x.2.state == .retraining)) = some (0, activeLink) :=
  ⟨by decide +kernel, by decide +kernel, freshJoin_of _ _ _ _ _ _ _ (by decide +kernel), freshJoin_of _ _ _ _ _ _ _ (by decide +kernel),
    freshJoin_of _ _ _ _ _ _ _ (by decide +kernel), by decide +kernel, by decide +kernel, by decide +kernel,
    freshJoin_of _ _ _ _ _ _ _ (by decide +kernel), by decide +kernel, by decide +kernel, by rfl, by decide +kernel, by decide +kernel, by decide +kernel, by decide +kernel, by decide +kernel⟩
/-- A request that waits at a line, a word on its way to the DIU, a broadcast that waits for a token, a hold, a request that waits
for admission. -/
def waitingReq : Req := { op := .wrFull, port := 3, tag := 1, inst := 9, mask := fullMask, tile := 0 }
def homePlane : Plane :=
  { setChan (setTile (setPort { dw := { node := 0 }, insts := [(9, { state := .active })] } 3 exPort) 3
      { tokens := 0, tokq := [2] }) 0 { ret := [({ wr := false, line := 0, raw := 0 }, List.replicate 72 0)] } with
    jobs := [{ id := 1, kind := .req .rdOnce, line := 0 }, { id := 2, kind := .req .rdUnique, line := 64, phase := .running, token := true }]
    rsvs := [⟨7, 3, 0, 0, true, true⟩]
    waits := [waitingReq] }
theorem test_meets_HomeRows :
    (queueHead homePlane 0).isSome = true ∧ (queueHead homePlane 0).any (fun j => Sys2Proof.Machine.canStart j homePlane) = true ∧
    (chan homePlane 0).ret ≠ [] ∧ (htile homePlane 0).tokq = [] ∧ (htile homePlane 3).tokq = [2] ∧
    (job? homePlane 2).isSome = true ∧ (homePlane.rsvs.any fun r => r.agent == 7 && r.line == 3 && r.hold) = true ∧
    drainOn homePlane = false ∧ (pickAdmit homePlane 0).isSome = true := by decide +kernel
/-- A hopper with a FENCE at its head, a REQ.IO_WR that may be sent, and a read it holds. -/
def hopPlane : Plane :=
  { setPort exPlane 3 { exPort with
      mtags := [(1, ioTag)], hop := { entries := [⟨1, .accepted, { op := .fence, port := 3 }, 0, 0, 0, 0, false, false, false, none, false, none, false, none, 0⟩,
        ⟨2, .sent, { op := .ioWr, port := 3 }, 0, 0, 0, 0, false, false, false, none, false, some 1, false, none, 0⟩], held := [(0, [])] } } with
    entries := [(0, { req := { op := .rdOnce, port := 3 } }), (1, { req := { op := .ioWr, port := 3 } })] }
theorem test_meets_HopperRows :
    (pickAdmit homePlane 0).isSome = true ∧ hopNeed .wrFull = true ∧
    ((hopOf hopPlane 3).held.find? (heldReady hopPlane 3)).isSome = true ∧ (entry? hopPlane 0).isSome = true ∧
    ((hopOf hopPlane 3).entries.head?.map (·.req.op)) = some .fence ∧
    ((ioReady (hopOf hopPlane 3).entries).bind (·.ent)) = some 1 ∧ (tfind (port hopPlane 3).mtags 1).isSome = true ∧
    ioTag.sent = false ∧ ({ ioTag with sent := true } : ModTag).sent = true ∧
    ((List.range 8).any fun k => (hopOf drainPlane k).draining) = true ∧ (List.range 8).length = 8 := by decide +kernel
/-- Instance 9 squashed under INST_RESET. -/
def squashedPlane : Plane :=
  { insts := [(9, { state := .resetting, stopped := true, squashed := true })]
    ops := [{ evacOp with work := .instReset 9 }] }
theorem test_meets_InstanceResetRows :
    (resetOp squashedPlane 9).isSome = true ∧ (inst squashedPlane 9).squashed = true ∧ oldWork squashedPlane 9 = false ∧
    resetOp { squashedPlane with ops := [] } 9 = none := by decide +kernel
def rd1 : Access := { wr := false, line := 0, raw := 0, seq := 1 }
def wr2 : Access := { wr := true, line := 1, raw := 1, seq := 2 }
def isAct : Cmd → Bool
  | .act _ => true
  | _ => false
theorem test_meets_DramRows :
    (firstWait { wait := [rd1, wr2] } true none).isSome = true ∧ (firstWait { wait := [rd1, wr2] } false none).isSome = true ∧
    isAct (pickCmd (setChan {} 63 { rq := [rd1] }) 63) = true ∧ pickCmd {} 63 = .idle ∧
    pickCmd (setChan {} 63 { rfmThr := 8, banks := [(2, { acts := 8 })] }) 63 = .rfm 2 ∧
    pickCmd (setChan {} 63 { rq := [rd1], banks := [(2, { owed := 8 })] }) 63 = .refresh 2 ∧
    deepDown { evac := [(3, { state := 2, chan := 15 })] } 63 = true ∧
    fld (rg State.reset.dp (aChCfg 63)) 16 10 ≠ 0 ∧ (chan State.reset.dp 63).rq = [] ∧ (chan State.reset.dp 63).state = .normal ∧
    fld (rg { State.reset.dp with inforce := [(aChCfg 63, 0x00400001)] } (aChCfg 63)) 0 10 ≠ 0 ∧
    ([rd1] ++ [wr2])[1]? = some wr2 := by decide +kernel
theorem test_meets_RetrainRows :
    (chan State.reset.dp 63).state = .normal ∧ hostMode State.reset.dp fmDram = false ∧
    hostMode resettingPlane fmDram = true ∧
    deepDown State.reset.dp 63 = false ∧ pausing State.reset.dp 3 = false ∧ (chan State.reset.dp 63).sc1Due = false ∧
    wantsRetrain { State.reset.dp with clock := 20000000000 } 63 = true ∧ wantsRetrain {} 63 = false ∧
    (chan (setChan {} 5 { sc1Due := true }) 5).sc1Due = true ∧
    (chan (setChan {} 5 { state := .training }) 5).state = .training ∧ (chan (setChan {} 5 { state := .pause0 }) 5).state = .pause0 ∧
    (chan (setChan {} 5 { state := .pause1 }) 5).state = .pause1 := by decide +kernel
/-- A channel being evacuated, a row being copied, a tracked row, a running descriptor. -/
def walkPlane : Plane :=
  { setChan enabledCache 5 { tracker := [{ bank := 2, row := 7, pending := true }] } with
    evac := [(0, { state := 1, chan := 1, cursor := liveLines - 2 })], rowCopies := [{ ch := 5, bank := 1, row := 3, spare := 0, cursor := 63 }]
    descs := [(255, { d := ⟨0, 16, 1, 1, 0, 9, false, true⟩, next := 0, stop := 16 })] }
theorem test_meets_WalkRows :
    (evacOf walkPlane 0).state = 1 ∧ internRuns walkPlane (.evac 1) = false ∧
    evacHere walkPlane 1 { id := 1, kind := .intern (.evac 1), line := lineAt 0 1 (liveLines - 2), fetched := some 0 } = true ∧
    noGlaze walkPlane 5 = false ∧ (chan walkPlane 5).glaze < 2 ^ 27 ∧ internRuns walkPlane (.glaze 5) = false ∧
    internRuns walkPlane (.rowCopy 5) = false ∧
    ((chan walkPlane 5).tracker.any fun x => x.bank == 2 && x.row == 7 && x.pending) = true ∧
    (walkPlane.rowCopies.find? fun x => x.ch == 5).isSome = true ∧ tget 0 walkPlane.sramPos 63 < 98304 ∧
    replayRuns walkPlane = true ∧ (tfind walkPlane.descs 255).isSome = true ∧
    (nextWayFor { dirtyCache with ops := [cleanOp] } cleanOp).isSome = true ∧ cleanOp.inHand = 0 ∧
    rangeReads walkPlane 4 0 < 16 ∧ walkPlane.jobs = [] ∧ job? walkPlane walkPlane.nextJob = none ∧
    busy { walkPlane with jobs := [busyJob] } 0 = true := by decide +kernel
/-! The CRC register after n bits depends on those bits alone, so a flit can carry its own CRC. -/

theorem crcGo_congr (f g : Flit) (n : Nat) (h : ∀ i, i < n → f.getLsbD i = g.getLsbD i) : crcGo f n = crcGo g n := by
  induction n with
  | zero => rfl
  | succ n ih => simp only [crcGo, ih fun i hi => h i (by omega), h n (by omega)]
/-- A flit with a CRC put in. -/
def withCrc (c : BitVec 32) (f : Flit) : Flit := c ++ f.setWidth 2016
theorem withCrc_bits (c : BitVec 32) (f : Flit) (i : Nat) :
    (withCrc c f).getLsbD i = if i < 2016 then (f.setWidth 2016).getLsbD i else c.getLsbD (i - 2016) := BitVec.getLsbD_append
theorem crcOf_withCrc (c : BitVec 32) (f : Flit) : crcOf (withCrc c f) = crcOf f := by
  unfold crcOf
  rw [crcGo_congr (withCrc c f) f 2016 fun i hi => by rw [withCrc_bits, if_pos hi]; simp [hi]]
theorem flitCrc_withCrc (c : BitVec 32) (f : Flit) : flitCrc (withCrc c f) = c := by
  apply BitVec.eq_of_getLsbD_eq
  intro i hi
  have h2 : ¬(2016 + i < 2016) := by omega
  simp [flitCrc, withCrc_bits, hi, h2]
/-- A flit with the right CRC and one with a wrong CRC. -/
theorem test_crc_right (f : Flit) : flitCrc (withCrc (crcOf f) f) = crcOf (withCrc (crcOf f) f) := by
  rw [flitCrc_withCrc, crcOf_withCrc]
theorem test_crc_wrong (f : Flit) : flitCrc (withCrc (~~~(crcOf f)) f) ≠ crcOf (withCrc (~~~(crcOf f)) f) := by
  rw [flitCrc_withCrc, crcOf_withCrc]
  intro h
  have := congrArg (fun x => x.getLsbD 0) h
  simp at this

/-- A flit of type 1 with nothing in it. -/
def ackFlit : Flit := (0x1 : BitVec 4).setWidth 2048 <<< 60
theorem test_meets_LinkRows :
    takesFlits exPlane (.port 3) = true ∧ endActive exPlane (.port 3) = true ∧ flitType ackFlit = 1 ∧
    takesFlits (badCodewords (.port 3) 1 exPlane) (.port 3) = true ∧
    ((port (setPort {} 0 { step := 2 }) 0).step = 2) ∧ (1 : Nat) ≤ 192 ∧
    (link (setLink {} 0 { state := .training, step := 2 }) 0).step = 2 := by decide +kernel
theorem test_meets_TrainingRows :
    (port exPlane 3).state = .active ∧ (port State.reset.dp 0).step = 1 ∧
    (port (setPort {} 31 { state := .contained }) 31).state = .contained ∧ (link linkPlane 0).state = .active ∧
    (port (setPort {} 31 { state := .training, step := 7 }) 31).step = 7 ∧ chosenWidth 0xFF 8 = 8 ∧ chosenWidth 0x7F 8 = 4 ∧
    chosenWidth 0xFF 2 = 2 ∧ chosenWidth 0xFE 8 = 0 ∧
    (link (setLink {} 15 { state := .training, step := 7 }) 15).state = .training := by decide +kernel
def framed : Plane := { frames := [(255, { inst := 9, start := 0, last := 0 })] }
theorem test_meets_PerturbAndTapRows :
    (engineOf (port (setPort {} 3 (setEngine exPort 0 { held := [(5, .msg 0 0 body0)] })) 3) 0).held[0]? = some (5, .msg 0 0 body0) ∧
    (engineOf (port (setPort {} 3 (setEngine exPort 1 { mode := 1, pattern := 2 })) 3) 1).mode = 1 ∧
    (tap State.reset.dp 3).down = false ∧ (tap { taps := [(3, { down := true })] } 3).down = true ∧
    (tfind framed.frames 255).isSome = true := by decide +kernel

theorem test_meets_TheAddressMap : (2 ^ 33 - 1 : Nat) < 2 ^ 33 ∧
    lineAt (lineTile (2 ^ 33 - 1)) (lineChan (2 ^ 33 - 1)) (lineCl (2 ^ 33 - 1)) = 2 ^ 33 - 1 := by decide +kernel
theorem test_meets_TheArray :
    let w := encodeLine 5
    w.length = 72 ∧ (∀ x ∈ w, x < 256) ∧ dramWord (dramPut {} 63 0 w) 63 0 = w ∧ dramWord (dramPut {} 63 0 w) 63 1 ≠ w ∧
    Memory.wf State.reset := by decide +kernel
/-- Chapter 15: three symbols of pin 7 corrupted are corrected; four are not. -/
theorem test_pin_coverage :
    classify (((encodeLine 5).modify 21 (· ^^^ 0xFF)).modify 22 (· ^^^ 0xFF) |>.modify 23 (· ^^^ 0xFF)) =
      .corrected [21, 22, 23] (encodeLine 5) ∧
    classify ((((encodeLine 5).modify 21 (· ^^^ 0xFF)).modify 22 (· ^^^ 0xFF) |>.modify 23 (· ^^^ 0xFF)).modify 0 (· ^^^ 0xFF)) =
      .uncorrectable := by decide +kernel
theorem test_meets_DataPlaneRows : planeRow (.retrainDue 0) = true ∧ planeRow .mtrTime = false ∧
    (onM { life := .retain }).mg.life ≠ .run ∧ ∃ t, exec (.retrainPauseEnd 5 false) (onP (setChan {} 5 { state := .training })) =
      .next t ∧ tget 0 t.mg.settings 5 = 5 := ⟨rfl, rfl, by decide +kernel, _, rfl, by decide +kernel⟩

end Sys2Proof.Tests
end

/-! PROOF. What a command packet does to the command rings and to the key gate: a body touches neither, and a reply touches the ring of
its own queue alone (R294, R298). -/
section
namespace Sys2Proof.Machine
open Sys2Proof

/-- `t` has the command rings and the key gate of `s`. -/
structure KeepsRings (s t : State) : Prop where
  rings : t.mg.rings = s.mg.rings
  gate : t.mg.keyOpen = s.mg.keyOpen

theorem KeepsRings.refl (s : State) : KeepsRings s s := ⟨rfl, rfl⟩
theorem KeepsRings.trans {s t u : State} (h : KeepsRings s t) (k : KeepsRings t u) : KeepsRings s u :=
  ⟨k.rings.trans h.rings, k.gate.trans h.gate⟩
theorem KeepsRings.of_mg {s t : State} (h : t.mg = s.mg) : KeepsRings s t := ⟨by rw [h], by rw [h]⟩
theorem KeepsRings.ite {s a b : State} {c : Prop} [Decidable c] (h : KeepsRings s a) (k : KeepsRings s b) :
    KeepsRings s (if c then a else b) := by
  split
  · exact h
  · exact k
theorem KeepsRings.foldl {α : Type} {f : State → α → State} (h : ∀ s a, KeepsRings s (f s a)) (l : List α) (s : State) :
    KeepsRings s (l.foldl f s) := by
  induction l generalizing s with
  | nil => exact .refl s
  | cons a l ih => exact (h s a).trans (ih (f s a))
theorem KeepsRings.ring {s t : State} (h : KeepsRings s t) (k : Nat) : ring t.mg k = ring s.mg k := by
  unfold Machine.ring; rw [h.rings]

/-! ### Completions -/

@[simp] theorem mgEvent_mg (src : Nat) (code : BitVec 16) (data : BitVec 32) (pay : BitVec 128) (s : State) :
    (mgEvent src code data pay s).mg = s.mg := by unfold mgEvent; split <;> rfl
theorem onDp_keepsRings (f : Plane → Plane) (s : State) : KeepsRings s (onDp f s) := ⟨rfl, rfl⟩
theorem settled_keepsRings (s : State) : KeepsRings s (settled s) := .of_mg (settled_mg s)
theorem portRecord_keepsRings (o : LongOp) (st : BitVec 8) (s : State) : KeepsRings s (portRecord o st s) :=
  .ite ⟨rfl, rfl⟩ (.refl s)
theorem sendDone_keepsRings (id : Nat) (s : State) : KeepsRings s (sendDone id s) := by
  unfold sendDone
  split
  · exact .refl s
  · split
    · exact .refl s
    · exact .ite (.refl s) (.ite ((portRecord_keepsRings _ _ s).trans (onDp_keepsRings _ _))
        ((portRecord_keepsRings _ _ s).trans (onDp_keepsRings _ _)))
theorem endNow_keepsRings (f : Work → Bool) (status : BitVec 8) (s : State) : KeepsRings s (endNow f status s) :=
  .foldl (fun t id => (onDp_keepsRings (endOp id status) t).trans (sendDone_keepsRings id _)) _ s

/-! ### What a body answers -/

/-- What a command answers has the rings and the gate of the state it was started in. -/
def Ret.KeepsRings (s : State) (r : Ret) : Prop := Machine.KeepsRings s r.1
/-- A command whose body keeps the rings and the gate. -/
def Command.KeepsRings (c : Command) : Prop := ∀ h s, Ret.KeepsRings s (c.body h s)

namespace Ret
theorem KeepsRings.ite {s : State} {a b : Ret} {c : Prop} [Decidable c] (h : Ret.KeepsRings s a) (k : Ret.KeepsRings s b) :
    Ret.KeepsRings s (if c then a else b) := by
  split
  · exact h
  · exact k
theorem KeepsRings.deny {s : State} {st : BitVec 8} : Ret.KeepsRings s (deny st s) := .refl s
theorem KeepsRings.okay {s t : State} {res : BitVec 192} (h : Machine.KeepsRings s t) : Ret.KeepsRings s (okay res t) :=
  h.trans (settled_keepsRings t)
theorem KeepsRings.waits {s t : State} {h : HeldCmd} (k : Machine.KeepsRings s t) : Ret.KeepsRings s (waits h t) :=
  k.trans ⟨rfl, rfl⟩
theorem KeepsRings.acceptOp {s t : State} {h : Hdr} {opcode : Nat} {w : Work} {f : State → State} (k : Machine.KeepsRings s t)
    (hf : ∀ u, Machine.KeepsRings u (f u)) : Ret.KeepsRings s (acceptOp h opcode w f t) :=
  k.trans ((onDp_keepsRings (newOp h.queue h.seq (BitVec.ofNat 16 opcode) w) t).trans ((hf _).trans (settled_keepsRings _)))
theorem KeepsRings.startOp {s : State} {h : Hdr} {opcode : Nat} {w : Work} {f : State → State}
    (hf : ∀ u, Machine.KeepsRings u (f u)) : Ret.KeepsRings s (startOp h opcode w f s) :=
  .ite .deny (.acceptOp (.refl s) hf)
theorem KeepsRings.startWalk {s : State} {h : Hdr} {opcode : Nat} {w : Work} : Ret.KeepsRings s (startWalk h opcode w s) :=
  .startOp fun u => .ite (.refl u) ⟨rfl, rfl⟩
end Ret

/-! ### Device commands -/

theorem cmdDevInfo_keepsRings : cmdDevInfo.KeepsRings := fun _ s => .okay (.refl s)
theorem cmdDevStatus_keepsRings : cmdDevStatus.KeepsRings := fun _ s => .okay (.refl s)
theorem cmdFuncModeGet_keepsRings : cmdFuncModeGet.KeepsRings := fun _ s => .okay (.refl s)
theorem cmdRegionGet_keepsRings (index : Byte) : (cmdRegionGet index).KeepsRings := fun _ s => .okay (.refl s)
theorem cmdRegionSet_keepsRings (index : Byte) (entry : BitVec 128) : (cmdRegionSet index entry).KeepsRings :=
  fun _ _ => .ite .deny (.ite .deny (.okay ⟨rfl, rfl⟩))
theorem switchMode_mg (f : Nat) (host : Bool) (s : State) : (switchMode f host s).mg = s.mg := by
  unfold switchMode
  (repeat' split) <;> simp only [onDp_mg]
theorem cmdFuncModeSet_keepsRings (func : Byte) (mode : Bool) : (cmdFuncModeSet func mode).KeepsRings :=
  fun _ s => .ite .deny (.ite .deny (.ite (.okay (.refl s)) (.okay (.of_mg (switchMode_mg ..)))))
theorem abandon_keepsRings (w : Work) (s : State) : KeepsRings s (abandon w s) := by
  unfold abandon; split <;> exact ⟨rfl, rfl⟩
theorem abortAll_keepsRings (s : State) : KeepsRings s (abortAll s) :=
  .foldl (fun t (o : LongOp) =>
    have h : KeepsRings t (onDp (endOp o.id sAborted) (abandon o.work t)) := (abandon_keepsRings o.work t).trans (onDp_keepsRings _ _)
    .ite h (h.trans (sendDone_keepsRings o.id _))) _ s
theorem beginWarm_keepsRings (s : State) : KeepsRings s (beginWarm s) := by
  refine .trans (t := { s with mg := { s.mg with ready := false, warm := true }, kn := { s.kn with nextCap := [], nextPow := none } })
    ⟨rfl, rfl⟩ ?_
  exact .ite ((abortAll_keepsRings _).trans ⟨rfl, rfl⟩) (abortAll_keepsRings _)
theorem cmdDevResetWarm_keepsRings : cmdDevResetWarm.KeepsRings := fun _ _ => .ite .deny (.startOp beginWarm_keepsRings)
theorem cmdDevPowerState_keepsRings (state : Byte) : (cmdDevPowerState state).KeepsRings :=
  fun _ _ => .ite .deny (.ite .deny (.startOp fun u => .ite (.refl u) ⟨rfl, rfl⟩))

/-! ### Cache commands -/

theorem cmdCacheEnable_keepsRings : cmdCacheEnable.KeepsRings :=
  fun _ s => .ite .deny (.ite (.okay (.refl s)) (.ite .deny (.okay ⟨rfl, rfl⟩)))
theorem cmdCacheDisable_keepsRings : cmdCacheDisable.KeepsRings :=
  fun _ s => .ite .deny (.ite (.okay (.refl s)) (.ite (.ite (.okay ⟨rfl, rfl⟩) (.refl s)) (.startOp fun _ => ⟨rfl, rfl⟩)))
theorem cmdCacheInvalidateAll_keepsRings : cmdCacheInvalidateAll.KeepsRings := fun _ _ => .ite .deny (.okay ⟨rfl, rfl⟩)
theorem cmdCacheCleanAll_keepsRings : cmdCacheCleanAll.KeepsRings := fun _ _ => .ite .deny .startWalk
theorem cmdRange_keepsRings (opcode : Nat) (w : Nat → Nat → Work) (base : Spa) (lines : BitVec 34) :
    (cmdRange opcode w base lines).KeepsRings := fun _ _ => .ite .deny (.ite .deny .startWalk)
theorem setwayAct_keepsRings (job n set way op : Nat) (lockedOk : Bool) (s : State) :
    Ret.KeepsRings s (setwayAct job n set way op lockedOk s) :=
  (onDp_keepsRings (fun p => finish job (maintain (some job) op lockedOk (wayKey n set way) (readTag n set way p)).1) s).trans
    (settled_keepsRings _)
theorem setwayTry_keepsRings (h : HeldCmd) (n set way op : Nat) (lockedOk : Bool) (s : State) :
    Ret.KeepsRings s (setwayTry h n set way op lockedOk s) := by
  unfold setwayTry
  split
  · exact .okay ⟨rfl, rfl⟩
  · exact .ite (.trans (onDp_keepsRings _ s) (setwayAct_keepsRings _ _ _ _ _ _ _)) (.waits ⟨rfl, rfl⟩)
theorem cmdSetway_keepsRings (tile slice : Byte) (set : BitVec 16) (way op : Byte) (lockedOk : Bool) :
    (cmdSetway tile slice set way op lockedOk).KeepsRings :=
  fun _ s => .ite .deny (.ite (.okay ⟨rfl, rfl⟩) (setwayTry_keepsRings _ _ _ _ _ _ s))
theorem cmdWayLock_keepsRings (instn : Byte) (ways : BitVec 24) (slices : BitVec 64) : (cmdWayLock instn ways slices).KeepsRings :=
  fun _ _ => .ite .deny (.ite .deny (.ite .deny (.startOp fun _ => .ite ⟨rfl, rfl⟩ ⟨rfl, rfl⟩)))
theorem cmdWayUnlock_keepsRings (instn : Byte) (ways : BitVec 24) (slices : BitVec 64) :
    (cmdWayUnlock instn ways slices).KeepsRings := fun _ _ => .ite .deny (.okay ⟨rfl, rfl⟩)
theorem cmdLinePin_keepsRings (instn : Byte) (unpin : Bool) (lines : BitVec 32) (base : Spa) :
    (cmdLinePin instn unpin lines base).KeepsRings := fun _ _ => .ite .deny (.ite .deny (.startOp .refl))
theorem cmdWayRetire_keepsRings (tile slc way : Byte) (restore : Bool) : (cmdWayRetire tile slc way restore).KeepsRings :=
  fun _ s => .ite .deny (.ite (.okay ⟨rfl, rfl⟩) (.ite (.okay (.refl s)) (.ite .deny (.ite .deny (.startOp fun _ => ⟨rfl, rfl⟩)))))
theorem cmdReplayDescSet_keepsRings (desc : Byte) (d : BitVec 256) : (cmdReplayDescSet desc d).KeepsRings :=
  fun _ _ => .ite .deny (.ite .deny (.okay ⟨rfl, rfl⟩))

/-! ### INST and JOIN commands -/

theorem cmdInstCreate_keepsRings (instn op : Byte) (share : BitVec 32) (mem : BitVec 256) :
    (cmdInstCreate instn op share mem).KeepsRings :=
  fun _ _ => .ite .deny (.ite (.ite .deny (.okay ⟨rfl, rfl⟩)) (.ite (.ite .deny (.okay ⟨rfl, rfl⟩)) (.ite .deny (.okay ⟨rfl, rfl⟩))))
theorem cmdInstDestroy_keepsRings (instn : Byte) : (cmdInstDestroy instn).KeepsRings :=
  fun _ _ => .ite .deny (.ite .deny (.startOp fun u => (onDp_keepsRings _ u).trans (endNow_keepsRings _ _ _)))
theorem cmdInstReset_keepsRings (instn step : Byte) (drainUs : BitVec 16) : (cmdInstReset instn step drainUs).KeepsRings :=
  fun _ _ => .ite .deny (.ite .deny (.ite .deny (.ite (.okay ⟨rfl, rfl⟩)
    (.ite (.startOp fun _ => ⟨rfl, rfl⟩) (.startOp fun _ => ⟨rfl, rfl⟩)))))
theorem cmdInstShareSet_keepsRings (instn : Byte) (share : BitVec 32) : (cmdInstShareSet instn share).KeepsRings :=
  fun _ s => .ite .deny (.ite .deny (.ite .deny (.acceptOp (endNow_keepsRings _ _ s) fun _ => ⟨rfl, rfl⟩)))
theorem cmdInstWindowSet_keepsRings (instn window : Byte) (entry : BitVec 256) : (cmdInstWindowSet instn window entry).KeepsRings :=
  fun _ _ => .ite .deny (.ite .deny (.ite .deny (.okay ⟨rfl, rfl⟩)))
theorem cmdInstStatus_keepsRings (instn part : Byte) : (cmdInstStatus instn part).KeepsRings :=
  fun _ s => .ite .deny (.okay (.refl s))
theorem cmdJoinNodeIdSet_keepsRings (node : BitVec 16) : (cmdJoinNodeIdSet node).KeepsRings :=
  fun _ _ => .ite .deny (.ite .deny (.okay ⟨rfl, rfl⟩))
theorem cmdJoinLinkUp_keepsRings (lnk : Byte) (expect : Bool) (peer : BitVec 14) : (cmdJoinLinkUp lnk expect peer).KeepsRings :=
  fun _ _ => .ite .deny (.ite .deny (.startOp fun _ => ⟨rfl, rfl⟩))
theorem cmdJoinRouteSet_keepsRings (multi : Bool) (lnk : Byte) (first count : BitVec 16) (entry : BitVec 64) (dl : Bool) :
    (cmdJoinRouteSet multi lnk first count entry dl).KeepsRings :=
  fun _ _ => .ite (.ite .deny (.okay ⟨rfl, rfl⟩)) (.ite .deny (.okay ⟨rfl, rfl⟩))
theorem cmdMapEpochPrepare_keepsRings (epoch : BitVec 16) (chunk : Byte) (vector : BitVec 256) :
    (cmdMapEpochPrepare epoch chunk vector).KeepsRings := fun _ _ => .ite .deny (.okay ⟨rfl, rfl⟩)
theorem cmdMapEpochCommit_keepsRings (epoch : BitVec 16) (at_ : BitVec 64) : (cmdMapEpochCommit epoch at_).KeepsRings :=
  fun _ _ => .ite .deny (.ite .deny (.ite .deny (.startOp fun _ => ⟨rfl, rfl⟩)))
theorem cmdNodeLeave_keepsRings (step : Byte) : (cmdNodeLeave step).KeepsRings :=
  fun _ _ => .ite .deny (.ite .deny (.ite .deny (.startOp fun _ => ⟨rfl, rfl⟩)))

/-! ### Memory, Kiln and Odometer commands -/

theorem cmdMemTrain_keepsRings (mode : Byte) (channels : BitVec 64) : (cmdMemTrain mode channels).KeepsRings :=
  fun _ _ => .ite .deny (.ite .deny (.startOp fun _ => ⟨rfl, rfl⟩))
theorem cmdMemChannelEvacuate_keepsRings (channel : Byte) (clearRecord : Bool) :
    (cmdMemChannelEvacuate channel clearRecord).KeepsRings :=
  fun _ _ => .ite .deny (.ite (.okay ⟨rfl, rfl⟩) (.ite .deny (.startOp fun _ => ⟨rfl, rfl⟩)))
theorem cmdMemPageRetire_keepsRings (mode channel bank : Byte) (row : BitVec 32) (spa : Spa) :
    (cmdMemPageRetire mode channel bank row spa).KeepsRings :=
  fun _ _ => .ite .deny (.ite .deny (.ite .deny (.startOp fun _ => ⟨rfl, rfl⟩)))
theorem cmdEccScrubCfg_keepsRings (op dramHours sramHours : Byte) (base : Spa) (lines : BitVec 34) :
    (cmdEccScrubCfg op dramHours sramHours base lines).KeepsRings :=
  fun _ _ => .ite .deny (.ite (.okay ⟨rfl, rfl⟩) (.startOp .refl))
theorem cmdEccCountRead_keepsRings (tile kind index : Byte) (clear : Bool) : (cmdEccCountRead tile kind index clear).KeepsRings :=
  fun _ s => .ite .deny (.okay (.ite ⟨rfl, rfl⟩ (.refl s)))
theorem cmdMarginReplan_keepsRings (op : Byte) (planId : BitVec 32) (islands : BitVec 128) :
    (cmdMarginReplan op planId islands).KeepsRings := by
  refine fun _ s => .ite .deny (.ite (.startOp fun _ => ⟨rfl, rfl⟩) ?_)
  split
  · exact .deny
  · exact .ite .deny (.ite (.startOp fun _ => ⟨rfl, rfl⟩)
      (.startOp fun u => .trans (t := onDp _ (onKiln _ u)) ⟨rfl, rfl⟩ (sendDone_keepsRings _ _)))
theorem cmdMarginLedgerRead_keepsRings (index : BitVec 16) : (cmdMarginLedgerRead index).KeepsRings :=
  fun _ s => .ite .deny (.okay (.refl s))
theorem cmdThermalCfg_keepsRings (isl : Byte) (freqCap powerCap : BitVec 16) : (cmdThermalCfg isl freqCap powerCap).KeepsRings :=
  fun _ _ => .ite .deny (.okay ⟨rfl, rfl⟩)
theorem cmdDomainPower_keepsRings (domain : Byte) (on : Bool) : (cmdDomainPower domain on).KeepsRings :=
  fun _ _ => .ite .deny (.ite .deny (.startOp fun _ => .of_mg (mgEvent_mg ..)))
theorem cmdOdoConfig_keepsRings (counter event : BitVec 16) (flags : BitVec 6) (user : Byte) (filters : BitVec 256) :
    (cmdOdoConfig counter event flags user filters).KeepsRings :=
  fun _ _ => .ite .deny (.ite .deny (.ite .deny (.okay ⟨rfl, rfl⟩)))
theorem cmdOdoSnapshot_keepsRings (first count : BitVec 16) (clear : Bool) (dest : BitVec 64) :
    (cmdOdoSnapshot first count clear dest).KeepsRings := fun _ _ => .ite .deny (.startOp .refl)
theorem cmdHistConfig_keepsRings (hist : Byte) (event : BitVec 16) (flags : BitVec 6) (filters : BitVec 256) :
    (cmdHistConfig hist event flags filters).KeepsRings := fun _ _ => .ite .deny (.okay ⟨rfl, rfl⟩)

/-! ### Perturbation, firmware and link commands -/

theorem cmdPerturbSet_keepsRings (engine target mode : Byte) (value valueMax : BitVec 16) (pattern seed : BitVec 64) :
    (cmdPerturbSet engine target mode value valueMax pattern seed).KeepsRings := fun _ _ => .ite .deny (.okay ⟨rfl, rfl⟩)
theorem cmdPerturbClear_keepsRings : cmdPerturbClear.KeepsRings := fun _ _ => .okay ⟨rfl, rfl⟩
theorem injectAct_keepsRings (job kind line : Nat) (symbols : BitVec 72) (word bit0 bit1 : Nat) (s : State) :
    Ret.KeepsRings s (injectAct job kind line symbols word bit0 bit1 s) := by
  unfold injectAct
  refine .ite ⟨rfl, rfl⟩ ?_
  split
  · exact .okay ⟨rfl, rfl⟩
  · split
    · exact ⟨rfl, rfl⟩
    · exact .okay ⟨rfl, rfl⟩
  · exact .okay ⟨rfl, rfl⟩
theorem cmdErrInject_keepsRings (kind target : Byte) (count : BitVec 16) (spa : Spa) (symbols : BitVec 72) (word bit0 bit1 : Byte) :
    (cmdErrInject kind target count spa symbols word bit0 bit1).KeepsRings :=
  fun _ s => .ite .deny (.ite (.ite (.okay ⟨rfl, rfl⟩) .deny) (.ite .deny
    (.ite (.trans (onDp_keepsRings _ s) (injectAct_keepsRings _ _ _ _ _ _ _ _)) (.waits ⟨rfl, rfl⟩))))
theorem setSlot_keepsRings (s : State) (n : Nat) (x : FwSlot) : KeepsRings s { s with mg := setSlot s.mg n x } :=
  ⟨by unfold setSlot; split <;> rfl, by unfold setSlot; split <;> rfl⟩
theorem cmdFwStage_keepsRings (offset length : BitVec 32) (src : BitVec 64) (final : Bool) (bytes : List Byte) :
    (cmdFwStage offset length src final bytes).KeepsRings :=
  fun _ _ => .ite .deny (.ite .deny (.startOp fun u => (setSlot_keepsRings u _ _).trans ⟨rfl, rfl⟩))
theorem cmdFwActivate_keepsRings (slot when_ : Byte) : (cmdFwActivate slot when_).KeepsRings :=
  fun _ _ => .ite .deny (.ite .deny (.okay (.ite ⟨rfl, rfl⟩ ⟨rfl, rfl⟩)))
theorem cmdFwInfo_keepsRings : cmdFwInfo.KeepsRings := fun _ s => .okay (.refl s)
theorem cmdSaggerStatus_keepsRings : cmdSaggerStatus.KeepsRings := fun _ s => .okay (.refl s)
theorem cmdLinkTrain_keepsRings (prt mode : Byte) : (cmdLinkTrain prt mode).KeepsRings :=
  fun _ _ => .ite .deny (.ite .deny (.startOp fun _ => ⟨rfl, rfl⟩))
theorem cmdLinkStatus_keepsRings (kind index : Byte) : (cmdLinkStatus kind index).KeepsRings :=
  fun _ s => .ite .deny (.okay (.refl s))

/-! ### Packets of a ring -/

theorem packetCache_keepsRings (x : BitVec 512) (c : Command) (h : packetCache x = some c) : c.KeepsRings := by
  unfold packetCache at h
  split at h <;> cases h
  all_goals apply_rules [cmdDevInfo_keepsRings, cmdDevStatus_keepsRings, cmdDevResetWarm_keepsRings, cmdDevPowerState_keepsRings,
    cmdFuncModeSet_keepsRings, cmdFuncModeGet_keepsRings, cmdRegionSet_keepsRings, cmdRegionGet_keepsRings,
    cmdCacheEnable_keepsRings, cmdCacheDisable_keepsRings, cmdCacheInvalidateAll_keepsRings, cmdCacheCleanAll_keepsRings,
    cmdRange_keepsRings, cmdSetway_keepsRings, cmdWayLock_keepsRings, cmdWayUnlock_keepsRings, cmdLinePin_keepsRings,
    cmdWayRetire_keepsRings, cmdReplayDescSet_keepsRings]
theorem packetJoin_keepsRings (x : BitVec 512) (c : Command) (h : packetJoin x = some c) : c.KeepsRings := by
  unfold packetJoin at h
  split at h <;> cases h
  all_goals apply_rules [cmdInstCreate_keepsRings, cmdInstDestroy_keepsRings, cmdInstReset_keepsRings, cmdInstShareSet_keepsRings,
    cmdInstWindowSet_keepsRings, cmdInstStatus_keepsRings, cmdJoinNodeIdSet_keepsRings, cmdJoinLinkUp_keepsRings,
    cmdJoinRouteSet_keepsRings, cmdMapEpochPrepare_keepsRings, cmdMapEpochCommit_keepsRings, cmdNodeLeave_keepsRings]
theorem packetMem_keepsRings (x : BitVec 512) (c : Command) (h : packetMem x = some c) : c.KeepsRings := by
  unfold packetMem at h
  split at h <;> cases h
  all_goals apply_rules [cmdMemTrain_keepsRings, cmdMemChannelEvacuate_keepsRings, cmdMemPageRetire_keepsRings,
    cmdEccScrubCfg_keepsRings, cmdEccCountRead_keepsRings]
theorem packetKiln_keepsRings (x : BitVec 512) (c : Command) (h : packetKiln x = some c) : c.KeepsRings := by
  unfold packetKiln at h
  split at h <;> cases h
  all_goals apply_rules [cmdMarginReplan_keepsRings, cmdMarginLedgerRead_keepsRings, cmdThermalCfg_keepsRings,
    cmdDomainPower_keepsRings, cmdOdoConfig_keepsRings, cmdOdoSnapshot_keepsRings, cmdHistConfig_keepsRings]
theorem packetUnit_keepsRings (x : BitVec 512) (bytes : List Byte) (c : Command) (h : packetUnit x bytes = some c) : c.KeepsRings := by
  unfold packetUnit at h
  split at h <;> cases h
  · exact cmdPerturbSet_keepsRings _ _ _ _ _ _ _
  · exact cmdPerturbClear_keepsRings
  · exact cmdErrInject_keepsRings _ _ _ _ _ _ _ _
  · exact cmdFwStage_keepsRings _ _ _ _ _
  · exact cmdFwActivate_keepsRings _ _
  · exact cmdFwInfo_keepsRings
  · exact cmdSaggerStatus_keepsRings
  · exact cmdLinkTrain_keepsRings _ _
  · exact cmdLinkStatus_keepsRings _ _
theorem packetCmd_keepsRings (x : BitVec 512) (bytes : List Byte) (c : Command) (h : packetCmd x bytes = some c) : c.KeepsRings := by
  unfold packetCmd at h
  split at h
  next e => cases h; exact packetCache_keepsRings _ _ e
  next e => cases h; exact packetJoin_keepsRings _ _ e
  next e => cases h; exact packetMem_keepsRings _ _ e
  next e => cases h; exact packetKiln_keepsRings _ _ e
  next => exact packetUnit_keepsRings _ _ _ h

/-! ### Replies -/

theorem ring_vectorMessage (v : Nat) (m : Mgmt) (k : Nat) : ring (vectorMessage v m) k = ring m k := by
  unfold vectorMessage; split <;> rfl
theorem vectorMessage_keyOpen (v : Nat) (m : Mgmt) : (vectorMessage v m).keyOpen = m.keyOpen := by
  unfold vectorMessage; split <;> rfl

section Reply
variable (q : Nat) (ok : Bool) (opcode : BitVec 16) (status : BitVec 8) (seq : BitVec 32) (result : BitVec 192)

/-- A reply of a queue leaves the rings of the other queues alone. -/
theorem ringReply_ring_other {k : Nat} (h : k ≠ q) (m : Mgmt) : ring (ringReply q opcode status seq result m) k = ring m k := by
  unfold ringReply
  split
  · rfl
  · dsimp only
    split
    · exact (ring_vectorMessage ..).trans (ring_setRing_other m _ h)
    · exact ring_setRing_other m _ h
theorem ringReply_keyOpen (m : Mgmt) : (ringReply q opcode status seq result m).keyOpen = m.keyOpen := by
  unfold ringReply
  split
  · rfl
  · dsimp only
    split
    · exact vectorMessage_keyOpen ..
    · rfl
theorem hostFault_ring_other {k : Nat} (h : k ≠ q) (s : State) : ring (hostFault q s).mg k = ring s.mg k := by
  unfold hostFault
  rw [mgEvent_mg]
  exact ring_setRing_other _ _ h
theorem replyTo_ring_other {k : Nat} (h : k ≠ q) (s : State) :
    ring (replyTo q ok opcode status seq result s).mg k = ring s.mg k := by
  unfold replyTo
  split
  · rfl
  · split
    · exact hostFault_ring_other q h s
    · exact ringReply_ring_other q opcode status seq result h s.mg
/-- No reply touches the key gate. -/
theorem replyTo_keyOpen (s : State) : (replyTo q ok opcode status seq result s).mg.keyOpen = s.mg.keyOpen := by
  unfold replyTo
  split
  · rfl
  · split
    · simp [hostFault]
    · exact ringReply_keyOpen q opcode status seq result s.mg
end Reply

/-! ### The interpreter -/

theorem perform_keepsRings (h : Hdr) (c : Command) (hc : c.KeepsRings) (s : State) : Ret.KeepsRings s (perform' h c s) := by
  unfold perform'
  split
  · exact .deny
  · exact hc h s
theorem conclude_keyOpen (h : Hdr) (opcode : Nat) (r : Ret) : (conclude h opcode r).mg.keyOpen = r.1.mg.keyOpen := by
  unfold conclude
  split
  · rfl
  · exact replyTo_keyOpen ..
theorem conclude_ring_other (h : Hdr) (opcode : Nat) (r : Ret) {k : Nat} (hk : k ≠ h.queue.val) :
    ring (conclude h opcode r).mg k = ring r.1.mg k := by
  unfold conclude
  split
  · rfl
  · exact replyTo_ring_other _ _ _ _ _ _ hk _
/-- A command row leaves the key gate as it is. -/
theorem direct_keyOpen (h : Hdr) (c : Command) (hc : c.KeepsRings) (s : State) : (direct h c s).mg.keyOpen = s.mg.keyOpen := by
  unfold direct
  split
  · rfl
  · split
    · calc (conclude h c.opcode (perform' h c (enterRow h s))).mg.keyOpen
        _ = (perform' h c (enterRow h s)).1.mg.keyOpen := conclude_keyOpen ..
        _ = (enterRow h s).mg.keyOpen := (perform_keepsRings h c hc _).gate
        _ = s.mg.keyOpen := enterRow_mg_keyOpen h s
    · rfl
/-- A packet of a queue that is started leaves the rings of the other queues alone. -/
theorem startPacket_ring_other (q : Fin 5) (ok : Bool) (x : BitVec 512) (bytes : List Byte) (s : State) {k : Nat} (hk : k ≠ q.val) :
    ring (startPacket q ok x bytes s).mg k = ring s.mg k := by
  unfold startPacket
  dsimp only
  split
  · exact replyTo_ring_other _ _ _ _ _ _ hk s
  next c hc =>
    exact (conclude_ring_other _ _ _ hk).trans ((perform_keepsRings _ c (packetCmd_keepsRings x bytes c hc) s).ring k)

/-! ### O10: the key of a keyed command -/

/-- The keyed rows keep the rings and the gate. -/
theorem commandOf_keyed_keepsRings (c : Instr) (h : Hdr) (cmd : Command) (e : commandOf c = some (h, cmd)) (hk : cmd.keyed = true) :
    cmd.KeepsRings := by
  cases c <;> simp only [commandOf, Option.some.injEq, Prod.mk.injEq, reduceCtorEq] at e
  all_goals obtain ⟨rfl, rfl⟩ := e
  case devResetWarm => exact cmdDevResetWarm_keepsRings
  case wayRetire => exact cmdWayRetire_keepsRings _ _ _ _
  case memChannelEvacuate => exact cmdMemChannelEvacuate_keepsRings _ _
  case domainPower => exact cmdDomainPower_keepsRings _ _
  case perturbSet => exact cmdPerturbSet_keepsRings _ _ _ _ _ _ _
  case errInject => exact cmdErrInject_keepsRings _ _ _ _ _ _ _ _
  case fwActivate => exact cmdFwActivate_keepsRings _ _
  all_goals exact nomatch hk

/-- A keyed command without the key is refused before its body (R298). -/
theorem gate_keyed {h : Hdr} {cmd : Command} (hk : cmd.keyed = true) (hkey : h.key ≠ 0xB7E5) (s : State) :
    gate h cmd s = some sDenied :=
  if_pos (.inr (.inr (.inr (.inl ⟨hk, hkey⟩))))

/-- Settles O10: the gate denies a keyed command without the key, and no keyed body or reply writes KEY_GATE. -/
theorem keyedCommandsNeedTheKey : Obligations.KeyedCommandsNeedTheKey := by
  intro c h cmd s e hk
  refine ⟨fun r hkey => exec_refused c h cmd s sDenied e r (gate_keyed hk hkey s), fun t ht => ?_⟩
  rw [exec_packet c h cmd s e] at ht
  cases ht
  exact direct_keyOpen h cmd (commandOf_keyed_keepsRings c h cmd e hk) s

/-! ### O12: a full reply ring -/

theorem replyRoom_of_full {r : Ring} (h : r.rqTail + 1 = r.rqHead) : replyRoom r = false := by
  unfold replyRoom; rw [h]; exact bne_self_eq_false _
theorem queueReady_of_full {q : Nat} {s : State} (hq : q ≠ 4) (hf : (ring s.mg q).rqTail + 1 = (ring s.mg q).rqHead) :
    queueReady s q = false := by
  simp only [queueReady, if_neg hq, replyRoom_of_full hf, Bool.and_false]
theorem rowReady_of_full {h : Hdr} {s : State} (hq : h.queue ≠ 4)
    (hf : (ring s.mg h.queue).rqTail + 1 = (ring s.mg h.queue).rqHead) : rowReady h s = false := by
  simp only [rowReady, if_neg hq, replyRoom_of_full hf, Bool.and_false]
/-- Readiness of a queue reads its own ring. -/
theorem queueReady_setRing_other {q k : Nat} (s : State) (r : Ring) (h : k ≠ q) :
    queueReady { s with mg := setRing s.mg q r } k = queueReady s k := by
  have hon : hostOn { s with mg := setRing s.mg q r } = hostOn s := rfl
  simp only [queueReady, ring_setRing_other s.mg r h, hon, setRing_spi]
/-- The queue whose turn it is is one of the five and is ready. -/
theorem ready_of_turnOf {ready : Nat → Bool} {round q : Nat} (h : turnOf ready round = some q) : ready q = true ∧ q < 5 := by
  unfold turnOf at h
  split at h
  next e =>
    cases h
    have hp := List.find?_some e
    exact ⟨(Bool.and_eq_true_iff.1 hp).2, List.mem_range.1 (List.mem_of_find?_eq_some e)⟩
  next => exact ⟨List.find?_some h, List.mem_range.1 (List.mem_of_find?_eq_some h)⟩

/-- COMMAND_START touches the ring of no queue that is not ready (R294, R300). -/
theorem execCommandStart_ring_of_not_ready {k : Nat} {s t : State} (hk : k < 4) (hr : queueReady s k = false) {bytes : List Byte}
    {host : HostAccess} (ht : execCommandStart bytes host s = .next t) : ring t.mg k = ring s.mg k := by
  unfold execCommandStart at ht
  cases ht
  split
  · rfl
  · split
    · rfl
    next q hq =>
      obtain ⟨hready, hlt⟩ := ready_of_turnOf hq
      have hkq : k ≠ q := by rintro rfl; exact absurd hready (by simp [hr])
      split
      · exact startPacket_ring_other _ _ _ _ _ (Nat.ne_of_lt hk)
      · split
        · exact hostFault_ring_other q hkq _
        · refine startPacket_ring_other _ _ _ _ _ ?_
          rwa [Fin.val_ofNat, Nat.mod_eq_of_lt hlt]

/-- Settles O12: a full reply ring makes its queue unready, and COMMAND_START touches the ring of the queue it takes alone. -/
theorem aFullReplyRingHoldsBackItsOwnQueue : Obligations.AFullReplyRingHoldsBackItsOwnQueue := by
  intro q s hf
  have hr : queueReady s q = false := queueReady_of_full (Nat.ne_of_lt q.isLt) hf
  refine ⟨hr, fun h hq => ?_, fun bytes ok replyOk t ht => ?_, fun r k _ hk => queueReady_setRing_other s r hk⟩
  · refine rowReady_of_full (fun e => ?_) (by rwa [hq])
    exact absurd (hq.symm.trans (congrArg Fin.val e)) (Nat.ne_of_lt q.isLt)
  · rw [execCommandStart_ring_of_not_ready q.isLt hr ht]
    exact ⟨rfl, rfl, rfl⟩

end Sys2Proof.Machine
end

/-! PROOF. The modes of the functions of Table 12.15 (R310, R311). FUNC_MODE_SET and a start alone write them: every other operation on the
plane and on the state that a command, a start or the end of a warm reset runs keeps them, one lemma an operation, callees first. -/
section
namespace Sys2Proof.Machine
open Sys2Proof

/-- A fold whose steps keep a view of the state keeps it. -/
theorem foldl_view {α β γ : Type} (view : β → γ) {f : β → α → β} (h : ∀ b a, view (f b a) = view b) (l : List α) (b : β) :
    view (l.foldl f b) = view b :=
  (List.foldl_hom (g₂ := fun c _ => c) view fun b a => (h b a).symm).symm.trans (List.foldl_fixed l)
@[simp] theorem foldl_modes {α : Type} {f : Plane → α → Plane} (h : ∀ q a, (f q a).modes = q.modes) (l : List α) (p : Plane) :
    (l.foldl f p).modes = p.modes := foldl_view Plane.modes h l p
@[simp] theorem ite_modes (c : Prop) [Decidable c] (p q : Plane) : (if c then p else q).modes = if c then p.modes else q.modes :=
  apply_ite ..

/-! ### Events and the Odometer -/

@[simp] theorem offerEv_modes (p : Plane) (e : Ev) : (offerEv p e).modes = p.modes := by simp [offerEv]
@[simp] theorem offerHeld_modes (src : Nat) (e : Ev) (p : Plane) : (offerHeld src e p).modes = p.modes := by simp [offerHeld]
@[simp] theorem raise_modes (src : Nat) (code : BitVec 16) (data : BitVec 32) (pay : BitVec 128) (p : Plane) :
    (raise src code data pay p).modes = p.modes := by simp [raise]
@[simp] theorem raiseCompl_modes (o : LongOp) (slot : Nat) (status : BitVec 8) (result : BitVec 128) (p : Plane) :
    (raiseCompl o slot status result p).modes = p.modes := rfl
@[simp] theorem raiseSample_modes (n skid : Nat) (o : Occ) (p : Plane) :
    (raiseSample n skid o p).modes = p.modes := by simp [raiseSample]
@[simp] theorem bump_modes (fuel n : Nat) (o : Occ) (p : Plane) : (bump fuel n o p).modes = p.modes := by
  induction fuel generalizing n p with
  | zero => rfl
  | succ fuel ih => simp only [bump]; (repeat' split) <;> simp [ih]
@[simp] theorem occurN_modes (t code : Nat) (o : Occ) (n : Nat) (p : Plane) :
    (occurN t code o n p).modes = p.modes := by simp [occurN]
@[simp] theorem occur_modes (t code : Nat) (o : Occ) (p : Plane) : (occur t code o p).modes = p.modes := by simp [occur]
@[simp] theorem measure_modes (t code half : Nat) (o : Occ) (p : Plane) :
    (measure t code half o p).modes = p.modes := by simp [measure]
@[simp] theorem endLat_modes (i : Nat) (p : Plane) (o : Out) : (endLat i p o).modes = p.modes := by
  unfold endLat
  (repeat' split) <;> simp

/-! ### Ports and their messages -/

@[simp] theorem pump_modes (i : Nat) (p : Plane) : (pump i p).modes = p.modes := by simp [pump]
@[simp] theorem toPort_modes (i : Nat) (o : Out) (p : Plane) : (toPort i o p).modes = p.modes := by
  dsimp only [toPort]
  (repeat' split) <;> simp
@[simp] theorem giveCredit_modes (i cls : Nat) (p : Plane) : (giveCredit i cls p).modes = p.modes := by simp [giveCredit]
@[simp] theorem sendTagged_modes (i : Nat) (use : TagFor) (cls : BitVec 3) (op : BitVec 5) (b : Body) (p : Plane) :
    (sendTagged i use cls op b p).modes = p.modes := by
  dsimp only [sendTagged]
  (repeat' split) <;> simp
@[simp] theorem freeModTag_modes (i n : Nat) (p : Plane) : (freeModTag i n p).modes = p.modes := by
  dsimp only [freeModTag]
  (repeat' split) <;> simp
@[simp] theorem freeTag_modes (i : Nat) (tag : BitVec 16) (p : Plane) : (freeTag i tag p).modes = p.modes := rfl
@[simp] theorem measureReq_modes (r : Req) (p : Plane) : (measureReq r p).modes = p.modes := rfl
@[simp] theorem sendComp_modes (r : Req) (fail : Bool) (p : Plane) : (sendComp r fail p).modes = p.modes := by simp [sendComp]
@[simp] theorem sendErr_modes (r : Req) (reason : BitVec 8) (p : Plane) : (sendErr r reason p).modes = p.modes := by simp [sendErr]
@[simp] theorem sendData0_modes (r : Req) (line : Line) (poison : Bool) (p : Plane) :
    (sendData0 r line poison p).modes = p.modes := by simp [sendData0]
@[simp] theorem sendGrant_modes (r : Req) (grant : BitVec 2) (line : Option Line) (job : Option Nat) (home : Option (Nat × BitVec 16))
    (p : Plane) : (sendGrant r grant line job home p).modes = p.modes := by simp [sendGrant]

/-! ### DRAM queues and retrains -/

@[simp] theorem startPause_modes (ch : Nat) (second : Bool) (p : Plane) : (startPause ch second p).modes = p.modes := rfl
@[simp] theorem offerRetrain_modes (ch : Nat) (p : Plane) : (offerRetrain ch p).modes = p.modes := by simp [offerRetrain]
@[simp] theorem startRetrains_modes (t : Nat) (p : Plane) : (startRetrains t p).modes = p.modes := by simp [startRetrains]
@[simp] theorem startDeferred_modes (t : Nat) (p : Plane) : (startDeferred t p).modes = p.modes := by simp [startDeferred]
@[simp] theorem updPanic_modes (i : Nat) (p : Plane) : (updPanic i p).modes = p.modes := by
  dsimp only [updPanic]
  split
  · rfl
  · exact (foldl_modes (fun q t => startDeferred_modes t q) _ _).trans (foldl_modes (fun _ _ => by rfl) _ _)
@[simp] theorem offer_modes (ch : Nat) (a : Access) (p : Plane) : (offer ch a p).modes = p.modes := by simp [offer]
@[simp] theorem offerFor_modes (job : Option Nat) (ch : Nat) (a : Access) (p : Plane) :
    (offerFor job ch a p).modes = p.modes := by simp [offerFor]
@[simp] theorem dmcWrite_modes (job : Option Nat) (a : Access) (p : Plane) :
    (dmcWrite job a p).modes = p.modes := by simp [dmcWrite]
@[simp] theorem dmcRead_modes (a : Access) (p : Plane) : (dmcRead a p).modes = p.modes := by simp [dmcRead]

/-! ### Long operations and evacuation -/

@[simp] theorem newOp_modes (queue : Nat) (seq : BitVec 32) (opcode : BitVec 16) (w : Work) (p : Plane) :
    (newOp queue seq opcode w p).modes = p.modes := rfl
@[simp] theorem endOp_modes (id : Nat) (status : BitVec 8) (p : Plane) : (endOp id status p).modes = p.modes := rfl
@[simp] theorem startEvac_modes (ch : Nat) (p : Plane) : (startEvac ch p).modes = p.modes := rfl
@[simp] theorem evacTrigger_modes (ch : Nat) (p : Plane) : (evacTrigger ch p).modes = p.modes := by simp [evacTrigger]

/-! ### The cache -/

@[simp] theorem putWay_modes (p : Plane) (n set w : Nat) (l : WayLine) : (putWay p n set w l).modes = p.modes := rfl
@[simp] theorem dropWay_modes (p : Plane) (n set w : Nat) : (dropWay p n set w).modes = p.modes := rfl
@[simp] theorem wayAtThreshold_modes (n w corrected : Nat) (p : Plane) :
    (wayAtThreshold n w corrected p).modes = p.modes := by simp [wayAtThreshold]
@[simp] theorem countWayCe_modes (n w : Nat) (p : Plane) : (countWayCe n w p).modes = p.modes := by simp [countWayCe]
@[simp] theorem countWayUe_modes (n w : Nat) (p : Plane) : (countWayUe n w p).modes = p.modes := by simp [countWayUe]
@[simp] theorem readDataWord_modes (n set w word : Nat) (p : Plane) : (readDataWord n set w word p).modes = p.modes := by
  unfold readDataWord; split <;> simp
@[simp] theorem readTag_modes (n set w : Nat) (p : Plane) : (readTag n set w p).modes = p.modes := by simp [readTag]
@[simp] theorem readTags_modes (n set : Nat) (p : Plane) : (readTags n set p).modes = p.modes := by simp [readTags]
@[simp] theorem readData_modes (n set w : Nat) (p : Plane) : (readData n set w p).modes = p.modes := by simp [readData]
@[simp] theorem writeLine_modes (job : Option Nat) (n set w : Nat) (p : Plane) : (writeLine job n set w p).modes = p.modes := by
  dsimp only [writeLine]
  (repeat' split) <;> simp
@[simp] theorem evictWay_modes (job : Option Nat) (n set w : Nat) (l : WayLine) (p : Plane) :
    (evictWay job n set w l p).modes = p.modes := by simp [evictWay]
@[simp] theorem ageOthers_modes (n set : Nat) (job : Option Nat) (among : Nat → WayLine → Bool) (p : Plane) :
    (ageOthers n set job among p).modes = p.modes := rfl
theorem takeOpen_modes {n set : Nat} {job who : Option Nat} {p : Plane} {x : Nat × Plane} (h : takeOpen n set job who p = some x) :
    x.2.modes = p.modes := by
  simp only [takeOpen] at h
  split at h
  · cases h; rfl
  · split at h
    · cases h
    · cases h; simp
theorem takeLocked_modes {n set owner : Nat} {job : Option Nat} {p : Plane} {x : Nat × Plane}
    (h : takeLocked n set owner job p = some x) : x.2.modes = p.modes := by
  simp only [takeLocked] at h
  split at h
  · cases h; rfl
  · split at h
    · cases h
    · cases h; simp
theorem takeWay_modes {n set : Nat} {job who pattern : Option Nat} {p : Plane} {x : Nat × Option Nat × Plane}
    (h : takeWay n set job who pattern p = some x) : x.2.2.modes = p.modes := by
  have hopen : ∀ y, (takeOpen n set job who p).map (fun x => (x.1, who, x.2)) = some y → y.2.2.modes = p.modes := by
    intro y hy
    obtain ⟨z, hz, rfl⟩ := Option.map_eq_some_iff.1 hy
    exact takeOpen_modes hz
  simp only [takeWay] at h
  split at h
  · exact hopen x h
  · split at h
    · split at h
      · rename_i hl
        cases h
        exact takeLocked_modes hl
      · exact hopen x h
    · exact hopen x h
@[simp] theorem lookupRead_modes (line : Nat) (p : Plane) : (lookupRead line p).modes = p.modes := by
  dsimp only [lookupRead]
  (repeat' split) <;> simp
@[simp] theorem touch_modes (line : Nat) (cls : BitVec 2) (read : Bool) (p : Plane) : (touch line cls read p).modes = p.modes := by
  unfold touch; split <;> rfl
@[simp] theorem allocate_modes (j : Job) (age : Nat) (dirty poison : Bool) (data : Line) (p : Plane) :
    (allocate j age dirty poison data p).1.modes = p.modes := by
  dsimp only [allocate]
  split
  · split
    next e => exact takeWay_modes e
    next => exact occur_modes ..
  · rfl
@[simp] theorem jobWrite_modes (j : Job) (store : Bool) (line : Line) (poison : Bool) (p : Plane) :
    (jobWrite j store line poison p).modes = p.modes := by simp [jobWrite]
@[simp] theorem newData_modes (n set w : Nat) (p : Plane) : (newData n set w p).modes = p.modes := rfl
@[simp] theorem writeHome_modes (j : Job) (store : Bool) (data : Line) (poison : Bool) (p : Plane) :
    (writeHome j store data poison p).modes = p.modes := by
  dsimp only [writeHome]
  (repeat' split) <;> simp
@[simp] theorem addCounts_modes (id : Nat) (c : Nat × Nat × Nat) (p : Plane) : (addCounts id c p).modes = p.modes := rfl
@[simp] theorem fillLocked_modes (j : Job) (i : Nat) (pin rpf : Bool) (p : Plane) :
    (fillLocked j i pin rpf p).1.modes = p.modes := by
  dsimp only [fillLocked]
  split
  · split
    next e _ => exact takeLocked_modes e
    next => rfl
  · rfl
@[simp] theorem pinDone_modes (id : Nat) (j : Job) (ok : Bool) (p : Plane) :
    (pinDone id j ok p).modes = p.modes := by simp [pinDone]
@[simp] theorem prefetchSkip_modes (j : Job) (p : Plane) : (prefetchSkip j p).modes = p.modes := by simp [prefetchSkip]

/-! ### Internal operations -/

@[simp] theorem passEvent_modes (t : Nat) (kind : BitVec 16) (n : Nat) (p : Plane) :
    (passEvent t kind n p).modes = p.modes := by simp [passEvent]
@[simp] theorem dramPassEnd_modes (t : Nat) (p : Plane) : (dramPassEnd t p).modes = p.modes := by
  dsimp only [dramPassEnd]
  split
  · exact (passEvent_modes ..).trans (foldl_modes (fun _ _ => by rfl) _ _)
  · rfl
@[simp] theorem evacNext_modes (ch : Nat) (p : Plane) : (evacNext ch p).modes = p.modes := by simp [evacNext]
@[simp] theorem rowNext_modes (ch : Nat) (x : RowCopy) (p : Plane) : (rowNext ch x p).modes = p.modes := by simp [rowNext]
@[simp] theorem internData_modes (j : Job) (w : Intern) (p : Plane) : (internData j w p).modes = p.modes := by
  unfold internData
  (repeat' split) <;> simp
@[simp] theorem internEnd_modes (j : Job) (w : Intern) (p : Plane) : (internEnd j w p).modes = p.modes := by
  unfold internEnd
  (repeat' split) <;> simp

/-! ### The directory and the answers of the home -/

@[simp] theorem dirPut_modes (p : Plane) (line w : Nat) (e : DirEntry) : (dirPut p line w e).modes = p.modes := rfl
@[simp] theorem dirFree_modes (p : Plane) (line : Nat) : (dirFree p line).modes = p.modes := by unfold dirFree; split <;> rfl
@[simp] theorem toNode_modes (r : Route) (cls : BitVec 3) (op : BitVec 5) (b : Body) (p : Plane) :
    (toNode r cls op b p).modes = p.modes := rfl
@[simp] theorem data0To_modes (j : Job) (line : Line) (poison : Bool) (p : Plane) : (data0To j line poison p).modes = p.modes := by
  dsimp only [data0To]
  (repeat' split) <;> simp
@[simp] theorem grantTo_modes (j : Job) (g : BitVec 2) (line : Option Line) (p : Plane) : (grantTo j g line p).modes = p.modes := by
  dsimp only [grantTo]
  (repeat' split) <;> simp
@[simp] theorem notify_modes (j : Job) (kind : Nat) (reason : BitVec 8) (old : Option (Line × Bool)) (p : Plane) :
    (notify j kind reason old p).modes = p.modes := by
  unfold notify
  (repeat' split) <;> simp
@[simp] theorem wbAck_modes (w : Who) (tag : BitVec 16) (line : Nat) (p : Plane) :
    (wbAck w tag line p).modes = p.modes := by simp [wbAck]
@[simp] theorem rsvLose_modes (line a : Nat) (p : Plane) : (rsvLose line a p).modes = p.modes := rfl
@[simp] theorem rsvDrop_modes (line a : Nat) (p : Plane) : (rsvDrop line a p).modes = p.modes := rfl
@[simp] theorem rsvMake_modes (line : Nat) (w : Who) (p : Plane) : (rsvMake line w p).modes = p.modes := rfl
@[simp] theorem fetch_modes (j : Job) (read : Bool) (p : Plane) : (fetch j read p).modes = p.modes := by
  dsimp only [fetch]
  (repeat' split) <;> simp
@[simp] theorem dropEmpty_modes (line : Nat) (p : Plane) : (dropEmpty line p).modes = p.modes := by unfold dropEmpty; split <;> simp
@[simp] theorem finish_modes (id : Nat) (p : Plane) : (finish id p).modes = p.modes := by
  unfold finish
  (repeat' split) <;> simp
@[simp] theorem dirAfter_modes (j : Job) (p : Plane) : (dirAfter j p).modes = p.modes := by unfold dirAfter; split <;> simp
@[simp] theorem installReturned_modes (j : Job) (p : Plane) : (installReturned j p).modes = p.modes := by
  unfold installReturned
  (repeat' split) <;> simp
@[simp] theorem fillRead_modes (j : Job) (p : Plane) : (fillRead j p).modes = p.modes := by
  unfold fillRead
  (repeat' split) <;> simp
@[simp] theorem markJob_modes (p : Plane) (id : Nat) (f : Job → Job) : (markJob p id f).modes = p.modes := rfl

/-! ### The home engine -/

@[simp] theorem advanceRead_modes (j : Job) (op : ReqOp) (p : Plane) : (advanceRead j op p).modes = p.modes := by
  unfold advanceRead
  (repeat' split) <;> simp
@[simp] theorem takeHeldRel_modes (w : Who) (p : Plane) : (takeHeldRel w p).1.modes = p.modes := by
  unfold takeHeldRel; split <;> rfl
@[simp] theorem acceptStore_modes (j : Job) (phase : Phase) (p : Plane) : (acceptStore j phase p).modes = p.modes := by
  simp [acceptStore]
@[simp] theorem noteEnded_modes (j : Job) (p : Plane) : (noteEnded j p).modes = p.modes := by simp [noteEnded]
@[simp] theorem failCond_modes (j : Job) (p : Plane) : (failCond j p).modes = p.modes := by simp [failCond]
@[simp] theorem chainStore_modes (j : Job) (p : Plane) : (chainStore j p).modes = p.modes := by unfold chainStore; split <;> simp
@[simp] theorem formChain_modes (line : Nat) (p : Plane) : (formChain line p).modes = p.modes := by simp [formChain]
@[simp] theorem repairBase_modes (j : Job) (p : Plane) : (repairBase j p).modes = p.modes := by
  unfold repairBase
  (repeat' split) <;> simp
@[simp] theorem perform_modes (j : Job) (op : ReqOp) (withdraw : Bool) (p : Plane) :
    (perform j op withdraw p).1.modes = p.modes := by
  dsimp only [perform]
  (repeat' split) <;> simp
@[simp] theorem runChain_modes (fuel id : Nat) (p : Plane) : (runChain fuel id p).modes = p.modes := by
  induction fuel generalizing id p with
  | zero => rfl
  | succ fuel ih =>
    simp only [runChain]
    (repeat' split) <;> simp [ih]
@[simp] theorem advanceStore_modes (j : Job) (p : Plane) : (advanceStore j p).modes = p.modes := by simp [advanceStore]
@[simp] theorem advanceReq_modes (id : Nat) (p : Plane) : (advanceReq id p).modes = p.modes := by
  unfold advanceReq
  (repeat' split) <;> simp
@[simp] theorem endBinv_modes (j : Job) (forJob : Option Nat) (p : Plane) : (endBinv j forJob p).modes = p.modes := by
  dsimp only [endBinv]
  (repeat' split) <;> simp
@[simp] theorem endRecall_modes (j : Job) (p : Plane) : (endRecall j p).modes = p.modes := by
  dsimp only [endRecall]
  (repeat' split) <;> simp
@[simp] theorem advance_modes (id : Nat) (p : Plane) : (advance id p).modes = p.modes := by
  unfold advance
  (repeat' split) <;> simp
@[simp] theorem ackSunk_modes (id a : Nat) (p : Plane) : (ackSunk id a p).modes = p.modes := by unfold ackSunk; split <;> simp
@[simp] theorem sink_modes (id : Nat) (w : Who) (tag : BitVec 16) (data : Line) (poison : Bool) (p : Plane) :
    (sink id w tag data poison p).modes = p.modes := by
  dsimp only [sink]
  (repeat' split) <;> simp
@[simp] theorem answer_modes (id node agent : Nat) (x : Ans) (p : Plane) : (answer id node agent x p).modes = p.modes := by
  unfold answer; split <;> simp
@[simp] theorem endGather_modes (g : Gather) (p : Plane) : (endGather g p).modes = p.modes := by unfold endGather; split <;> simp
@[simp] theorem settleN_modes (n : Nat) (p : Plane) : (settleN n p).modes = p.modes := by
  induction n generalizing p with
  | zero => rfl
  | succ n ih =>
    unfold settleN
    (repeat' split) <;> simp [ih]
@[simp] theorem settle_modes (p : Plane) : (settle p).modes = p.modes := by simp [settle]

/-! ### Taps, hoppers and I/O -/

@[simp] theorem setTap_modes (p : Plane) (t : Nat) (x : Tap) : (setTap p t x).modes = p.modes := rfl
@[simp] theorem setHop_modes (p : Plane) (i : Nat) (h : Hopper) : (setHop p i h).modes = p.modes := rfl
@[simp] theorem onHop_modes (i : Nat) (f : Hopper → Hopper) (p : Plane) : (onHop i f p).modes = p.modes := by simp [onHop]
@[simp] theorem onEntry_modes (i rsn : Nat) (f : HopEntry → HopEntry) (p : Plane) : (onEntry i rsn f p).modes = p.modes := rfl
@[simp] theorem freeHop_modes (i rsn : Nat) (p : Plane) : (freeHop i rsn p).modes = p.modes := by
  unfold freeHop
  (repeat' split) <;> simp
@[simp] theorem finalOf_modes (e : HopEntry) (reason : Option (BitVec 8)) (fail : Bool) (p : Plane) :
    (finalOf e reason fail p).modes = p.modes := by
  unfold finalOf
  split
  · exact sendErr_modes ..
  · dsimp only
    split
    · exact toPort_modes ..
    · exact sendComp_modes ..
@[simp] theorem lostError_modes (i : Nat) (e : HopEntry) (reason : BitVec 8) (p : Plane) :
    (lostError i e reason p).modes = p.modes := by simp [lostError]
@[simp] theorem ackEntry_modes (i rsn : Nat) (reason : Option (BitVec 8)) (fail : Bool) (p : Plane) :
    (ackEntry i rsn reason fail p).modes = p.modes := by
  dsimp only [ackEntry]
  (repeat' split) <;> simp
@[simp] theorem sendRelease_modes (i : Nat) (e : HopEntry) (withdraw : Bool) (p : Plane) :
    (sendRelease i e withdraw p).modes = p.modes := by simp [sendRelease]
@[simp] theorem releaseOne_modes (i : Nat) (e : HopEntry) (p : Plane) : (releaseOne i e p).modes = p.modes := by simp [releaseOne]
@[simp] theorem releaseSweep_modes (i : Nat) (p : Plane) : (releaseSweep i p).modes = p.modes := by simp [releaseSweep]
@[simp] theorem ioWrEnd_modes (i rsn : Nat) (reason : Option (BitVec 8)) (p : Plane) :
    (ioWrEnd i rsn reason p).modes = p.modes := by
  unfold ioWrEnd
  (repeat' split) <;> simp
@[simp] theorem ioEnd_modes (ent : Nat) (res : Except (BitVec 8) (Option (Line × Bool))) (p : Plane) :
    (ioEnd ent res p).modes = p.modes := by
  unfold ioEnd
  (repeat' split) <;> simp
@[simp] theorem ioAnswered_modes (ent : Nat) (res : Except (BitVec 8) (Option (Line × Bool))) (p : Plane) :
    (ioAnswered ent res p).modes = p.modes := by unfold ioAnswered; split <;> simp
@[simp] theorem ioLeft_modes (i : Nat) (p : Plane) : (ioLeft i p).modes = p.modes :=
  foldl_modes (fun q e => by dsimp only; split <;> simp) _ _

/-! ### Credits -/

@[simp] theorem markPool_modes (r : Req) (p : Plane) : (markPool r p).modes = p.modes := by simp [markPool]
@[simp] theorem giveJoin_modes (j cls : Nat) (vcb : Bool) (p : Plane) : (giveJoin j cls vcb p).modes = p.modes := by simp [giveJoin]
@[simp] theorem evictCredits_modes (p : Plane) : (evictCredits p).modes = p.modes := foldl_modes (fun _ _ => by rfl) _ _
@[simp] theorem joinCredits_modes (p : Plane) : (joinCredits p).modes = p.modes := by simp [joinCredits]
@[simp] theorem markPools_modes (p : Plane) : (markPools p).modes = p.modes := by simp [markPools]
@[simp] theorem tidy_modes (p : Plane) : (tidy p).modes = p.modes := by simp [tidy]

/-! ### Replies and their tags -/

@[simp] theorem countLate_modes (t : Nat) (agent : Nat) (cls op : Nat) (p : Plane) :
    (countLate t agent cls op p).modes = p.modes := by simp [countLate]
@[simp] theorem answerOver_modes (r : Route) (pt sub : Nat) (info : BitVec 18) (spa : Spa) (x : Ans) (p : Plane) :
    (answerOver r pt sub info spa x p).modes = p.modes := by
  unfold answerOver
  exact (toNode_modes ..).trans (by split <;> rfl)
@[simp] theorem ioOver_modes (r : Route) (pt sub : Nat) (spa : Spa) (res : Except (BitVec 8) (Option (Line × Bool))) (p : Plane) :
    (ioOver r pt sub spa res p).modes = p.modes := by
  rcases res with x | _ | d
  · exact toNode_modes ..
  · exact toNode_modes ..
  · exact (toNode_modes ..).trans (by split <;> rfl)
theorem useReply_modes {i sub : Nat} {m : ModTag} {info : BitVec 18} {x : Reply} {p q : Plane}
    (h : useReply i m sub info x p = some q) : q.modes = p.modes := by
  unfold useReply at h
  split at h
  case h_4 => split at h <;> cases h; rfl
  all_goals
    obtain ⟨y, -, rfl⟩ := Option.map_eq_some_iff.1 h
    simp
theorem takeLate_modes {i sub : Nat} {tag : BitVec 16} {x : Reply} {p q : Plane} (h : takeLate i tag sub x p = some q) :
    q.modes = p.modes := by
  dsimp only [takeLate] at h
  split at h <;> cases h
  simp
theorem takeReply_modes {i sub : Nat} {tag : BitVec 16} {info : BitVec 18} {x : Reply} {p q : Plane}
    (h : takeReply i tag sub info x p = some q) : q.modes = p.modes := by
  unfold takeReply at h
  split at h
  · exact takeLate_modes h
  · split at h
    · exact takeLate_modes h
    · rcases (Option.orElse_eq_some _ _ _).1 h with h | ⟨-, h⟩
      · exact (useReply_modes h).trans (freeModTag_modes ..)
      · exact takeLate_modes h
@[simp] theorem takeReply_getD_modes (i sub : Nat) (tag : BitVec 16) (info : BitVec 18) (x : Reply) (p : Plane) :
    ((takeReply i tag sub info x p).getD p).modes = p.modes := by
  cases e : takeReply i tag sub info x p with
  | none => rfl
  | some q => exact takeReply_modes e
@[simp] theorem deliverAnswer_modes (i : Nat) (o : Out) (p : Plane) : (deliverAnswer i o p).modes = p.modes := by
  unfold deliverAnswer; split <;> simp

/-! ### Ports, channels and links cleared or retrained -/

@[simp] theorem clearEngine_modes (i n : Nat) (p : Plane) : (clearEngine i n p).modes = p.modes := by
  dsimp only [clearEngine]
  split
  · rfl
  · split
    · exact foldl_modes (fun q _ => deliverAnswer_modes i _ q) _ _
    · split
      · exact (pump_modes ..).trans (foldl_modes (fun _ _ => by rfl) _ _)
      · exact pump_modes ..
@[simp] theorem clearPort_modes (i : Nat) (p : Plane) : (clearPort i p).modes = p.modes := by simp [clearPort]
@[simp] theorem clearChan_modes (c : Nat) (p : Plane) : (clearChan c p).modes = p.modes := by simp [clearChan]
@[simp] theorem clearLink_modes (j : Nat) (p : Plane) : (clearLink j p).modes = p.modes := by simp [clearLink]
@[simp] theorem clearAll_modes (p : Plane) : (clearAll p).modes = p.modes := by simp [clearAll]
@[simp] theorem retrainPort_modes (i : Nat) (p : Plane) : (retrainPort i p).modes = p.modes := by simp [retrainPort]
@[simp] theorem retrainLink_modes (j : Nat) (p : Plane) : (retrainLink j p).modes = p.modes := by simp [retrainLink]

/-! ### Refresh, the end of a drain, and waking -/

@[simp] theorem becomeDue_modes (ch : Nat) (p : Plane) : (becomeDue ch p).modes = p.modes := by simp [becomeDue]
@[simp] theorem endDrain_modes (p : Plane) : (endDrain p).modes = p.modes := foldl_modes (fun _ _ => by rfl) _ _
@[simp] theorem wake_modes (p : Plane) : (wake p).modes = p.modes := by simp [wake]

/-! ### The Kiln -/

@[simp] theorem throttleEvent_modes (i : Nat) (code : BitVec 16) (k : Kiln) (p : Plane) :
    (throttleEvent i code k p).modes = p.modes := by simp [throttleEvent]
@[simp] theorem sampleAll_modes (k : Kiln) (p : Plane) : (sampleAll k p).2.modes = p.modes :=
  foldl_view (fun a : Kiln × Plane => a.2.modes) (fun a i => foldl_modes (fun q c => throttleEvent_modes i c a.1 q) _ _) _ _

/-! ### Completions -/

@[simp] theorem mgEvent_modes (src : Nat) (code : BitVec 16) (data : BitVec 32) (pay : BitVec 128) (s : State) :
    (mgEvent src code data pay s).dp.modes = s.dp.modes := by unfold mgEvent; split <;> simp
@[simp] theorem settled_modes (s : State) : (settled s).dp.modes = s.dp.modes := by unfold settled; split <;> simp
@[simp] theorem dropOp_modes (id : Nat) (p : Plane) : (dropOp id p).modes = p.modes := rfl
@[simp] theorem portRecord_modes (o : LongOp) (st : BitVec 8) (s : State) : (portRecord o st s).dp.modes = s.dp.modes := by
  unfold portRecord; split <;> simp
@[simp] theorem sendDone_modes (id : Nat) (s : State) : (sendDone id s).dp.modes = s.dp.modes := by
  unfold sendDone
  (repeat' split) <;> simp

/-! ### FUNC_MODE_SET -/

@[simp] theorem actWays_modes (l : List (Nat × Nat × Nat)) (p : Plane) : (actWays l p).modes = p.modes := by simp [actWays]
@[simp] theorem retryWaits_modes (p : Plane) : (retryWaits p).modes = p.modes := by simp [retryWaits]
@[simp] theorem retryWays_modes (p : Plane) : (retryWays p).modes = p.modes := by simp [retryWays]
@[simp] theorem reportRows_modes (p : Plane) : (reportRows p).modes = p.modes := by simp [reportRows]
@[simp] theorem reportRetrains_modes (p : Plane) : (reportRetrains p).modes = p.modes := by simp [reportRetrains]
@[simp] theorem retrainStanding_modes (p : Plane) : (retrainStanding p).modes = p.modes := by simp [retrainStanding]
@[simp] theorem releaseThrottles_modes (k : Kiln) (p : Plane) : (releaseThrottles k p).2.modes = p.modes :=
  foldl_view (fun a : Kiln × Plane => a.2.modes) (fun a i => by simp) _ _
@[simp] theorem switchMode_modes (f : Nat) (host : Bool) (s : State) : (switchMode f host s).dp.modes = s.dp.modes := by
  unfold switchMode
  (repeat' split) <;> simp

/-! ### The end of a warm reset -/

@[simp] theorem firmwareEvent_modes (code : BitVec 16) (data : Nat) (s : State) :
    (firmwareEvent code data s).dp.modes = s.dp.modes := by simp [firmwareEvent]
@[simp] theorem advanceGens_modes (p : Plane) : (advanceGens p).modes = p.modes :=
  foldl_modes (fun q x => by dsimp only; split <;> rfl) _ _
@[simp] theorem warmRecovery_modes (id : Nat) (s : State) : (warmRecovery id s).dp.modes = s.dp.modes := by simp [warmRecovery]
theorem endWarm_modes (id : Nat) (s : State) : (endWarm id s).dp.modes = s.dp.modes := by
  dsimp only [endWarm]
  split
  · exact warmRecovery_modes id s
  next n _ =>
    rw [settled_modes, foldl_view (fun t : State => t.dp.modes) (fun t i => sendDone_modes i t)]
    simp [apply_ite State.dp]

/-! ### A start of the module -/

@[simp] theorem timed_modes (g : Sag) (p : Plane) : (timed g p).modes = p.modes := by
  unfold timed
  split
  · rfl
  · split
    · exact foldl_modes (fun _ _ => by rfl) _ _
    · rfl
/-- A start leaves every function in hardware mode (R310, Table 18.2). -/
theorem startMain_modes (boot : Boot) (s : State) : (startMain boot s).dp.modes = 0 := by
  dsimp only [startMain]
  split
  · rfl
  · rw [onDp_dp, foldl_modes fun q ch => raise_modes ..]
    split
    · exact (firmwareEvent_modes ..).trans (timed_modes ..)
    · exact timed_modes ..

/-! ### O40: the modes of the functions -/

theorem hostMode_of_modes_eq {p q : Plane} (h : p.modes = q.modes) (f : Nat) : hostMode p f = hostMode q f := by
  unfold hostMode; rw [h]
theorem hostMode_of_modes_zero {p : Plane} (h : p.modes = 0) (f : Nat) : hostMode p f = false := by
  unfold hostMode; rw [h]; exact BitVec.getLsbD_zero
/-- A function has an operation in progress or not whatever its command's packet. -/
theorem modeBusy_enterRow (f : Nat) (h : Hdr) (s : State) : modeBusy f (enterRow h s) = modeBusy f s := by
  unfold modeBusy
  rw [enterRow_dp, enterRow_kn]

/-- The plane with a function in a mode, as FUNC_MODE_SET writes it. -/
def setMode (f : Nat) (mode : Bool) (p : Plane) : Plane :=
  let m : BitVec 12 := BitVec.ofNat 12 (2 ^ f)
  { p with modes := if mode then p.modes ||| m else p.modes &&& ~~~m }
theorem hostMode_setMode {f k : Nat} (hk : k < 12) (mode : Bool) (p : Plane) :
    hostMode (setMode f mode p) k = if k = f then mode else hostMode p k := by
  have bit : (BitVec.ofNat 12 (2 ^ f)).getLsbD k = decide (k = f) := by
    simp only [BitVec.getLsbD_ofNat, Nat.testBit_two_pow, hk, decide_true, Bool.true_and, eq_comm]
  cases mode with
  | true =>
    have e : hostMode (setMode f true p) k = (hostMode p k || decide (k = f)) := by rw [← bit]; exact BitVec.getLsbD_or
    rw [e]
    split
    next h => rw [decide_eq_true h, Bool.or_true]
    next h => rw [decide_eq_false h, Bool.or_false]
  | false =>
    have e : hostMode (setMode f false p) k = (hostMode p k && !decide (k = f)) := by
      simp only [hostMode, setMode, Bool.false_eq_true, if_false, BitVec.getLsbD_and, BitVec.getLsbD_not, bit, hk, decide_true,
        Bool.true_and]
    rw [e]
    split
    next h => rw [decide_eq_true h, Bool.not_true, Bool.and_false]
    next h => rw [decide_eq_false h, Bool.not_false, Bool.and_true]

/-- The state FUNC_MODE_SET leaves: the mode changed, and what follows from the change (R311). -/
def modeChanged (f : Nat) (mode : Bool) (s : State) : State :=
  if hostMode s.dp f = mode then s else switchMode f mode (onDp (setMode f mode) s)
theorem hostMode_modeChanged {f k : Nat} (hk : k < 12) (mode : Bool) (s : State) :
    hostMode (modeChanged f mode s).dp k = if k = f then mode else hostMode s.dp k := by
  unfold modeChanged
  split
  next e => split <;> simp_all
  next => rw [hostMode_of_modes_eq (switchMode_modes ..), onDp_dp, hostMode_setMode hk]

theorem funcModeSet_body_busy {func : Byte} {mode : Bool} {h : Hdr} {s : State} (hf : func.toNat ≤ 11)
    (hb : modeBusy func.toNat s = true) : (cmdFuncModeSet func mode).body h s = deny sBadState s := by
  simp [cmdFuncModeSet, hb, Nat.not_lt.2 hf]
theorem funcModeSet_body_free {func : Byte} {mode : Bool} {h : Hdr} {s : State} (hf : func.toNat ≤ 11)
    (hb : modeBusy func.toNat s = false) : (cmdFuncModeSet func mode).body h s = okay 0 (modeChanged func.toNat mode s) := by
  simp only [cmdFuncModeSet, modeChanged, hb, Nat.not_lt.2 hf, if_false, Bool.false_eq_true]
  split <;> rfl

/-- A FUNC_MODE_SET row that is taken runs its body. -/
theorem exec_funcModeSet {h : Hdr} {s : State} (m : mayGive [0, 1] false h s) (func : Byte) (mode : Bool) :
    exec (.funcModeSet h func mode) s = .next (conclude h 0x0120 ((cmdFuncModeSet func mode).body h (enterRow h s))) :=
  exec_given _ h (cmdFuncModeSet func mode) s m rfl (show ∀ q ∈ [0, 1], q01.testBit q = true by decide) nofun nofun
theorem exec_funcModeSet_busy {func : Byte} {mode : Bool} {h : Hdr} {s : State} (m : mayGive [0, 1] false h s)
    (hf : func.toNat ≤ 11) (hb : modeBusy func.toNat s = true) :
    exec (.funcModeSet h func mode) s = turnedAway h 0x0120 sBadState 0 s := by
  rw [exec_funcModeSet m, funcModeSet_body_busy hf (by rwa [modeBusy_enterRow])]
  rfl
theorem exec_funcModeSet_free {func : Byte} {mode : Bool} {h : Hdr} {s : State} (m : mayGive [0, 1] false h s)
    (hf : func.toNat ≤ 11) (hb : modeBusy func.toNat s = false) :
    exec (.funcModeSet h func mode) s =
      .next (replyTo h.queue h.replyOk 0x0120 sOk h.seq 0 (settled (modeChanged func.toNat mode (enterRow h s)))) := by
  rw [exec_funcModeSet m, funcModeSet_body_free hf (by rwa [modeBusy_enterRow])]
  rfl
theorem exec_funcModeGet {h : Hdr} {s : State} (m : mayGive [0, 1, 2, 3] false h s) :
    exec (.funcModeGet h) s = answered h 0x0121 (s.dp.modes.setWidth 192) id s := by
  rw [exec_given (.funcModeGet h) h cmdFuncModeGet s m rfl (by decide) nofun nofun]
  simp only [cmdFuncModeGet, enterRow_dp]
  rfl

/-- What POWER_ON or COLD_RESET starts has every function in hardware mode. -/
theorem modes_of_start {boot : Boot} {s t : State} (h : (s.mg.life = .noVin ∧ exec (.powerOn boot) s = .next t) ∨
    (s.mg.life ≠ .noVin ∧ s.mg.life ≠ .overVoltage ∧ exec (.coldReset boot) s = .next t)) : t.dp.modes = 0 := by
  rcases h with ⟨hl, e⟩ | ⟨hl, ho, e⟩
  · have e' : execPowerOn boot s = .next t := e
    rw [execPowerOn, if_pos hl] at e'
    cases e'
    exact startMain_modes ..
  · have e' : execColdReset boot s = .next t := e
    rw [execColdReset, if_pos (by simp [vinOn, hl, ho])] at e'
    cases e'
    exact startMain_modes ..

/-- Settles O40: FUNC_MODE_SET writes one bit of the modes, and nothing it starts, no settling and no end of a warm reset writes another. -/
theorem functionModesFollowTheirCommand : Obligations.FunctionModesFollowTheirCommand := by
  refine ⟨hostMode_of_modes_zero rfl, fun _ _ _ h => hostMode_of_modes_zero (modes_of_start h),
    fun h func mode s m hf => ⟨exec_funcModeSet_busy m hf, fun hb => ⟨_, exec_funcModeSet_free m hf hb, ?_, fun f hlt hne => ?_⟩⟩,
    fun _ _ m => exec_funcModeGet m, endWarm_modes⟩
  · rw [hostMode_of_modes_eq (settled_modes _), hostMode_modeChanged (Nat.lt_succ_of_le hf), if_pos rfl]
  · rw [hostMode_of_modes_eq (settled_modes _), hostMode_modeChanged hlt, if_neg hne, enterRow_dp]

end Sys2Proof.Machine
end

/-! PROOF. A CFG_FIRE write group by group (R317, R318): what `fireGroup` does to the group it names, and that it leaves every other group
alone; a write names each group at most once, so each named group meets one `fireGroup` and nothing else. -/
section
namespace Sys2Proof.Machine
open Sys2Proof

/-- The pending firings of a group. -/
def firesOf (s : State) (g : Nat) : List (Nat × Firing) := s.mg.fires.filter fun x => x.1 == g

theorem firesOf_eq_nil_iff {s : State} {g : Nat} : firesOf s g = [] ↔ ∀ x ∈ s.mg.fires, x.1 ≠ g := by
  simp [firesOf]
theorem firesOf_ne_nil_iff {s : State} {g : Nat} : firesOf s g ≠ [] ↔ ∃ x ∈ s.mg.fires, x.1 = g := by
  simp [firesOf]

/-- `t` has the firings, the error bit and the snapshot of group `g` that `s` has. -/
structure SameGroup (g : Nat) (s t : State) : Prop where
  fires : firesOf t g = firesOf s g
  err : t.mg.fireErr.getLsbD g = s.mg.fireErr.getLsbD g
  snap : snapshotOf t g = snapshotOf s g

theorem SameGroup.refl (g : Nat) (s : State) : SameGroup g s s := ⟨rfl, rfl, rfl⟩
theorem SameGroup.trans {g : Nat} {s t u : State} (h : SameGroup g s t) (k : SameGroup g t u) : SameGroup g s u :=
  ⟨k.fires.trans h.fires, k.err.trans h.err, k.snap.trans h.snap⟩

/-! ### One group -/

/-- The bit of CFG_FIRE_ERR that a group sets. -/
theorem getLsbD_groupBit (k g : Nat) : (BitVec.ofNat 8 (2 ^ k)).getLsbD g = (decide (g < 8) && decide (k = g)) := by
  rw [BitVec.getLsbD_ofNat, Nat.testBit_two_pow]

theorem fireGroup_of_pending {g : Nat} {s : State} (h : firesOf s g ≠ []) :
    fireGroup g s = { s with mg := { s.mg with fireErr := s.mg.fireErr ||| BitVec.ofNat 8 (2 ^ g) } } :=
  if_pos (by simpa using firesOf_ne_nil_iff.1 h)
theorem fireGroup_of_free {g : Nat} {s : State} (h : firesOf s g = []) :
    fireGroup g s =
      { s with mg := { s.mg with fires := s.mg.fires ++ [(g, { snap := snapshotOf s g, units := unitsOf g })] } } :=
  if_neg (by simpa only [List.any_eq_true, beq_iff_eq, not_exists, not_and] using firesOf_eq_nil_iff.1 h)

theorem fireGroup_pending {g : Nat} (hg : g < 8) {s : State} (h : firesOf s g ≠ []) :
    firesOf (fireGroup g s) g = firesOf s g ∧ (fireGroup g s).mg.fireErr.getLsbD g = true := by
  rw [fireGroup_of_pending h]
  exact ⟨rfl, by simp only [BitVec.getLsbD_or, getLsbD_groupBit, hg, decide_true, Bool.and_self, Bool.or_true]⟩
theorem fireGroup_free {g : Nat} {s : State} (h : firesOf s g = []) :
    firesOf (fireGroup g s) g = [(g, { snap := snapshotOf s g, units := unitsOf g })] ∧
      (fireGroup g s).mg.fireErr.getLsbD g = s.mg.fireErr.getLsbD g := by
  rw [fireGroup_of_free h]
  refine ⟨?_, rfl⟩
  simp only [firesOf, List.filter_append] at h ⊢
  simp [h]

/-- Firing a group leaves the others alone. -/
theorem fireGroup_other {g k : Nat} (hk : k ≠ g) (s : State) : SameGroup g s (fireGroup k s) := by
  by_cases h : firesOf s k = []
  · rw [fireGroup_of_free h]
    exact ⟨by simp [firesOf, hk], rfl, rfl⟩
  · rw [fireGroup_of_pending h]
    exact ⟨rfl, by simp only [BitVec.getLsbD_or, getLsbD_groupBit, hk, decide_false, Bool.and_false, Bool.or_false], rfl⟩

/-! ### A write of several groups -/

theorem foldl_fireGroup_other {g : Nat} {l : List Nat} (hl : g ∉ l) (s : State) :
    SameGroup g s (l.foldl (fun s k => fireGroup k s) s) := by
  induction l generalizing s with
  | nil => exact .refl g s
  | cons k l ih =>
    obtain ⟨hk, hl⟩ := List.ne_and_not_mem_of_not_mem_cons hl
    exact (fireGroup_other (Ne.symm hk) s).trans (ih hl _)

/-- A write does to a group it names what `fireGroup` does to it: the groups before it and after it in the write leave it alone. -/
theorem fireWrite_named {v : Reg} {g : Nat} (hg : g < 8) (hv : v.getLsbD g = true) (s : State) :
    ∃ u, SameGroup g s u ∧ SameGroup g (fireGroup g u) (fireWrite v s) := by
  have hmem : g ∈ (List.range 8).filter fun k => v.getLsbD k := by simp [hg, hv]
  have hnodup : ((List.range 8).filter fun k => v.getLsbD k).Nodup := List.nodup_range.filter _
  obtain ⟨before, after, e⟩ := List.append_of_mem hmem
  rw [e, List.nodup_middle, List.nodup_cons, List.mem_append, not_or] at hnodup
  obtain ⟨⟨hbefore, hafter⟩, -⟩ := hnodup
  refine ⟨_, foldl_fireGroup_other hbefore s, ?_⟩
  rw [fireWrite, e, List.foldl_append, List.foldl_cons]
  exact foldl_fireGroup_other hafter _

theorem fireWrite_pending {v : Reg} {g : Nat} (hg : g < 8) (hv : v.getLsbD g = true) {s : State} (h : firesOf s g ≠ []) :
    firesOf (fireWrite v s) g = firesOf s g ∧ (fireWrite v s).mg.fireErr.getLsbD g = true := by
  obtain ⟨u, hu, ht⟩ := fireWrite_named hg hv s
  obtain ⟨hfires, herr⟩ := fireGroup_pending hg (hu.fires ▸ h)
  exact ⟨ht.fires.trans (hfires.trans hu.fires), ht.err.trans herr⟩
theorem fireWrite_free {v : Reg} {g : Nat} (hg : g < 8) (hv : v.getLsbD g = true) {s : State} (h : firesOf s g = []) :
    firesOf (fireWrite v s) g = [(g, { snap := snapshotOf s g, units := unitsOf g })] ∧
      (fireWrite v s).mg.fireErr.getLsbD g = s.mg.fireErr.getLsbD g := by
  obtain ⟨u, hu, ht⟩ := fireWrite_named hg hv s
  obtain ⟨hfires, herr⟩ := fireGroup_free (hu.fires.trans h)
  exact ⟨by rw [ht.fires, hfires, hu.snap], ht.err.trans (herr.trans hu.err)⟩

theorem exec_cfgFire {s : State} (on : hostOn s = true) (v : Reg) : exec (.cfgFire v) s = .next (fireWrite v s) :=
  congrArg Host.Outcome.next (if_pos on)

/-- Settles O29: each group that a CFG_FIRE write names is fired or has its error bit set on its own. -/
theorem firingAPendingGroupSetsItsError : Obligations.FiringAPendingGroupSetsItsError := fun v s on =>
  ⟨fireWrite v s, exec_cfgFire on v, fun g hv =>
    ⟨fun h => fireWrite_pending g.isLt hv (firesOf_ne_nil_iff.2 h), fun h => fireWrite_free g.isLt hv (firesOf_eq_nil_iff.2 h)⟩⟩

end Sys2Proof.Machine
end

/-! PROOF. The seal counter and the audit log (R376): what PARAM_SET and SET_TIME answer, what an audit entry holds, and what any step
does to the counter and to the log. -/
section
namespace Sys2Proof.Machine
open Sys2Proof

/-! ### An audit entry -/

/-- The fields of an audit entry lie where Table 16.6 has them. -/
theorem auditEntry_fields (g : Sag) (param inst : Nat) (cnt : BitVec 32) (old new : BitVec 64) :
    let e := auditEntry g param inst cnt old new
    e.extractLsb' 0 16 = BitVec.ofNat 16 g.audit.length ∧ e.extractLsb' 16 8 = BitVec.ofNat 8 param ∧
      e.extractLsb' 24 7 = BitVec.ofNat 7 inst ∧ e.extractLsb' 32 32 = cnt ∧
      e.extractLsb' 64 48 = BitVec.ofNat 48 (g.time / secLen) ∧ e.extractLsb' 128 64 = old ∧ e.extractLsb' 192 64 = new := by
  -- The append lemmas read a width as a sum, so `Nat.reduceAdd` must not fold it.
  simp (disch := decide) only [auditEntry, BitVec.extractLsb'_append_eq_of_le, BitVec.extractLsb'_append_eq_of_add_le, -Nat.reduceAdd]
  exact ⟨BitVec.extractLsb'_eq_self, BitVec.extractLsb'_eq_self, BitVec.extractLsb'_eq_self, BitVec.extractLsb'_eq_self,
    BitVec.extractLsb'_eq_self, BitVec.extractLsb'_eq_self, BitVec.extractLsb'_eq_self⟩
/-- The entry of a PARAM_SET row, whose operands are bytes; the field after the parameter counts for a label alone. -/
theorem auditEntry_paramSet_fields (g : Sag) (p i : Byte) (cnt : BitVec 32) (old new : BitVec 64) :
    let e := auditEntry g p.toNat (if p.toNat = 1 then i.toNat else 0) cnt old new
    e.extractLsb' 0 16 = BitVec.ofNat 16 g.audit.length ∧ e.extractLsb' 16 8 = p ∧
      (p = 1 → e.extractLsb' 24 7 = i.setWidth 7) ∧ e.extractLsb' 32 32 = cnt ∧
      e.extractLsb' 64 48 = BitVec.ofNat 48 (g.time / secLen) ∧ e.extractLsb' 128 64 = old ∧ e.extractLsb' 192 64 = new := by
  obtain ⟨hindex, hparam, hinst, hrest⟩ := auditEntry_fields g p.toNat (if p.toNat = 1 then i.toNat else 0) cnt old new
  refine ⟨hindex, ?_, ?_, hrest⟩
  · rw [hparam, BitVec.ofNat_toNat, BitVec.setWidth_eq]
  · rintro rfl
    exact hinst.trans (BitVec.ofNat_toNat ..)

/-! ### PARAM_SET and SET_TIME -/

theorem setParam_sealCnt (param inst : Nat) (v : BitVec 64) (g : Sag) : (setParam param inst v g).sealCnt = g.sealCnt := by
  unfold setParam
  split
  · rfl
  · rfl
  · exact (syncHold_keeps g).sealCnt
  · exact (syncHold_keeps _).sealCnt.trans (syncHold_keeps g).sealCnt

theorem paramLast_of_keeps {g h : Sag} (k : SagKeeps g h) (param inst : Nat) : paramLast h param inst = paramLast g param inst := by
  unfold paramLast
  split
  · rw [k.lenNext]
  · rw [k.labelsNext]
  next hlen hlabel =>
    unfold paramNow
    split
    · exact absurd rfl hlen
    · exact absurd rfl hlabel
    · rw [k.refSel]
    · rw [k.limitS, k.policy]
    · rfl

/-- A full log answers before all else. -/
theorem paramWrite_of_full {g : Sag} (h : logFull g = true) (param inst : Nat) (v : BitVec 64) :
    paramWrite param inst v g = (mLogFull, g) := if_pos h
theorem timeWrite_of_full {g : Sag} (h : logFull g = true) (secs : Nat) : timeWrite secs g = (mLogFull, g) := if_pos h

/-- What a PARAM_SET that is carried out leaves: one count more, and an entry with the new count and the new value. -/
theorem counted_of_keeps_logged {g h x : Sag} {param inst label : Nat} {old : BitVec 64}
    (k : SagKeeps { h with audit := h.audit ++ [auditEntry g param label h.sealCnt old (paramLast h param inst)] } x)
    (hcnt : h.sealCnt = g.sealCnt + 1) (haudit : h.audit = g.audit) :
    x.sealCnt = g.sealCnt + 1 ∧
      x.audit = g.audit ++ [auditEntry g param label x.sealCnt old (paramLast x param inst)] := by
  refine ⟨k.sealCnt.trans hcnt, ?_⟩
  rw [k.audit, k.sealCnt, paramLast_of_keeps k, haudit]
  rfl
/-- A PARAM_SET is refused and changes nothing, or it counts one and appends its entry. -/
theorem paramWrite_inv (param inst : Nat) (v : BitVec 64) (g : Sag) :
    let x := paramWrite param inst v g
    (x.1 ≠ mOk ∧ x.2 = g) ∨
      (x.1 = mOk ∧ x.2.sealCnt = g.sealCnt + 1 ∧ x.2.audit = g.audit ++
        [auditEntry g param (if param = 1 then inst else 0) x.2.sealCnt (paramLast g param inst) (paramLast x.2 param inst)]) := by
  unfold paramWrite
  split
  · exact .inl ⟨nofun, rfl⟩
  · split
    · exact .inl ⟨nofun, rfl⟩
    · split
      · exact .inl ⟨nofun, rfl⟩
      · exact .inr ⟨rfl, counted_of_keeps_logged ((logEntry_keeps ..).trans (tell_keeps ..))
          (setParam_sealCnt param inst v { g with sealCnt := g.sealCnt + 1 })
          (setParam_audit param inst v { g with sealCnt := g.sealCnt + 1 })⟩

/-! ### The rows of the meter port -/

theorem onSag_of_powered {s : State} (hv : s.dp.variant = .ms) (hp : s.sg.powered = true) (f : Sag → Sag) :
    onSag f s = .next { s with sg := f s.sg } := congrArg Host.Outcome.next (if_pos ⟨hv, hp⟩)
theorem exec_paramSet_of_powered {s : State} (hv : s.dp.variant = .ms) (hp : s.sg.powered = true) (p i : Byte) (v : BitVec 64) :
    exec (.paramSet p i v) s = .next { s with
      sg := meterAnswer (paramWrite p.toNat i.toNat v s.sg).1 [] (paramWrite p.toNat i.toNat v s.sg).2 } :=
  onSag_of_powered hv hp fun g => meterAnswer (paramWrite p.toNat i.toNat v g).1 [] (paramWrite p.toNat i.toNat v g).2
theorem exec_setTime_of_powered {s : State} (hv : s.dp.variant = .ms) (hp : s.sg.powered = true) (secs : BitVec 48) :
    exec (.setTime secs) s = .next { s with
      sg := meterAnswer (timeWrite secs.toNat s.sg).1 [] (timeWrite secs.toNat s.sg).2 } :=
  onSag_of_powered hv hp fun g => meterAnswer (timeWrite secs.toNat g).1 [] (timeWrite secs.toNat g).2

/-! ### A step -/

/-- A step leaves the counter and the log, or it appends one entry to a log that is not full and counts at most one. -/
theorem step_seal_log {s t : State} (h : step s = .next t) :
    (t.sg.audit = s.sg.audit ∧ t.sg.sealCnt = s.sg.sealCnt) ∨
      (s.sg.audit.length < 1024 ∧ (∃ e, t.sg.audit = s.sg.audit ++ [e]) ∧
        (t.sg.sealCnt = s.sg.sealCnt ∨ t.sg.sealCnt = s.sg.sealCnt + 1)) := by
  rcases step_sag s t h with k | ⟨hfull, -, e, hset⟩
  · exact .inl ⟨k.audit, k.sealCnt⟩
  · have hroom : s.sg.audit.length < 1024 := by simpa [logFull] using hfull
    refine .inr ⟨hroom, ⟨e, ?_⟩, ?_⟩ <;> rcases hset with k | ⟨p, i, v, -, -, -, k⟩
    · exact k.audit
    · exact k.audit
    · exact .inl k.sealCnt
    · exact .inr (k.sealCnt.trans (setParam_sealCnt ..))

theorem toNat_succ_count {n : BitVec 32} (h : n.toNat < 1024) : (n + 1).toNat = n.toNat + 1 := by
  bv_omega

/-- From a legal state the counter never falls, and the log keeps what it holds and stays within its 1,024 entries. -/
theorem step_seal_monotone {s t : State} (legal : Sag.Legal s.sg) (h : step s = .next t) :
    s.sg.sealCnt.toNat ≤ t.sg.sealCnt.toNat ∧ s.sg.audit <+: t.sg.audit ∧ t.sg.audit.length ≤ 1024 ∧
      (s.sg.audit.length = 1024 → t.sg.sealCnt = s.sg.sealCnt) := by
  rcases step_seal_log h with ⟨haudit, hcnt⟩ | ⟨hroom, ⟨e, haudit⟩, hcnt⟩
  · rw [haudit, hcnt]
    exact ⟨le_rfl, List.prefix_rfl, legal.log, fun _ => rfl⟩
  · refine ⟨?_, haudit ▸ List.prefix_append .., ?_, fun hfull => absurd hfull hroom.ne⟩
    · rcases hcnt with hcnt | hcnt
      · rw [hcnt]
      · rw [hcnt, toNat_succ_count (legal.seal_.trans_lt hroom)]
        exact Nat.le_succ _
    · rw [haudit, List.length_append]
      exact hroom

/-! ### O36 -/

/-- Settles O36: a PARAM_SET is refused or counted with its entry, a full log answers before all else, and no step takes back a count
or an entry. -/
theorem sealCounterAndAuditLog : Obligations.SealCounterAndAuditLog := by
  refine ⟨fun p i v s hv hp => ⟨_, exec_paramSet_of_powered hv hp p i v, ?_⟩,
    fun secs s hv hp hlen => ⟨_, exec_setTime_of_powered hv hp secs, ?_⟩, fun s t => step_seal_monotone⟩
  · have hfull (hlen : 1024 ≤ s.sg.audit.length) : some (paramWrite p.toNat i.toNat v s.sg).1 = some 3 := by
      rw [paramWrite_of_full (decide_eq_true hlen)]; rfl
    rcases paramWrite_inv p.toNat i.toNat v s.sg with ⟨hst, hsame⟩ | ⟨hst, hcnt, haudit⟩
    · exact ⟨fun h => absurd (Option.some.inj h) hst, fun _ => by rw [hsame]; rfl, hfull⟩
    · exact ⟨fun _ => ⟨hcnt, _, haudit, auditEntry_paramSet_fields ..⟩, fun h => absurd (congrArg some hst) h, hfull⟩
  · rw [timeWrite_of_full (decide_eq_true hlen)]
    exact ⟨rfl, rfl⟩

end Sys2Proof.Machine
end

/-! PROOF. What every step keeps: it answers a next state and leaves the waiting commands alone, the debug lock stands (R328), and the
legal state of the Sagger stays in its tables and changes only under the seal (R358, R374 to R376). -/
section
namespace Sys2Proof.Machine
open Sys2Proof

/-! ### O1, O2, O5: the front command, the tick and the state at reset -/

theorem step_cons {c : Instr} {rest : List Instr} {s : State} (h : s.pending = c :: rest) :
    step s = exec c { s with pending := rest } := by
  unfold step; rw [h]
theorem step_idle {s : State} (h : s.pending = []) : step s = .next (tick s) := by
  unfold step; rw [h]

/-- Settles O1: the front command is the one `step` matches on. -/
theorem stepRunsTheFrontCommand : Obligations.StepRunsTheFrontCommand := fun _ _ _ => step_cons

/-- Settles O2: a tick leaves the queue as it is. -/
theorem anIdleStepIsOneTick : Obligations.AnIdleStepIsOneTick := fun s h =>
  ⟨step_idle h, (tick_runs s).pending.trans h⟩

/-- Settles O5: no symbol is listed at reset, and the Sagger has its default parameters and an empty log. -/
theorem invariantsHoldAtReset : Obligations.InvariantsHoldAtReset :=
  ⟨twf_nil 0, { len := by decide, lenNext := by decide, winLen := by decide, refSel := by decide, policy := by decide,
                limit := by decide, log := Nat.zero_le _, seal_ := le_rfl }⟩

/-! ### O3: every command goes on -/

/-- Settles O3: a write under the seal, a start, and every other row each answer a state with the queue they found. -/
theorem everyCommandGoesOn : Obligations.EveryCommandGoesOn := by
  intro c s
  by_cases hm : seals c = true
  · obtain ⟨t, e, hp, -⟩ := seals_sag c s hm
    exact ⟨t, e, hp⟩
  · by_cases hs : starts c = true
    · obtain ⟨t, e, hp, -⟩ := starts_sag c s hs
      exact ⟨t, e, hp⟩
    · obtain ⟨t, e, k⟩ := exec_runs c s (Bool.eq_false_of_not_eq_true hs) (Bool.eq_false_of_not_eq_true hm)
      exact ⟨t, e, k.pending⟩

/-! ### O8: the debug lock -/

/-- No row but a start clears the debug lock of a powered management die. -/
theorem exec_lock {c : Instr} {s t : State} (hs : starts c = false) (h : exec c s = .next t) (hl : locked s = true) :
    locked t = true ∨ mgcOn t = false := by
  by_cases hm : seals c = true
  · obtain ⟨u, e, -, hmg, -⟩ := seals_sag c s hm
    rw [e] at h; cases h
    exact .inl (by unfold locked at *; rwa [hmg])
  · obtain ⟨u, e, k⟩ := exec_runs c s hs (Bool.eq_false_of_not_eq_true hm)
    rw [e] at h; cases h
    exact k.lock hl

/-- Settles O8: a tick and every row but the three starts keep the lock, or leave the management die unpowered. -/
theorem debugLockHolds : Obligations.DebugLockHolds := by
  intro s t hl h
  match hp : s.pending with
  | [] =>
    rw [step_idle hp] at h; cases h
    exact ((tick_runs s).lock hl).imp_right .inl
  | c :: rest =>
    rw [step_cons hp] at h
    by_cases hs : starts c = true
    · refine .inr (.inr ?_)
      cases c <;> simp only [starts, Bool.false_eq_true] at hs
      case powerOn b => exact ⟨b, rest, .inl rfl⟩
      case coldReset b => exact ⟨b, rest, .inr (.inl rfl)⟩
      case overVoltageEnd b => exact ⟨b, rest, .inr (.inr rfl)⟩
    · exact (exec_lock (s := { s with pending := rest }) (Bool.eq_false_of_not_eq_true hs) h hl).imp_right .inl

/-! ### O6: the legal state -/

/-- What keeps the legal parameters keeps them legal: a window's length is one that was set before. -/
theorem Sag.Legal.of_keeps {g h : Sag} (legal : Sag.Legal g) (k : SagKeeps g h) : Sag.Legal h where
  len := by rcases k.len with e | e <;> rw [e]; exacts [legal.len, legal.lenNext]
  lenNext := k.lenNext ▸ legal.lenNext
  winLen := by rcases k.winLen with e | e <;> rw [e]; exacts [legal.winLen, legal.lenNext]
  refSel := k.refSel ▸ legal.refSel
  policy := k.policy ▸ legal.policy
  limit := k.limitS ▸ legal.limit
  log := k.audit ▸ legal.log
  seal_ := by rw [k.audit, k.sealCnt]; exact legal.seal_

theorem length_lt_of_not_full {g : Sag} (h : logFull g = false) : g.audit.length < 1024 := by
  simpa [logFull] using h

/-- An entry has room in a log that is not full. -/
theorem Sag.Legal.logged {g : Sag} (legal : Sag.Legal g) (room : logFull g = false) (e : BitVec 256) :
    Sag.Legal { g with audit := g.audit ++ [e] } :=
  { legal with
    log := by rw [List.length_append]; exact length_lt_of_not_full room
    seal_ := legal.seal_.trans (by rw [List.length_append]; exact Nat.le_add_right ..) }

/-- One count more has its entry in the log. -/
theorem Sag.Legal.counted {g : Sag} (legal : Sag.Legal g) (room : logFull g = false) (e : BitVec 256) :
    Sag.Legal { g with sealCnt := g.sealCnt + 1, audit := g.audit ++ [e] } :=
  { legal.logged room e with
    seal_ := by
      show (g.sealCnt + 1).toNat ≤ (g.audit ++ [e]).length
      rw [toNat_succ_count (legal.seal_.trans_lt (length_lt_of_not_full room)), List.length_append]
      exact Nat.succ_le_succ legal.seal_ }

/-- What is kept is kept whatever log stands beside it. -/
theorem SagKeeps.withAudit {g h : Sag} (k : SagKeeps g h) (a : List (BitVec 256)) :
    SagKeeps { g with audit := a } { h with audit := a } := { k with audit := rfl }

/-- A value of Table 16.5 that is set leaves the parameters legal, whatever log stands beside them. -/
theorem Sag.Legal.setParam {g : Sag} {a : List (BitVec 256)} {param inst : Nat} {v : BitVec 64}
    (legal : Sag.Legal { g with audit := a }) (ok : paramOk param inst v = true) :
    Sag.Legal { setParam param inst v g with audit := a } := by
  have held := legal.of_keeps ((syncHold_keeps g).withAudit a)
  unfold Machine.setParam
  split
  · exact { legal with lenNext := of_decide_eq_true ok }
  · exact { legal with }
  · exact { held with refSel := of_decide_eq_true ok }
  next h0 h1 h2 =>
    have h3 : param = 3 := by
      match param with
      | 0 => exact absurd rfl h0
      | 1 => exact absurd rfl h1
      | 2 => exact absurd rfl h2
      | 3 => rfl
      | n + 4 => exact nomatch ok
    subst h3
    obtain ⟨hp, hl⟩ := of_decide_eq_true ok
    refine Sag.Legal.of_keeps ?_ ((syncHold_keeps _).withAudit a)
    exact { held with policy := hp, limit := hl }

/-- Settles O6: a step keeps the legal state, or logs one entry in a log that has room, and sets at most one parameter to a value of
Table 16.5. -/
theorem legalMetrologyIsKept : Obligations.LegalMetrologyIsKept := by
  intro s t legal h
  rcases step_sag s t h with k | ⟨room, -, e, k | ⟨p, i, v, -, -, ok, k⟩⟩
  · exact legal.of_keeps k
  · exact (legal.logged room e).of_keeps k
  · exact (Sag.Legal.setParam (legal.counted room e) ok).of_keeps k

/-! ### O7: changes under the seal -/

/-- The legal parameters of O7 are those of another Sagger. -/
def sameParams (g h : Sag) : Prop :=
  h.lenNext = g.lenNext ∧ h.labelsNext = g.labelsNext ∧ h.refSel = g.refSel ∧ h.policy = g.policy ∧ h.limitS = g.limitS

theorem SagKeeps.sameParams {g h : Sag} (k : SagKeeps g h) : sameParams g h :=
  ⟨k.lenNext, k.labelsNext, k.refSel, k.policy, k.limitS⟩

/-- A step that does not keep the legal parameters is a PARAM_SET under the seal, and leaves its count and its entry. -/
theorem step_params {s t : State} (legal : Sag.Legal s.sg) (h : step s = .next t) : sameParams s.sg t.sg ∨
    (s.sg.sealN = true ∧ (∃ param i v rest, s.pending = .paramSet param i v :: rest) ∧
      t.sg.sealCnt.toNat = s.sg.sealCnt.toNat + 1 ∧ t.sg.audit.length = s.sg.audit.length + 1) := by
  rcases step_sag s t h with k | ⟨room, asserted, e, k | ⟨p, i, v, rest, hp, -, k⟩⟩
  · exact .inl k.sameParams
  · exact .inl k.sameParams
  · refine .inr ⟨asserted, ⟨p, i, v, rest, hp⟩, ?_, ?_⟩
    · rw [k.sealCnt, setParam_sealCnt, toNat_succ_count (legal.seal_.trans_lt (length_lt_of_not_full room))]
    · rw [k.audit, List.length_append]; rfl

/-- Settles O7: the log and the counter never fall back, and a step that changes a legal parameter is a counted PARAM_SET. -/
theorem sealedParametersChangeOnlyByLoggedCommands : Obligations.SealedParametersChangeOnlyByLoggedCommands := by
  intro s t legal h
  obtain ⟨hcnt, haudit, -, -⟩ := step_seal_monotone legal h
  refine ⟨haudit, hcnt, fun changed => (step_params legal h).resolve_left ?_⟩
  rintro ⟨hlen, hlabels, href, hpolicy, hlimit⟩
  rcases changed with c | c | c | c | c
  exacts [c hlen, c hlabels, c href, c hpolicy, c hlimit]

end Sys2Proof.Machine
end

/-! PROOF. The outcomes of command packets: what `answered`, `accepted` and `turnedAway` are of a body, that a refusal by a body leaves
the state alone (R299), and what the recovery service answers (R416). -/
section
namespace Sys2Proof.Machine
open Sys2Proof

/-! ### A packet that its queue may give -/

section Given
variable {c : Instr} {h : Hdr} {cmd : Command} {s : State} {qs : List Nat} {keyed : Bool}

/-- A packet whose body is done at once. -/
theorem exec_answered (m : mayGive qs keyed h s) (e : commandOf c = some (h, cmd)) (hq : ∀ q ∈ qs, cmd.queues.testBit q = true)
    (hk : cmd.keyed = true → keyed = true) (hl : cmd.noLock = true → locked s = false) {res : BitVec 192} {f : State → State}
    (hb : cmd.body h (enterRow h s) = okay res (f (enterRow h s))) : exec c s = answered h cmd.opcode res f s := by
  rw [exec_given c h cmd s m e hq hk hl, hb]; rfl

/-- A packet whose body starts a long operation. -/
theorem exec_accepted (m : mayGive qs keyed h s) (e : commandOf c = some (h, cmd)) (hq : ∀ q ∈ qs, cmd.queues.testBit q = true)
    (hk : cmd.keyed = true → keyed = true) (hl : cmd.noLock = true → locked s = false) {w : Work} {f : State → State}
    (hb : cmd.body h (enterRow h s) = acceptOp h cmd.opcode w f (enterRow h s)) : exec c s = accepted h cmd.opcode w f s := by
  rw [exec_given c h cmd s m e hq hk hl, hb]; rfl

/-- A packet whose body refuses it, with a RESULT or without. -/
theorem exec_turnedAway (m : mayGive qs keyed h s) (e : commandOf c = some (h, cmd)) (hq : ∀ q ∈ qs, cmd.queues.testBit q = true)
    (hk : cmd.keyed = true → keyed = true) (hl : cmd.noLock = true → locked s = false) {st : BitVec 8} {res : BitVec 192}
    (hb : cmd.body h (enterRow h s) = (enterRow h s, some (st, res))) : exec c s = turnedAway h cmd.opcode st res s := by
  rw [exec_given c h cmd s m e hq hk hl, hb]; rfl

end Given

theorem queues_all : ∀ q ∈ [0, 1, 2, 3], Nat.testBit 15 q = true := by decide
theorem queues_q012 : ∀ q ∈ [0, 1, 2], q012.testBit q = true := by decide
theorem queues_q01 : ∀ q ∈ [0, 1], q01.testBit q = true := by decide
theorem queues_q03 : ∀ q ∈ [0, 3], q03.testBit q = true := by decide
theorem queues_q0 : ∀ q ∈ [0], q0.testBit q = true := by decide

/-- With a slot free, a long operation is accepted (R303). -/
theorem startOp_of_slotFree {h : Hdr} {opcode : Nat} {w : Work} {f : State → State} {s : State} (free : slotFree s) :
    startOp h opcode w f (enterRow h s) = acceptOp h opcode w f (enterRow h s) :=
  if_neg (by rw [enterRow_dp]; exact Nat.not_le.2 free)

/-! ### Refusals by a body (R299) -/

/-- Where the answer is a refusal, it leaves the state as it was. -/
def Ret.Clean (s : State) (r : Ret) : Prop := ∀ st res, r.2 = some (st, res) → 0x10 ≤ st.toNat → r.1 = s
/-- A command whose body refuses without effect. -/
def Command.Clean (c : Command) : Prop := ∀ h s, Ret.Clean s (c.body h s)

namespace Ret
theorem Clean.ite {s : State} {a b : Ret} {c : Prop} [Decidable c] (h : Ret.Clean s a) (k : Ret.Clean s b) :
    Ret.Clean s (if c then a else b) := by
  split
  · exact h
  · exact k
/-- The state as it was, whatever the answer. -/
theorem Clean.same {s : State} {x : Option (BitVec 8 × BitVec 192)} : Ret.Clean s (s, x) := fun _ _ _ _ => rfl
theorem Clean.deny {s : State} {st : BitVec 8} : Ret.Clean s (deny st s) := .same
/-- An answer below 0x10 is no refusal. -/
theorem Clean.of_lt {s : State} {r : Ret} (h : ∀ st res, r.2 = some (st, res) → st.toNat < 0x10) : Ret.Clean s r :=
  fun st res e hst => absurd (h st res e) (Nat.not_lt.2 hst)
theorem Clean.okay {s t : State} {res : BitVec 192} : Ret.Clean s (okay res t) := .of_lt (by rintro _ _ ⟨⟩; decide)
theorem Clean.waits {s t : State} {h : HeldCmd} : Ret.Clean s (waits h t) := fun _ _ e => nomatch e
theorem Clean.acceptOp {s t : State} {h : Hdr} {opcode : Nat} {w : Work} {f : State → State} :
    Ret.Clean s (acceptOp h opcode w f t) := .of_lt (by rintro _ _ ⟨⟩; decide)
theorem Clean.startOp {s : State} {h : Hdr} {opcode : Nat} {w : Work} {f : State → State} :
    Ret.Clean s (startOp h opcode w f s) := .ite .deny .acceptOp
theorem Clean.startWalk {s : State} {h : Hdr} {opcode : Nat} {w : Work} : Ret.Clean s (startWalk h opcode w s) := .startOp
end Ret

/-! ### The line of a command -/

/-- A command that reaches a line adds its operation there, and changes nothing else of the plane. -/
theorem reachIntern_command (line : Nat) (p : Plane) :
    ∃ js, reachIntern .command line 0 p = { p with jobs := js, nextJob := p.nextJob + 1 } := by
  unfold reachIntern reachLine
  simp only [Bool.false_and, Bool.false_eq_true, if_false]
  split
  · exact ⟨_, rfl⟩
  · exact ⟨_, rfl⟩

/-- What refuses an error injection has nothing to do with who waits for the line. -/
theorem injectBad_reachIntern (kind line word : Nat) (p : Plane) :
    injectBad (reachIntern .command line 0 p) kind line word = injectBad p kind line word := by
  obtain ⟨js, e⟩ := reachIntern_command line p
  rw [e]; rfl

theorem injectAct_clean {job kind line word bit0 bit1 : Nat} {symbols : BitVec 72} {s t : State}
    (h : injectBad t.dp kind line word = false) : Ret.Clean s (injectAct job kind line symbols word bit0 bit1 t) := by
  unfold injectAct
  rw [if_neg (by simp [h])]
  split
  · exact .okay
  · split
    next e => exact absurd (show injectBad t.dp 1 line word = true by simp [injectBad, e]) (by simp [h])
    next => exact .okay
  · exact .okay
theorem setwayAct_clean {job n set way op : Nat} {lockedOk : Bool} {s t : State} :
    Ret.Clean s (setwayAct job n set way op lockedOk t) := by
  refine .of_lt ?_
  rintro st res ⟨⟩
  split <;> decide
theorem setwayTry_clean {h : HeldCmd} {n set way op : Nat} {lockedOk : Bool} {s : State} :
    Ret.Clean s (setwayTry h n set way op lockedOk s) := by
  unfold setwayTry
  split
  · exact .okay
  · exact .ite setwayAct_clean .waits

/-! ### The bodies -/

theorem cmdFuncModeSet_clean (func : Byte) (mode : Bool) : (cmdFuncModeSet func mode).Clean :=
  fun _ _ => .ite .deny (.ite .deny (.ite .okay .okay))
theorem cmdRegionSet_clean (index : Byte) (entry : BitVec 128) : (cmdRegionSet index entry).Clean :=
  fun _ _ => .ite .deny (.ite .deny .okay)
theorem cmdDevResetWarm_clean : cmdDevResetWarm.Clean := fun _ _ => .ite .deny .startOp
theorem cmdDevPowerState_clean (state : Byte) : (cmdDevPowerState state).Clean := fun _ _ => .ite .deny (.ite .deny .startOp)
theorem cmdCacheEnable_clean : cmdCacheEnable.Clean := fun _ _ => .ite .deny (.ite .okay (.ite .deny .okay))
theorem cmdCacheDisable_clean : cmdCacheDisable.Clean :=
  fun _ _ => .ite .deny (.ite .okay (.ite (.ite .okay .same) .startOp))
theorem cmdCacheInvalidateAll_clean : cmdCacheInvalidateAll.Clean := fun _ _ => .ite .deny .okay
theorem cmdCacheCleanAll_clean : cmdCacheCleanAll.Clean := fun _ _ => .ite .deny .startWalk
theorem cmdRange_clean (opcode : Nat) (w : Nat → Nat → Work) (base : Spa) (lines : BitVec 34) :
    (cmdRange opcode w base lines).Clean := fun _ _ => .ite .deny (.ite .deny .startWalk)
theorem cmdSetway_clean (tile slice : Byte) (set : BitVec 16) (way op : Byte) (lockedOk : Bool) :
    (cmdSetway tile slice set way op lockedOk).Clean := fun _ _ => .ite .deny (.ite .okay setwayTry_clean)
theorem cmdWayLock_clean (instn : Byte) (ways : BitVec 24) (slices : BitVec 64) : (cmdWayLock instn ways slices).Clean :=
  fun _ _ => .ite .deny (.ite .deny (.ite .deny .startOp))
theorem cmdWayUnlock_clean (instn : Byte) (ways : BitVec 24) (slices : BitVec 64) : (cmdWayUnlock instn ways slices).Clean :=
  fun _ _ => .ite .deny .okay
theorem cmdLinePin_clean (instn : Byte) (unpin : Bool) (lines : BitVec 32) (base : Spa) : (cmdLinePin instn unpin lines base).Clean :=
  fun _ _ => .ite .deny (.ite .deny .startOp)
theorem cmdWayRetire_clean (tile slc way : Byte) (restore : Bool) : (cmdWayRetire tile slc way restore).Clean :=
  fun _ _ => .ite .deny (.ite .okay (.ite .okay (.ite .deny (.ite .deny .startOp))))
theorem cmdReplayDescSet_clean (desc : Byte) (d : BitVec 256) : (cmdReplayDescSet desc d).Clean :=
  fun _ _ => .ite .deny (.ite .deny .okay)
theorem cmdInstCreate_clean (instn op : Byte) (share : BitVec 32) (mem : BitVec 256) : (cmdInstCreate instn op share mem).Clean :=
  fun _ _ => .ite .deny (.ite (.ite .deny .okay) (.ite (.ite .deny .okay) (.ite .deny .okay)))
theorem cmdInstDestroy_clean (instn : Byte) : (cmdInstDestroy instn).Clean := fun _ _ => .ite .deny (.ite .deny .startOp)
theorem cmdInstReset_clean (instn step : Byte) (drainUs : BitVec 16) : (cmdInstReset instn step drainUs).Clean :=
  fun _ _ => .ite .deny (.ite .deny (.ite .deny (.ite .okay (.ite .startOp .startOp))))
theorem cmdInstShareSet_clean (instn : Byte) (share : BitVec 32) : (cmdInstShareSet instn share).Clean :=
  fun _ _ => .ite .deny (.ite .deny (.ite .deny .acceptOp))
theorem cmdInstWindowSet_clean (instn window : Byte) (entry : BitVec 256) : (cmdInstWindowSet instn window entry).Clean :=
  fun _ _ => .ite .deny (.ite .deny (.ite .deny .okay))
theorem cmdJoinNodeIdSet_clean (node : BitVec 16) : (cmdJoinNodeIdSet node).Clean := fun _ _ => .ite .deny (.ite .deny .okay)
theorem cmdJoinLinkUp_clean (lnk : Byte) (expect : Bool) (peer : BitVec 14) : (cmdJoinLinkUp lnk expect peer).Clean :=
  fun _ _ => .ite .deny (.ite .deny .startOp)
theorem cmdJoinRouteSet_clean (multi : Bool) (lnk : Byte) (first count : BitVec 16) (entry : BitVec 64) (dl : Bool) :
    (cmdJoinRouteSet multi lnk first count entry dl).Clean := fun _ _ => .ite (.ite .deny .okay) (.ite .deny .okay)
theorem cmdMapEpochPrepare_clean (epoch : BitVec 16) (chunk : Byte) (vector : BitVec 256) :
    (cmdMapEpochPrepare epoch chunk vector).Clean := fun _ _ => .ite .deny .okay
theorem cmdMapEpochCommit_clean (epoch : BitVec 16) (at_ : BitVec 64) : (cmdMapEpochCommit epoch at_).Clean :=
  fun _ _ => .ite .deny (.ite .deny (.ite .deny .startOp))
theorem cmdNodeLeave_clean (step : Byte) : (cmdNodeLeave step).Clean := fun _ _ => .ite .deny (.ite .deny (.ite .deny .startOp))
theorem cmdMemTrain_clean (mode : Byte) (channels : BitVec 64) : (cmdMemTrain mode channels).Clean :=
  fun _ _ => .ite .deny (.ite .deny .startOp)
theorem cmdMemChannelEvacuate_clean (channel : Byte) (clearRecord : Bool) : (cmdMemChannelEvacuate channel clearRecord).Clean :=
  fun _ _ => .ite .deny (.ite .okay (.ite .deny .startOp))
theorem cmdMemPageRetire_clean (mode channel bank : Byte) (row : BitVec 32) (spa : Spa) :
    (cmdMemPageRetire mode channel bank row spa).Clean := fun _ _ => .ite .deny (.ite .deny (.ite .deny .startOp))
theorem cmdEccScrubCfg_clean (op dramHours sramHours : Byte) (base : Spa) (lines : BitVec 34) :
    (cmdEccScrubCfg op dramHours sramHours base lines).Clean := fun _ _ => .ite .deny (.ite .okay .startOp)
theorem cmdMarginReplan_clean (op : Byte) (planId : BitVec 32) (islands : BitVec 128) : (cmdMarginReplan op planId islands).Clean := by
  refine fun _ s => .ite .deny (.ite .startOp ?_)
  split
  · exact .deny
  · exact .ite .deny (.ite .startOp .startOp)
theorem cmdThermalCfg_clean (isl : Byte) (freqCap powerCap : BitVec 16) : (cmdThermalCfg isl freqCap powerCap).Clean :=
  fun _ _ => .ite .deny .okay
theorem cmdDomainPower_clean (domain : Byte) (on : Bool) : (cmdDomainPower domain on).Clean :=
  fun _ _ => .ite .deny (.ite .deny .startOp)
theorem cmdOdoConfig_clean (counter event : BitVec 16) (flags : BitVec 6) (user : Byte) (filters : BitVec 256) :
    (cmdOdoConfig counter event flags user filters).Clean := fun _ _ => .ite .deny (.ite .deny (.ite .deny .okay))
theorem cmdOdoSnapshot_clean (first count : BitVec 16) (clear : Bool) (dest : BitVec 64) :
    (cmdOdoSnapshot first count clear dest).Clean := fun _ _ => .ite .deny .startOp
theorem cmdPerturbSet_clean (engine target mode : Byte) (value valueMax : BitVec 16) (pattern seed : BitVec 64) :
    (cmdPerturbSet engine target mode value valueMax pattern seed).Clean := fun _ _ => .ite .deny .okay
theorem cmdErrInject_clean (kind target : Byte) (count : BitVec 16) (spa : Spa) (symbols : BitVec 72) (word bit0 bit1 : Byte) :
    (cmdErrInject kind target count spa symbols word bit0 bit1).Clean := by
  intro h s
  dsimp only [cmdErrInject]
  refine .ite .deny (.ite (.ite .okay .deny) ?_)
  split
  · exact .deny
  next hb =>
    refine .ite (injectAct_clean ?_) .waits
    rw [onDp_dp, injectBad_reachIntern]
    exact Bool.eq_false_of_not_eq_true hb
theorem cmdFwStage_clean (offset length : BitVec 32) (src : BitVec 64) (final : Bool) (bytes : List Byte) :
    (cmdFwStage offset length src final bytes).Clean := fun _ _ => .ite .deny (.ite .deny .startOp)
theorem cmdFwActivate_clean (slot when_ : Byte) : (cmdFwActivate slot when_).Clean := fun _ _ => .ite .deny (.ite .deny .okay)
theorem cmdLinkTrain_clean (prt mode : Byte) : (cmdLinkTrain prt mode).Clean := fun _ _ => .ite .deny (.ite .deny .startOp)

/-- The body of every packet row refuses without effect. -/
theorem commandOf_clean {c : Instr} {h : Hdr} {cmd : Command} (e : commandOf c = some (h, cmd)) : cmd.Clean := by
  cases c <;> simp only [commandOf, Option.some.injEq, Prod.mk.injEq, reduceCtorEq] at e
  all_goals obtain ⟨rfl, rfl⟩ := e
  case devInfo | devStatus | funcModeGet | regionGet | fwInfo | saggerStatus | perturbClear => exact fun _ _ => .okay
  case instStatus | eccCountRead | marginLedgerRead | linkStatus | histConfig => exact fun _ _ => .ite .deny .okay
  all_goals apply_rules [cmdFuncModeSet_clean, cmdRegionSet_clean, cmdDevResetWarm_clean, cmdDevPowerState_clean,
    cmdCacheEnable_clean, cmdCacheDisable_clean, cmdCacheInvalidateAll_clean, cmdCacheCleanAll_clean, cmdRange_clean,
    cmdSetway_clean, cmdWayLock_clean, cmdWayUnlock_clean, cmdLinePin_clean, cmdWayRetire_clean, cmdReplayDescSet_clean,
    cmdInstCreate_clean, cmdInstDestroy_clean, cmdInstReset_clean, cmdInstShareSet_clean, cmdInstWindowSet_clean,
    cmdJoinNodeIdSet_clean, cmdJoinLinkUp_clean, cmdJoinRouteSet_clean, cmdMapEpochPrepare_clean, cmdMapEpochCommit_clean,
    cmdNodeLeave_clean, cmdMemTrain_clean, cmdMemChannelEvacuate_clean, cmdMemPageRetire_clean, cmdEccScrubCfg_clean,
    cmdMarginReplan_clean, cmdThermalCfg_clean, cmdDomainPower_clean, cmdOdoConfig_clean, cmdOdoSnapshot_clean,
    cmdPerturbSet_clean, cmdErrInject_clean, cmdFwStage_clean, cmdFwActivate_clean, cmdLinkTrain_clean]

/-! ### What a reply changes -/

theorem vectorMessage_frame (v : Nat) (m : Mgmt) : ∃ x, vectorMessage v m = { m with msix := x } := by
  unfold vectorMessage; split <;> exact ⟨_, rfl⟩
/-- A reply of a ring changes the rings and MSI-X alone. -/
theorem ringReply_frame (q : Nat) (opcode : BitVec 16) (status : BitVec 8) (seq : BitVec 32) (result : BitVec 192) (m : Mgmt) :
    ∃ rs x, ringReply q opcode status seq result m = { m with rings := rs, msix := x } := by
  unfold ringReply
  split
  · exact ⟨m.rings, m.msix, rfl⟩
  · dsimp only
    split
    next => obtain ⟨x, e⟩ := vectorMessage_frame (fld (ctlOf (ring m q)) 0 6) (setRing m q _); exact ⟨_, x, e⟩
    next => exact ⟨_, m.msix, rfl⟩
theorem hostFault_mg (q : Nat) (s : State) : (hostFault q s).mg = setRing s.mg q (ringFault (ring s.mg q)) := mgEvent_mg ..
theorem hostFault_frame (q : Nat) (s : State) : hostFault q s = { s with mg := (hostFault q s).mg, dp := (hostFault q s).dp } := by
  unfold hostFault mgEvent; split <;> rfl

/-- The management die `n` differs from `m` in its rings, its round, its SPI port and MSI-X alone. -/
def OnlyReplied (m n : Mgmt) : Prop :=
  ∃ rs r sp x, n = { m with rings := rs, round := r, spi := sp, msix := x }

theorem enterRow_onlyReplied (h : Hdr) (s : State) : OnlyReplied s.mg (enterRow h s).mg := by
  unfold enterRow
  dsimp only
  split
  · exact ⟨_, _, _, s.mg.msix, rfl⟩
  · exact ⟨_, _, s.mg.spi, s.mg.msix, rfl⟩
theorem OnlyReplied.trans {m n o : Mgmt} (h : OnlyReplied m n) (k : OnlyReplied n o) : OnlyReplied m o := by
  obtain ⟨_, _, _, _, rfl⟩ := h
  obtain ⟨_, _, _, _, rfl⟩ := k
  exact ⟨_, _, _, _, rfl⟩

section Reply
variable (q : Nat) (ok : Bool) (opcode : BitVec 16) (status : BitVec 8) (seq : BitVec 32) (result : BitVec 192) (s : State)

/-- A reply changes the management die and the data plane alone. -/
theorem replyTo_frame : ∃ m p, replyTo q ok opcode status seq result s = { s with mg := m, dp := p } ∧ OnlyReplied s.mg m := by
  unfold replyTo
  split
  · exact ⟨_, _, rfl, s.mg.rings, s.mg.round, _, s.mg.msix, rfl⟩
  · split
    · refine ⟨_, _, hostFault_frame q s, ?_⟩
      rw [hostFault_mg]
      exact ⟨_, s.mg.round, s.mg.spi, s.mg.msix, rfl⟩
    · obtain ⟨rs, x, e⟩ := ringReply_frame q opcode status seq result s.mg
      exact ⟨_, s.dp, rfl, rs, s.mg.round, s.mg.spi, x, e⟩
theorem replyTo_ring_dp (hq : q ≠ 4) : (replyTo q true opcode status seq result s).dp = s.dp := by
  unfold replyTo; rw [if_neg hq, Bool.not_true, Bool.and_false]; rfl
theorem replyTo_failed (hq : q ≠ 4) (on : s.mg.endpoint = true) : replyTo q false opcode status seq result s = hostFault q s := by
  unfold replyTo; rw [if_neg hq, on]; rfl
end Reply

/-- A packet of a ring is taken with the endpoint enabled. -/
theorem endpoint_of_rowReady {h : Hdr} {s : State} (r : rowReady h s = true) (hq : h.queue ≠ 4) : s.mg.endpoint = true := by
  simp only [rowReady, if_neg hq, hostOn, Bool.and_eq_true] at r
  exact r.2.1.1.1.1
theorem queue_val_ne {h : Hdr} (hq : h.queue ≠ 4) : h.queue.val ≠ 4 := fun e => hq (Fin.ext e)

/-- Settles O9: the gate and the bodies refuse without effect, and a reply changes the rings, the SPI port and MSI-X, and draws or raises
an event. -/
theorem refusedCommandsChangeNothing : Obligations.RefusedCommandsChangeNothing := by
  intro c h cmd s e r
  refine ⟨fun st g => exec_refused c h cmd s st e r g, fun st res t g hb hst => ?_, fun st res t ht => ?_⟩
  · have same : t = enterRow h s := by simpa [hb] using commandOf_clean e h (enterRow h s) st res (by rw [hb]) hst
    rw [exec_admitted c h cmd s e r g, hb, same]
    rfl
  · cases ht
    obtain ⟨m, p, hreply, hm⟩ := replyTo_frame h.queue h.replyOk (BitVec.ofNat 16 cmd.opcode) st h.seq res (enterRow h s)
    refine ⟨?_, ?_, ?_, ?_, ?_, ?_, fun hq => ?_, fun hq ok => ?_, fun hq fail => ?_, ?_⟩
    iterate 6 rw [hreply]; simp
    · rw [hq]; exact congrArg draw1 (enterRow_dp h s)
    · rw [ok, replyTo_ring_dp _ _ _ _ _ _ (queue_val_ne hq), enterRow_dp]
    · rw [fail]
      exact replyTo_failed _ _ _ _ _ _ (queue_val_ne hq) (by rw [enterRow_mg_endpoint]; exact endpoint_of_rowReady r hq)
    · obtain ⟨rs, rd, sp, x, hm⟩ := (enterRow_onlyReplied h s).trans hm
      rw [hreply]
      simp [hm]

end Sys2Proof.Machine
end

/-! PROOF. What the recovery service and the inquiry commands answer (R416, R423, Table 12.14). -/
section
namespace Sys2Proof.Machine
open Sys2Proof

/-! ### The gate in the recovery service -/

section Recovery
variable {h : Hdr} {cmd : Command} {s : State} (hr : s.mg.life = .recovery)
include hr

theorem gate_recovery_other (hq : rightsOf h ≠ 0) : gate h cmd s = some sDenied := if_pos (.inr (.inl ⟨hr, hq⟩))

/-- Nothing denies a command of Q0 that needs no key and no lock. -/
theorem gate_recovery_q0 (hq : rightsOf h = 0) (hqs : cmd.queues.testBit 0 = true) (hk : cmd.keyed = true → h.key = 0xB7E5)
    (hl : cmd.noLock = true → locked s = false) : gate h cmd s = if cmd.recover = false then some sBadState else none := by
  have allowed : ¬((rightsOf h = 3 ∧ locked s = true) ∨ (s.mg.life = .recovery ∧ rightsOf h ≠ 0) ∨
      cmd.queues.testBit (rightsOf h) = false ∨ (cmd.keyed = true ∧ h.key ≠ 0xB7E5) ∨ (cmd.noLock = true ∧ locked s = true)) := by
    rw [hq, hqs]
    rintro (⟨h3, -⟩ | ⟨-, h0⟩ | hb | ⟨key, hne⟩ | ⟨no, lock⟩)
    · exact nomatch h3
    · exact h0 rfl
    · exact nomatch hb
    · exact hne (hk key)
    · rw [hl no] at lock; exact nomatch lock
  refine (if_neg allowed).trans ?_
  simp only [hr, true_and]

/-- A command that the service takes is carried out. -/
theorem exec_recovery {c : Instr} (r : rowReady h s = true) (e : commandOf c = some (h, cmd)) (hq : rightsOf h = 0)
    (hqs : cmd.queues.testBit 0 = true) (hk : cmd.keyed = false) (hl : cmd.noLock = false) (hrec : cmd.recover = true) :
    exec c s = .next (conclude h cmd.opcode (cmd.body h (enterRow h s))) := by
  refine exec_admitted c h cmd s e r ?_
  rw [gate_recovery_q0 hr hq hqs (by simp [hk]) (by simp [hl]), hrec]
  rfl
end Recovery

/-- Q0 may give every command (Table 12.7). -/
theorem commandOf_q0 {c : Instr} {h : Hdr} {cmd : Command} (e : commandOf c = some (h, cmd)) : cmd.queues.testBit 0 = true := by
  cases c <;> simp only [commandOf, Option.some.injEq, Prod.mk.injEq, reduceCtorEq] at e
  all_goals obtain ⟨rfl, rfl⟩ := e
  case devResetWarm | devPowerState | funcModeSet | regionSet | cacheEnable | cacheDisable | cacheInvalidateAll | wayLock
    | wayUnlock | linePin | replayDescSet | instCreate | instDestroy | instReset | instShareSet | instWindowSet
    | joinNodeIdSet | joinLinkUp | joinRouteSet | mapEpochPrepare | mapEpochCommit | nodeLeave | domainPower => exact (rfl : q01.testBit 0 = true)
  case cacheCleanAll | cacheCleanRange | cacheInvalRange | cacheClinvRange | memTrain | memPageRetire | eccScrubCfg
    | marginReplan | thermalCfg | linkTrain => exact (rfl : q012.testBit 0 = true)
  case fwStage | fwActivate => exact (rfl : q0.testBit 0 = true)
  case perturbSet | perturbClear | errInject => exact (rfl : q03.testBit 0 = true)
  case cacheSetwayOp h tile slc set way op ok =>
    show (if op = 3 then 15 else q012).testBit 0 = true
    split <;> rfl
  case eccCountRead h tile kind index clear =>
    show (if clear then q012 else 15).testBit 0 = true
    split <;> rfl
  case memChannelEvacuate h channel clear =>
    show (if clear then q0 else q01).testBit 0 = true
    split <;> rfl
  case wayRetire h tile slc way restore =>
    show (if restore then q0 else q012).testBit 0 = true
    split <;> rfl
  all_goals exact (rfl : Nat.testBit 15 0 = true)

theorem slotOf_enterRow (h : Hdr) (n : Nat) (s : State) : slotOf (enterRow h s).mg n = slotOf s.mg n := by
  simp [slotOf]

/-- Settles O11: the gate of the recovery service, and the three inquiries it takes. -/
theorem recoveryServesItsCommands : Obligations.RecoveryServesItsCommands := by
  intro h s r hr
  refine ⟨fun hq => ⟨?_, ?_, ?_⟩, fun c cmd e hq => exec_refused c h cmd s _ e r (gate_recovery_other hr hq),
    fun c cmd e hq hrec hk hl => exec_refused c h cmd s _ e r ?_⟩
  · rw [exec_recovery hr r (cmd := cmdDevInfo) rfl hq rfl rfl rfl rfl]
    simp only [cmdDevInfo, fwVersion, enterRow_mg_life, enterRow_mg_hwRev, enterRow_dp, hr, if_true]
    rfl
  · rw [exec_recovery hr r (cmd := cmdDevStatus) rfl hq rfl rfl rfl rfl]
    simp only [cmdDevStatus, enterRow_mg_life, enterRow_mg_unclean, enterRow_dp, enterRow_kn, locked_enterRow, hr, beq_self_eq_true,
      if_true]
    rfl
  · rw [exec_recovery hr r (cmd := cmdFwInfo) rfl hq rfl rfl rfl rfl]
    simp only [cmdFwInfo, enterRow_mg_running, enterRow_mg_slotA, enterRow_mg_slotB, enterRow_mg_startSlot]
    rfl
  · rw [gate_recovery_q0 hr hq (commandOf_q0 e) hk hl, hrec, if_pos rfl]

/-! ### Inquiries outside the recovery service -/

section Inquiries
variable {h : Hdr} {s : State} (m : mayGive [0, 1, 2, 3] false h s)
include m

theorem exec_devInfo : exec (.devInfo h) s = answered h 0x0101 (fields [(0, 16, 0x1640), (16, 8, bit (s.dp.variant == .ms)),
    (24, 8, s.mg.hwRev.toNat), (32, 8, 1), (40, 8, 1), (64, 32, (slotOf s.mg s.mg.running).version.toNat)]) id s := by
  obtain ⟨-, hlife, -⟩ := id m
  refine exec_answered m (cmd := cmdDevInfo) rfl queues_all nofun nofun ?_
  simp only [cmdDevInfo, fwVersion, slotOf_enterRow, enterRow_mg_life, enterRow_mg_hwRev, enterRow_mg_running, enterRow_dp, hlife,
    if_false]
  rfl
theorem exec_devStatus : exec (.devStatus h) s = answered h 0x0102 (fields [(0, 2, s.mg.power), (2, 1, bit s.mg.unclean),
    (3, 1, bit s.dp.cache.enabled), (4, 1, bit (locked s)), (32, 32, portsActive s.dp), (64, 16, linksActive s.dp),
    (80, 16, (tjMaxOf s.kn).toNat), (128, 64, s.dp.epoch)]) id s := by
  obtain ⟨-, hlife, -⟩ := id m
  refine exec_answered m (cmd := cmdDevStatus) rfl queues_all nofun nofun ?_
  simp only [cmdDevStatus, enterRow_mg_life, enterRow_mg_unclean, enterRow_mg_power, enterRow_dp, enterRow_kn, locked_enterRow,
    beq_iff_eq, hlife, if_false]
  rfl
theorem exec_regionGet (index : Byte) : exec (.regionGet h index) s = answered h 0x0141 (match tfind s.dp.regions index.toNat with
    | some r => (encodeRegion r).setWidth 192
    | none => 0) id s := by
  refine exec_answered m (cmd := cmdRegionGet index) rfl queues_all nofun nofun ?_
  simp only [cmdRegionGet, enterRow_dp]
  rfl
theorem exec_instStatus {i part : Byte} (hi : i.toNat ≤ 127) (hp : part.toNat ≤ 10) :
    exec (.instStatus h i part) s = answered h 0x0306 (instStatusImage s.dp i.toNat part.toNat) id s := by
  refine exec_answered m (cmd := cmdInstStatus i part) rfl queues_all nofun nofun ?_
  simp only [cmdInstStatus, enterRow_dp]
  exact if_neg (by omega)
theorem exec_fwInfo : exec (.fwInfo h) s = answered h 0x0A03 (fields [(0, 1, s.mg.running), (1, 1, bit s.mg.slotA.valid),
    (2, 1, bit s.mg.slotB.valid), (3, 1, s.mg.startSlot), (32, 32, s.mg.slotA.version.toNat),
    (64, 32, s.mg.slotB.version.toNat), (96, 32, 25165824)]) id s := by
  refine exec_answered m (cmd := cmdFwInfo) rfl queues_all nofun nofun ?_
  simp only [cmdFwInfo, enterRow_mg_running, enterRow_mg_slotA, enterRow_mg_slotB, enterRow_mg_startSlot]
  rfl
theorem exec_eccCountRead {tile kind index : Byte} {clear : Bool} (ht : tile.toNat ≤ 3) (hk : kind.toNat ≤ 2)
    (hi : kind ≠ 2 → index.toNat ≤ 15) (hc : clear = true → rightsOf h ≠ 3) :
    let c := countsOf s.dp tile.toNat kind.toNat index.toNat
    exec (.eccCountRead h tile kind index clear) s =
      answered h 0x0602 (fields [(0, 32, sat 32 c.1), (32, 32, sat 32 c.2.1), (64, 32, sat 32 c.2.2)])
        (fun t => if clear then onDp (zeroCounts tile.toNat kind.toNat index.toNat) t else t) s := by
  have hk2 : kind.toNat ≠ 2 → index.toNat ≤ 15 := fun hne => hi (fun e => hne (by rw [e]; rfl))
  have hb : (cmdEccCountRead tile kind index clear).body h (enterRow h s) =
      okay (fields [(0, 32, sat 32 (countsOf s.dp tile.toNat kind.toNat index.toNat).1),
        (32, 32, sat 32 (countsOf s.dp tile.toNat kind.toNat index.toNat).2.1),
        (64, 32, sat 32 (countsOf s.dp tile.toNat kind.toNat index.toNat).2.2)])
        (if clear then onDp (zeroCounts tile.toNat kind.toNat index.toNat) (enterRow h s) else enterRow h s) := by
    simp only [cmdEccCountRead, enterRow_dp]
    exact if_neg (by omega)
  obtain ⟨r, hlife, hin, hkey, hlock⟩ := id m
  cases clear with
  | false => exact exec_answered m (cmd := cmdEccCountRead tile kind index false) rfl queues_all nofun nofun (f := id) hb
  | true =>
    have hin012 : rightsOf h ∈ [0, 1, 2] := by simpa [hc rfl] using hin
    exact exec_answered (qs := [0, 1, 2]) ⟨r, hlife, hin012, hkey, hlock⟩ (cmd := cmdEccCountRead tile kind index true) rfl
      queues_q012 nofun nofun (f := onDp (zeroCounts tile.toNat kind.toNat index.toNat)) hb
theorem exec_marginLedgerRead {index : BitVec 16} (hi : index.toNat ≤ 4095) :
    exec (.marginLedgerRead h index) s = answered h 0x0702 (tget 0 s.kn.ledger index.toNat) id s := by
  refine exec_answered m (cmd := cmdMarginLedgerRead index) rfl queues_all nofun nofun ?_
  simp only [cmdMarginLedgerRead, enterRow_kn]
  exact if_neg (Nat.not_lt.2 hi)
theorem exec_saggerStatus : exec (.saggerStatus h) s =
    answered h 0x0B01 (if s.dp.variant = .ms ∧ s.mir.present = true then statusImage s.mir.sag else 0) id s := by
  refine exec_answered m (cmd := cmdSaggerStatus) rfl queues_all nofun nofun ?_
  simp only [cmdSaggerStatus, enterRow_dp, enterRow_mir]
  rfl
theorem exec_linkStatus {kind index : Byte} (hi : kind = 0 ∧ index.toNat ≤ 31 ∨ kind = 1 ∧ index.toNat ≤ 15) :
    exec (.linkStatus h kind index) s = answered h 0x0C02 (linkStatusImage s.dp kind.toNat index.toNat) id s := by
  refine exec_answered m (cmd := cmdLinkStatus kind index) rfl queues_all nofun nofun ?_
  simp only [cmdLinkStatus, enterRow_dp]
  refine if_neg ?_
  rcases hi with ⟨rfl, hi⟩ | ⟨rfl, hi⟩ <;> simp [Nat.not_lt.2 hi]
end Inquiries

/-- Settles O13: each inquiry is its body, which reads the state that its packet has entered. -/
theorem inquiriesAnswer : Obligations.InquiriesAnswer := fun _ _ m =>
  ⟨exec_devInfo m, exec_devStatus m, exec_funcModeGet m,
    fun index r hr => by rw [exec_regionGet m, hr], fun index hr => by rw [exec_regionGet m, hr],
    fun _ _ => exec_instStatus m, fun _ _ _ _ => exec_eccCountRead m, fun _ => exec_marginLedgerRead m, exec_fwInfo m,
    exec_saggerStatus m, fun _ _ => exec_linkStatus m⟩

end Sys2Proof.Machine
end

/-! PROOF. What the device and cache commands do when nothing refuses them (R31, R131 to R149, R310, R419, R421): each body, past its
refusals, is the answer that the statement names. -/
section
namespace Sys2Proof.Machine
open Sys2Proof

theorem mayGive.withKey {qs : List Nat} {h : Hdr} {s : State} (m : mayGive qs false h s) (hk : h.key = 0xB7E5) :
    mayGive qs true h s := by
  obtain ⟨r, hlife, hin, -, hlock⟩ := m
  exact ⟨r, hlife, hin, fun _ => hk, hlock⟩

/-! ### O14: device commands -/

section Device
variable {h : Hdr} {s : State} (m : mayGive [0, 1] false h s)
include m

theorem exec_funcModeSet_switch {func : Byte} {mode : Bool} (hf : func.toNat ≤ 11) (hb : modeBusy func.toNat s = false)
    (hne : hostMode s.dp func.toNat ≠ mode) : exec (.funcModeSet h func mode) s =
      answered h 0x0120 0 (fun t => switchMode func.toNat mode (onDp (setMode func.toNat mode) t)) s := by
  rw [exec_funcModeSet_free m hf hb, modeChanged, enterRow_dp, if_neg hne]
  rfl
theorem exec_funcModeSet_same {func : Byte} {mode : Bool} (hf : func.toNat ≤ 11) (hb : modeBusy func.toNat s = false)
    (he : hostMode s.dp func.toNat = mode) : exec (.funcModeSet h func mode) s = answered h 0x0120 0 id s := by
  rw [exec_funcModeSet_free m hf hb, modeChanged, enterRow_dp, if_pos he]
  rfl
theorem exec_regionSet {index : Byte} {entry : BitVec 128} (ok : regionBad (decodeRegion entry) = false)
    (owner : existsInst s.dp (decodeRegion entry).owner.toNat = true) : exec (.regionSet h index entry) s =
      answered h 0x0140 0 (onDp fun p => { p with regions := tset p.regions index.toNat (decodeRegion entry) }) s :=
  exec_answered m (cmd := cmdRegionSet index entry) rfl queues_q01 nofun nofun (by simp [cmdRegionSet, ok, owner])
theorem exec_devResetWarm (hk : h.key = 0xB7E5) (idle : powerRuns s.dp = false) (free : slotFree s) :
    exec (.devResetWarm h) s = accepted h 0x0110 (.warmReset false) beginWarm s :=
  exec_accepted (m.withKey hk) (cmd := cmdDevResetWarm) rfl queues_q01 (fun _ => rfl) nofun
    (by simp [cmdDevResetWarm, idle, startOp_of_slotFree free])
theorem exec_devPowerState {state : Byte} (idle : powerRuns s.dp = false) (free : slotFree s) (hs : state.toNat ≤ 3)
    (hdown : 2 ≤ state.toNat → alone s.dp = true) (hret : s.mg.life = .retain → state.toNat ≠ 2) :
    exec (.devPowerState h state) s = accepted h 0x0111 (.power state.toNat)
      (fun t => if s.mg.life = .retain ∨ state.toNat < 2 then t else onDp startDrain t) s := by
  refine exec_accepted m (cmd := cmdDevPowerState state) rfl queues_q01 nofun nofun ?_
  have refused : ¬((2 ≤ state.toNat ∧ alone s.dp = false) ∨ (s.mg.life = .retain ∧ state.toNat = 2)) := by
    rintro (⟨h2, ha⟩ | ⟨hr, h2⟩)
    · rw [hdown h2] at ha; exact nomatch ha
    · exact hret hr h2
  simp [cmdDevPowerState, idle, startOp_of_slotFree free, refused, Nat.not_lt.2 hs]
end Device

/-- Settles O14: the bodies of the four device commands past their refusals. -/
theorem deviceCommandsAct : Obligations.DeviceCommandsAct := by
  refine fun h s m => ⟨fun _ _ => exec_funcModeSet_switch m, fun _ _ => exec_funcModeSet_same m, fun _ _ => exec_regionSet m,
    fun idle free => ⟨fun hk => exec_devResetWarm m hk idle free, fun state hs hdown => ?_, fun hr ha => ?_⟩⟩
  · exact exec_devPowerState m idle free hs (fun h2 => (hdown h2).1) fun hr h2 => (hdown h2.ge).2 hr
  · rw [exec_devPowerState (state := 3) m idle free (by decide) (fun _ => ha) (fun _ => by decide)]
    simp only [hr, true_or, if_true]
    rfl

/-! ### O15: switching the cache -/

section Switch
variable {h : Hdr} {s : State} (m : mayGive [0, 1] false h s) (hmaint : maintRuns s.dp = false) (hdis : disableRuns s.dp = false)
include m hmaint hdis

theorem exec_cacheInvalidateAll (off : s.dp.cache.enabled = false) : exec (.cacheInvalidateAll h) s =
    answered h 0x0203 0 (onDp fun p => { p with
      ways := [], sramFlips := [], staleTags := [], cache := { p.cache with invDone := true, known := true } }) s :=
  exec_answered m (cmd := cmdCacheInvalidateAll) rfl queues_q01 nofun nofun (by simp [cmdCacheInvalidateAll, hmaint, hdis, off])
theorem exec_cacheEnable_on (on : s.dp.cache.enabled = true) : exec (.cacheEnable h) s = answered h 0x0201 0 id s :=
  exec_answered m (cmd := cmdCacheEnable) rfl queues_q01 nofun nofun (by simp [cmdCacheEnable, hmaint, hdis, on])
theorem exec_cacheEnable_done (off : s.dp.cache.enabled = false) (inv : s.dp.cache.invDone = true) : exec (.cacheEnable h) s =
    answered h 0x0201 0 (onDp fun p => { p with cache := { p.cache with enabled := true } }) s :=
  exec_answered m (cmd := cmdCacheEnable) rfl queues_q01 nofun nofun (by simp [cmdCacheEnable, hmaint, hdis, off, inv, onDp])
theorem exec_cacheEnable_early (off : s.dp.cache.enabled = false) (inv : s.dp.cache.invDone = false) :
    exec (.cacheEnable h) s = turnedAway h 0x0201 sNeedsInvalidate 0 s :=
  exec_turnedAway m (cmd := cmdCacheEnable) rfl queues_q01 nofun nofun (by simp [cmdCacheEnable, hmaint, hdis, off, inv, deny])
theorem exec_cacheDisable_off (off : s.dp.cache.enabled = false) : exec (.cacheDisable h) s = answered h 0x0202 0 id s :=
  exec_answered m (cmd := cmdCacheDisable) rfl queues_q01 nofun nofun (by simp [cmdCacheDisable, hmaint, hdis, off])
theorem exec_cacheDisable_hw (on : s.dp.cache.enabled = true) (hw : hostMode s.dp fmCache = false) (free : slotFree s) :
    exec (.cacheDisable h) s = accepted h 0x0202 .disable (onDp fun p => { p with cache := { p.cache with wtAll := true } }) s :=
  exec_accepted m (cmd := cmdCacheDisable) rfl queues_q01 nofun nofun
    (by simp [cmdCacheDisable, hmaint, hdis, on, hw, startOp_of_slotFree free])
theorem exec_cacheDisable_clean (on : s.dp.cache.enabled = true) (host : hostMode s.dp fmCache = true) (clean : dirtyLines s.dp = 0) :
    exec (.cacheDisable h) s = answered h 0x0202 0 (onDp disabled) s :=
  exec_answered m (cmd := cmdCacheDisable) rfl queues_q01 nofun nofun
    (by simp [cmdCacheDisable, hmaint, hdis, on, host, clean])
theorem exec_cacheDisable_dirty (on : s.dp.cache.enabled = true) (host : hostMode s.dp fmCache = true) (dirty : dirtyLines s.dp ≠ 0) :
    exec (.cacheDisable h) s = turnedAway h 0x0202 sDirtyPresent (fields [(0, 32, dirtyLines s.dp)]) s :=
  exec_turnedAway m (cmd := cmdCacheDisable) rfl queues_q01 nofun nofun
    (by simp [cmdCacheDisable, hmaint, hdis, on, host, dirty])
end Switch

/-- Settles O15: the bodies of the three switches of the cache past their refusals. -/
theorem cacheSwitchesAct : Obligations.CacheSwitchesAct := fun _ _ m hm hd =>
  ⟨fun off => ⟨exec_cacheInvalidateAll m hm hd off, exec_cacheEnable_done m hm hd off, exec_cacheEnable_early m hm hd off,
      exec_cacheDisable_off m hm hd off⟩,
    fun on => ⟨exec_cacheEnable_on m hm hd on, exec_cacheDisable_hw m hm hd on, exec_cacheDisable_clean m hm hd on,
      exec_cacheDisable_dirty m hm hd on⟩⟩

/-! ### O16: walks of the cache -/

section Walks
variable {h : Hdr} {s : State} (free : slotFree s) (hdis : disableRuns s.dp = false)

/-- A walk of a disabled cache has nothing to act on. -/
def skipOff (s t : State) : State := if s.dp.cache.enabled then t else onDp (skipAll s.dp.nextOp) t

include free in
theorem startWalk_of_slotFree {opcode : Nat} {w : Work} :
    startWalk h opcode w (enterRow h s) = acceptOp h opcode w (skipOff s) (enterRow h s) := by
  rw [startWalk, startOp_of_slotFree free, enterRow_dp]
  rfl

include free hdis

theorem exec_cacheCleanAll (m : mayGive [0, 1, 2] false h s) :
    exec (.cacheCleanAll h) s = accepted h 0x0204 .cleanAll (skipOff s) s :=
  exec_accepted m (cmd := cmdCacheCleanAll) rfl queues_q012 nofun nofun (by simp [cmdCacheCleanAll, hdis, startWalk_of_slotFree free])
/-- The three range commands differ in their opcode and their work. -/
theorem exec_range (m : mayGive [0, 1, 2] false h s) {c : Instr} {opcode : Nat} {w : Nat → Nat → Work} {base : Spa} {lines : BitVec 34}
    (e : commandOf c = some (h, cmdRange opcode w base lines)) (ok : rangeBad s.dp base lines = false) :
    exec c s = accepted h opcode (w (spaLine base) lines.toNat) (skipOff s) s :=
  exec_accepted m e queues_q012 nofun nofun (by simp [cmdRange, ok, hdis, startWalk_of_slotFree free])
theorem exec_wayRetire (m : mayGive [0, 1, 2] false h s) {tile slc way : Byte} (ht : tile.toNat ≤ 3) (hs : slc.toNat ≤ 15)
    (hw : way.toNat ≤ 23) (hret : (slice s.dp (16 * tile.toNat + slc.toNat)).retired.getLsbD way.toNat = false)
    (room : countBits ((slice s.dp (16 * tile.toNat + slc.toNat)).retired |||
      (slice s.dp (16 * tile.toNat + slc.toNat)).retiring) 24 < 8 ∨
      (slice s.dp (16 * tile.toNat + slc.toNat)).retiring.getLsbD way.toNat = true) :
    exec (.wayRetire h tile slc way false) s = accepted h 0x0228 (.retire tile.toNat slc.toNat way.toNat)
      (onDp (beginRetire (16 * tile.toNat + slc.toNat) way.toNat)) s := by
  refine exec_accepted m (cmd := cmdWayRetire tile slc way false) rfl queues_q012 nofun nofun ?_
  have full : ¬(8 ≤ countBits ((slice s.dp (16 * tile.toNat + slc.toNat)).retired |||
      (slice s.dp (16 * tile.toNat + slc.toNat)).retiring) 24 ∧
      (slice s.dp (16 * tile.toNat + slc.toNat)).retiring.getLsbD way.toNat = false) := by
    rintro ⟨h8, hr⟩
    rcases room with h | h
    · omega
    · rw [hr] at h; exact nomatch h
  simp [cmdWayRetire, Nat.not_lt.2 ht, Nat.not_lt.2 hs, Nat.not_lt.2 hw, hret, hdis, startOp_of_slotFree free, full]
theorem exec_wayLock (m : mayGive [0, 1] false h s) {i : Byte} {ways : BitVec 24} {slices : BitVec 64} (hi : i.toNat ≤ 127)
    (hw : ways ≠ 0) (hs : slices ≠ 0) (ex : existsInst s.dp i.toNat = true) (ok : lockBad s.dp i.toNat slices ways = false)
    (room : lockFull s.dp slices ways = false) : exec (.wayLock h i ways slices) s =
      accepted h 0x0220 (.wayLock i.toNat (freshWays slices ways s.dp))
        (fun t => skipOff s (onDp (lockWays i.toNat slices ways) t)) s := by
  refine exec_accepted m (cmd := cmdWayLock i ways slices) rfl queues_q01 nofun nofun ?_
  have hw' : ¬ways = 0#24 := hw
  have hs' : ¬slices = 0#64 := hs
  simp [cmdWayLock, Nat.not_lt.2 hi, hw', hs', ex, ok, room, hdis, startOp_of_slotFree free, skipOff]
theorem exec_linePin (m : mayGive [0, 1] false h s) {i : Byte} {unpin : Bool} {lines : BitVec 32} {base : Spa} (hi : i.toNat ≤ 127)
    (h0 : 0 < lines.toNat) (hmax : lines.toNat ≤ 65536) (hb : base.extractLsb' 0 6 = 0)
    (hp : allPattern s.dp i.toNat base lines.toNat 1 = true) (ex : existsInst s.dp i.toNat = true) (on : s.dp.cache.enabled = true) :
    exec (.linePin h i unpin lines base) s = accepted h 0x0222 (.pin i.toNat (spaLine base) lines.toNat unpin) id s := by
  refine exec_accepted m (cmd := cmdLinePin i unpin lines base) rfl queues_q01 nofun nofun ?_
  have hl : ¬lines = 0#32 := by rintro rfl; exact absurd h0 (by decide)
  have hb' : base.extractLsb' 0 6 = 0#6 := hb
  simp [cmdLinePin, Nat.not_lt.2 hi, hl, Nat.not_lt.2 hmax, hb', hp, ex, on, hdis, startOp_of_slotFree free]
end Walks

/-- Settles O16: the bodies of the walks past their refusals; all take their slot through `startOp`. -/
theorem cacheWalksAreAccepted : Obligations.CacheWalksAreAccepted := by
  intro h s free hd
  refine ⟨fun m => ⟨exec_cacheCleanAll free hd m, fun base lines ok => ⟨?_, fun lockedOk => ?_, ?_⟩, fun _ _ _ => exec_wayRetire free hd m⟩,
    fun m => ⟨fun _ _ _ => exec_wayLock free hd m, fun _ _ _ _ => exec_linePin free hd m⟩⟩
  · exact exec_range free hd m (w := fun b n => .clean b n) (c := .cacheCleanRange h base lines) rfl ok
  · exact exec_range free hd m (w := fun b n => .inval b n lockedOk) (c := .cacheInvalRange h lockedOk base lines) rfl ok
  · exact exec_range free hd m (w := fun b n => .clinv b n) (c := .cacheClinvRange h base lines) rfl ok

end Sys2Proof.Machine
end

/-! PROOF. A command that reaches a line holds it at once where no transaction has it, and waits in its conflict queue where it is busy
(R93, R142); and the commands on ways and descriptors that end at once (R132, R135, R140, R149). -/
section
namespace Sys2Proof.Machine
open Sys2Proof

/-! ### The line of a command -/

theorem find?_insertAhead_new {ahead f : Job → Bool} {j : Job} {l : List Job} (hj : f j = true) (hl : l.find? f = none) :
    (insertAhead ahead j l).find? f = some j := by
  induction l with
  | nil => simp [insertAhead, hj]
  | cons x l ih =>
    rw [List.find?_cons] at hl
    cases hx : f x with
    | true => rw [hx] at hl; exact nomatch hl
    | false =>
      rw [hx] at hl
      unfold insertAhead
      split
      · simp [hj]
      · rw [List.find?_cons, hx]; exact ih hl

theorem holdsLine_of_found {p : Plane} {id : Nat} {j : Job} (h : job? p id = some j) :
    holdsLine p id = (j.phase == .running && !j.done) := by
  unfold holdsLine; rw [h]

section Reach
variable {j : Job} {w : Intern} {p : Plane} (hk : j.kind = .intern w)
include hk

/-- An internal operation on a busy line joins its conflict queue. -/
theorem reachLine_of_busy (hb : busy p j.line = true) : reachLine j p = enqueueJob j p := by
  unfold reachLine
  simp only [hk, Bool.false_and, Bool.false_eq_true, if_false]
  exact if_pos (by simp [canStart, hb])

/-- An internal operation on a line that no transaction has starts at once. -/
theorem reachLine_of_free (hf : ∀ x ∈ p.jobs, x.line ≠ j.line) :
    reachLine j p = startIntern j w { p with jobs := p.jobs ++ [{ j with phase := .queued }] } := by
  have notBusy : busy p j.line = false := by
    simp only [busy, busyBut, List.any_eq_false]
    exact fun x hx => by simp [hf x hx]
  have first : (p.jobs.any fun x => x.line == j.line && (x.phase == .queued || x.phase == .setq) && !holdBlocks p x) = false := by
    simp only [List.any_eq_false]
    exact fun x hx => by simp [hf x hx]
  have may : canStart j p = true := by simp [canStart, notBusy, holdBlocks, hk]
  unfold reachLine
  simp only [hk, Bool.false_and, Bool.false_eq_true, if_false, first, may, Bool.not_true, Bool.or_self]
  unfold startJob
  simp only [hk]

/-- An operation that waits does not hold its line. -/
theorem holdsLine_enqueueJob (new : job? p j.id = none) : holdsLine (enqueueJob j p) j.id = false := by
  have found : ∃ ahead, job? (enqueueJob j p) j.id = (insertAhead ahead { j with phase := .queued } p.jobs).find? (·.id == j.id) := by
    unfold enqueueJob
    simp only [hk]
    exact ⟨_, rfl⟩
  obtain ⟨ahead, found⟩ := found
  have queued := find?_insertAhead_new (ahead := ahead) (f := fun x => x.id == j.id) (j := { j with phase := .queued })
    (beq_self_eq_true j.id) new
  exact (holdsLine_of_found (found.trans queued)).trans rfl
end Reach

/-- What is set under a new number is found there. -/
theorem job?_setJob_new {j k : Job} {p : Plane} (new : job? p j.id = none) (hk : k.id = j.id) :
    job? (setJob { p with jobs := p.jobs ++ [k] } j) j.id = some j := by
  have old : ∀ x ∈ p.jobs, (x.id == j.id) = false := fun x hx => by simpa using List.find?_eq_none.1 new x hx
  have kept : (p.jobs.map fun x => if x.id == j.id then j else x) = p.jobs := by
    rw [List.map_congr_left (g := id) fun x hx => by simp [old x hx], List.map_id]
  unfold job? at new
  simp only [job?, setJob, List.map_append, kept, List.find?_append, new, List.map_cons, hk, beq_self_eq_true, if_true,
    List.map_nil, List.find?_cons, Option.none_or]

/-- The plane with its next operation number taken. -/
def numbered (p : Plane) : Plane := { p with nextJob := p.nextJob + 1 }
/-- The internal operation with which a command reaches its line. -/
def commandJob (line : Nat) (p : Plane) : Job :=
  { id := p.nextJob, kind := .intern .command, line := line, who := { inst := 0 }, t0 := p.clock }
theorem reachIntern_commandJob (line : Nat) (p : Plane) :
    reachIntern .command line 0 p = reachLine (commandJob line p) (numbered p) := rfl

/-- On a busy line the operation of a command waits. -/
theorem holdsLine_of_busy {line : Nat} {p : Plane} (hb : busy p line = true) (new : job? p p.nextJob = none) :
    holdsLine (reachIntern .command line 0 p) p.nextJob = false := by
  rw [reachIntern_commandJob, reachLine_of_busy (j := commandJob line p) (p := numbered p) rfl hb]
  exact holdsLine_enqueueJob (j := commandJob line p) (p := numbered p) rfl new

/-- The operation of a command holds a line that no transaction has. -/
theorem holdsLine_of_free {line : Nat} {p : Plane} (hf : ∀ j ∈ p.jobs, j.line ≠ line) (new : job? p p.nextJob = none) :
    holdsLine (reachIntern .command line 0 p) p.nextJob = true := by
  rw [reachIntern_commandJob, reachLine_of_free (j := commandJob line p) (p := numbered p) rfl hf]
  have found := job?_setJob_new (j := { commandJob line p with phase := .running, t0 := p.clock })
    (k := { commandJob line p with phase := .queued }) (p := numbered p) new rfl
  exact (holdsLine_of_found found).trans rfl

/-! ### CACHE_SETWAY_OP -/

section Setway
variable {h : Hdr} {s : State} {tile slc way : Byte} {set : BitVec 16} (ht : tile.toNat ≤ 3) (hs : slc.toNat ≤ 15)
  (hset : set.toNat ≤ 4095) (hw : way.toNat ≤ 23)
include ht hs hset hw

theorem exec_setway_readTag (m : mayGive [0, 1, 2, 3] false h s) (ok : Bool) : let n := 16 * tile.toNat + slc.toNat
    exec (.cacheSetwayOp h tile slc set way 3 ok) s =
      answered h 0x0218 (fields [(0, 40, (tagRead (readTag n set.toNat way.toNat s.dp) n set.toNat way.toNat).toNat),
        (40, 2, bit (lockOwner s.dp n way.toNat).isSome + 2 * bit (isRetired s.dp n way.toNat))])
        (onDp fun p => draw1 (readTag n set.toNat way.toNat p)) s := by
  refine exec_answered m (cmd := cmdSetway tile slc set way 3 ok) rfl queues_all nofun nofun ?_
  simp only [cmdSetway, enterRow_dp, onDp_dp, if_true]
  exact if_neg (by simp; omega)

/-- What CLEAN, INVAL and CLINV ask of the line of their way. -/
def setwayHeld (h : Hdr) (n : Nat) (set : BitVec 16) (way op : Byte) (ok : Bool) : HeldCmd :=
  { queue := h.queue, seq := h.seq, opcode := 0x0218, job := 0, replyOk := h.replyOk,
    work := .setway n set.toNat way.toNat op.toNat ok }

/-- CLEAN, INVAL and CLINV try for the line of their way. -/
theorem exec_setway_try (m : mayGive [0, 1, 2] false h s) {op : Byte} (hop : op.toNat < 3) (ok : Bool) :
    let n := 16 * tile.toNat + slc.toNat
    exec (.cacheSetwayOp h tile slc set way op ok) s = .next (conclude h 0x0218
      (setwayTry (setwayHeld h n set way op ok) n set.toNat way.toNat op.toNat ok (enterRow h s))) := by
  have h3 : op ≠ 3 := by rintro rfl; exact absurd hop (by decide)
  have hq : (cmdSetway tile slc set way op ok).queues = q012 := if_neg h3
  have hb : (cmdSetway tile slc set way op ok).body h (enterRow h s) = setwayTry
      (setwayHeld h (16 * tile.toNat + slc.toNat) set way op ok) (16 * tile.toNat + slc.toNat) set.toNat way.toNat op.toNat ok
      (enterRow h s) := by
    simp only [cmdSetway, if_neg h3]
    exact if_neg (by omega)
  rw [exec_given _ h (cmdSetway tile slc set way op ok) s m rfl (by rw [hq]; exact queues_q012) nofun nofun, hb]
  rfl
end Setway

section SetwayTry
variable {h : Hdr} {n : Nat} {set : BitVec 16} {way op : Byte} {ok : Bool} {s : State}

theorem setwayLine_none (hn : s.dp.cache.enabled = false ∨ isRetired s.dp n way.toNat = true ∨
    tfind s.dp.ways (wayKey n set.toNat way.toNat) = none) : setwayLine s.dp n set.toNat way.toNat = none := by
  unfold setwayLine
  split
  · rfl
  next hne =>
    rcases hn with hn | hn | hn
    · exact absurd (.inl hn) hne
    · exact absurd (.inr hn) hne
    · rw [hn]; rfl
theorem setwayLine_some {l : WayLine} (on : s.dp.cache.enabled = true) (hr : isRetired s.dp n way.toNat = false)
    (hl : tfind s.dp.ways (wayKey n set.toNat way.toNat) = some l) :
    setwayLine s.dp n set.toNat way.toNat = some (wayLineNo n set.toNat l) := by
  unfold setwayLine
  rw [if_neg (by simp [on, hr]), hl]
  rfl

/-- A way without a line is done at once; a packet starts with no command held (R301). -/
theorem setwayTry_empty {c : HeldCmd} (held : s.mg.held = none) (hn : setwayLine s.dp n set.toNat way.toNat = none) :
    setwayTry c n set.toNat way.toNat op.toNat ok (enterRow h s) = okay 0 (enterRow h s) := by
  have same : { (enterRow h s).mg with held := none } = (enterRow h s).mg := by
    rw [← held, ← enterRow_mg_held h s]
  have line : setwayLine (enterRow h s).dp n set.toNat way.toNat = none := by rw [enterRow_dp, hn]
  unfold setwayTry
  simp only [line, same]
theorem setwayTry_line {c : HeldCmd} {line : Nat} (hl : setwayLine s.dp n set.toNat way.toNat = some line) :
    setwayTry c n set.toNat way.toNat op.toNat ok (enterRow h s) =
      let t := onDp (reachIntern .command line 0) (enterRow h s)
      if holdsLine (reachIntern .command line 0 s.dp) s.dp.nextJob then setwayAct s.dp.nextJob n set.toNat way.toNat op.toNat ok t
      else waits { c with job := s.dp.nextJob } t := by
  unfold setwayTry
  rw [enterRow_dp, hl]
  simp only [onDp_dp, enterRow_dp]
end SetwayTry

theorem held_of_rowReady {h : Hdr} {s : State} (r : rowReady h s = true) : s.mg.held = none := by
  simp only [rowReady, mayStart, Bool.and_eq_true, Option.isNone_iff_eq_none] at r
  exact r.1.1.2

section Ways
variable {h : Hdr} {s : State}

theorem exec_wayUnlock (m : mayGive [0, 1] false h s) {i : Byte} {ways : BitVec 24} {slices : BitVec 64} (hi : i.toNat ≤ 127)
    (own : ((slicesOf slices).any fun n => (waysOf ways).any fun w => lockOwner s.dp n w != some i.toNat) = false) :
    exec (.wayUnlock h i ways slices) s = answered h 0x0221 0 (onDp (unlockWays i.toNat slices ways)) s := by
  refine exec_answered m (cmd := cmdWayUnlock i ways slices) rfl queues_q01 nofun nofun ?_
  simp only [cmdWayUnlock, enterRow_dp, own]
  exact if_neg (by simp; omega)
theorem exec_replayDescSet (m : mayGive [0, 1] false h s) {desc : Byte} {d : BitVec 256}
    (ok : (decodeReplay d).valid = true → (decodeReplay d).count ≠ 0 ∧ (decodeReplay d).stride ≠ 0 ∧ (decodeReplay d).lead ≠ 0 ∧
      allPattern s.dp (decodeReplay d).inst.toNat (decodeReplay d).start (decodeReplay d).count.toNat
        (decodeReplay d).stride.toNat = true ∧ existsInst s.dp (decodeReplay d).inst.toNat = true) :
    exec (.replayDescSet h desc d) s =
      answered h 0x0230 0 (onDp fun p => { p with descs := tset p.descs desc.toNat { d := decodeReplay d } }) s := by
  refine exec_answered m (cmd := cmdReplayDescSet desc d) rfl queues_q01 nofun nofun ?_
  simp only [cmdReplayDescSet, enterRow_dp]
  rw [if_neg, if_neg]
  · rintro ⟨hv, hne⟩
    obtain ⟨-, -, -, -, ex⟩ := ok hv
    rw [ex] at hne; exact nomatch hne
  · rintro ⟨hv, hbad⟩
    obtain ⟨hc, hst, hl, hp, -⟩ := ok hv
    rcases hbad with e | e | e | e
    · exact hc e
    · exact hst e
    · exact hl e
    · rw [hp] at e; exact nomatch e
theorem exec_wayRetire_restore (m : mayGive [0] true h s) {tile slc way : Byte} (ht : tile.toNat ≤ 3) (hs : slc.toNat ≤ 15)
    (hw : way.toNat ≤ 23) : exec (.wayRetire h tile slc way true) s =
      answered h 0x0228 0 (onDp (restoreWay (16 * tile.toNat + slc.toNat) way.toNat)) s :=
  exec_answered m (cmd := cmdWayRetire tile slc way true) rfl queues_q0 (fun _ => rfl) nofun
    (by simp [cmdWayRetire, Nat.not_lt.2 ht, Nat.not_lt.2 hs, Nat.not_lt.2 hw])
end Ways

/-- Settles O17: CACHE_SETWAY_OP tries for its line, and holds it where no transaction does; the others end at once. -/
theorem cacheTableCommandsAct : Obligations.CacheTableCommandsAct := by
  intro h s
  refine ⟨fun tile slc set way ok ht hs hset hw => ⟨fun m => exec_setway_readTag ht hs hset hw m ok, fun m op hop => ⟨fun hn => ?_,
      fun l on hr hl new => ⟨fun hb => ?_, fun hf => ?_⟩⟩⟩,
    fun m => ⟨fun _ _ _ => exec_wayUnlock m, fun _ _ => exec_replayDescSet m⟩, fun m _ _ _ => exec_wayRetire_restore m⟩
  · obtain ⟨r, -⟩ := id m
    rw [exec_setway_try ht hs hset hw m hop ok, setwayTry_empty (held_of_rowReady r) (setwayLine_none hn)]
    rfl
  · rw [exec_setway_try ht hs hset hw m hop ok, setwayTry_line (setwayLine_some on hr hl)]
    simp only [holdsLine_of_busy hb new, Bool.false_eq_true, if_false]
    rfl
  · rw [exec_setway_try ht hs hset hw m hop ok, setwayTry_line (setwayLine_some on hr hl)]
    simp only [holdsLine_of_free hf new, if_true]
    rfl

end Sys2Proof.Machine
end

/-! PROOF. What the instance and join commands do when nothing refuses them (R37, R38, R241, R253, R260 to R287). -/
section
namespace Sys2Proof.Machine
open Sys2Proof

/-! ### O18: instance commands -/

section Instance
variable {h : Hdr} {s : State} (m : mayGive [0, 1] false h s) {i : Byte} (hi : i.toNat ≤ 127)
include m hi

theorem exec_instCreate (h0 : i.toNat ≠ 0) {share : BitVec 32} {mem : BitVec 256} (hx : (inst s.dp i.toNat).state = .free)
    (ok : shareBad (decodeShare share) = false) (hb : allBound s.dp mem 0 = true) : exec (.instCreate h i 0 share mem) s =
      answered h 0x0301 0 (onDp fun p => bindAll i.toNat mem (setInst p i.toNat { inst s.dp i.toNat with
        state := .active, share := decodeShare share })) s := by
  refine exec_answered m (cmd := cmdInstCreate i 0 share mem) rfl queues_q01 nofun nofun ?_
  simp [cmdInstCreate, h0, Nat.not_lt.2 hi, ok, hx, hb]
theorem exec_instCreate_add (h0 : i.toNat ≠ 0) {share : BitVec 32} {mem : BitVec 256} (hx : (inst s.dp i.toNat).state = .active)
    (hm : mem ≠ 0) (hb : allBound s.dp mem 0 = true) : exec (.instCreate h i 1 share mem) s =
      answered h 0x0301 0 (onDp (bindAll i.toNat mem)) s := by
  refine exec_answered m (cmd := cmdInstCreate i 1 share mem) rfl queues_q01 nofun nofun ?_
  have hm' : ¬mem = 0#256 := hm
  simp [cmdInstCreate, h0, Nat.not_lt.2 hi, hm', hx, hb]
theorem exec_instCreate_remove (h0 : i.toNat ≠ 0) {share : BitVec 32} {mem : BitVec 256} (hx : (inst s.dp i.toNat).state = .active)
    (hm : mem ≠ 0) (hb : allBound s.dp mem i.toNat = true) : exec (.instCreate h i 2 share mem) s =
      answered h 0x0301 0 (onDp (bindAll 0 mem)) s := by
  refine exec_answered m (cmd := cmdInstCreate i 2 share mem) rfl queues_q01 nofun nofun ?_
  have hm' : ¬mem = 0#256 := hm
  simp [cmdInstCreate, h0, Nat.not_lt.2 hi, hm', hx, hb]
theorem exec_instDestroy (h0 : i.toNat ≠ 0) (hx : (inst s.dp i.toNat).state = .active)
    (hwin : (s.dp.windows.any fun y => y.1 / 64 == i.toNat) = false)
    (hreg : (s.dp.regions.any fun y => y.2.owner.toNat == i.toNat) = false) (free : slotFree s) :
    exec (.instDestroy h i) s = accepted h 0x0302 (.destroy i.toNat)
      (fun t => endNow (isShare i.toNat) sAborted (onDp (destroyStop i.toNat) t)) s := by
  refine exec_accepted m (cmd := cmdInstDestroy i) rfl queues_q01 nofun nofun ?_
  simp only [cmdInstDestroy, enterRow_dp, hx, hwin, hreg, startOp_of_slotFree free]
  rw [if_neg (by omega), if_neg (by simp)]
theorem exec_instReset_hw {us : BitVec 16} (hus : us.toNat ≤ 10000) (hw : hostMode s.dp fmInst = false)
    (hx : (inst s.dp i.toNat).state = .active) (free : slotFree s) :
    exec (.instReset h i 0 us) s = accepted h 0x0303 (.instReset i.toNat) (onDp (stopInst i.toNat .resetting)) s := by
  refine exec_accepted m (cmd := cmdInstReset i 0 us) rfl queues_q01 nofun nofun ?_
  simp [cmdInstReset, Nat.not_lt.2 hi, Nat.not_lt.2 hus, hw, hx, startOp_of_slotFree free]
theorem exec_instReset_stop {us : BitVec 16} (hus : us.toNat ≤ 10000) (host : hostMode s.dp fmInst = true)
    (hx : (inst s.dp i.toNat).state = .active) :
    exec (.instReset h i 1 us) s = answered h 0x0303 0 (onDp (stopInst i.toNat .resetting)) s := by
  refine exec_answered m (cmd := cmdInstReset i 1 us) rfl queues_q01 nofun nofun ?_
  simp [cmdInstReset, Nat.not_lt.2 hi, Nat.not_lt.2 hus, host, hx]
theorem exec_instReset_squash {us : BitVec 16} (hus : us.toNat ≤ 10000) (host : hostMode s.dp fmInst = true)
    (hx : (inst s.dp i.toNat).state = .resetting) (hstop : (inst s.dp i.toNat).stopped = true) (free : slotFree s) :
    exec (.instReset h i 2 us) s = accepted h 0x0303 (.instReset i.toNat) (onDp (Machine.squash i.toNat)) s := by
  refine exec_accepted m (cmd := cmdInstReset i 2 us) rfl queues_q01 nofun nofun ?_
  simp [cmdInstReset, Nat.not_lt.2 hi, Nat.not_lt.2 hus, host, hx, hstop, startOp_of_slotFree free]
theorem exec_instShareSet {share : BitVec 32} (ok : shareBad (decodeShare share) = false)
    (hx : (inst s.dp i.toNat).state = .active ∨ (inst s.dp i.toNat).state = .resetting) (free : slotFree s) :
    exec (.instShareSet h i share) s = .next (replyTo h.queue h.replyOk 0x0304 sAccepted h.seq 0 (settled (onDp
      (fun p => setInst p i.toNat { inst p i.toNat with staged := some (decodeShare share, p.clock) })
      (onDp (newOp h.queue h.seq 0x0304 (.share i.toNat)) (endNow (isShare i.toNat) sAborted (enterRow h s)))))) := by
  have room : ¬64 ≤ slotsHeld s.dp := Nat.not_le.2 free
  have ready : ¬((inst s.dp i.toNat).state = .free ∨ (inst s.dp i.toNat).state = .destroying) := by
    rcases hx with e | e <;> simp [e]
  have hb : (cmdInstShareSet i share).body h (enterRow h s) = acceptOp h 0x0304 (.share i.toNat)
      (onDp fun p => setInst p i.toNat { inst p i.toNat with staged := some (decodeShare share, p.clock) })
      (endNow (isShare i.toNat) sAborted (enterRow h s)) := by
    simp only [cmdInstShareSet, enterRow_dp]
    rw [if_neg (by simp [ok, hi]), if_neg ready, if_neg room]
  rw [exec_given _ h (cmdInstShareSet i share) s m rfl queues_q01 nofun nofun, hb]
  rfl

section Window
variable {window : Byte} {entry : BitVec 256} (hk : window.toNat ≤ 63) (ex : existsInst s.dp i.toNat = true)
  (hle : (decodeWindow entry).base ≤ (decodeWindow entry).limit) (hwrap : windowWraps (decodeWindow entry) = false)
include hk ex hle hwrap

theorem exec_instWindowSet_remove (hv : (decodeWindow entry).valid = false) : exec (.instWindowSet h i window entry) s =
    answered h 0x0305 0 (onDp fun p => { p with windows := tdel p.windows (64 * i.toNat + window.toNat) }) s := by
  refine exec_answered m (cmd := cmdInstWindowSet i window entry) rfl queues_q01 nofun nofun ?_
  simp only [cmdInstWindowSet, enterRow_dp, hv, ex, hwrap]
  rw [if_neg (by simp [hi, hk, BitVec.not_lt.2 hle]), if_neg nofun, if_neg (by simp)]
  rfl
theorem exec_instWindowSet_write (hv : (decodeWindow entry).valid = true)
    (free : windowOverlaps s.dp i.toNat window.toNat (decodeWindow entry) = false)
    (room : s.dp.windows.length < 2048 ∨ (tfind s.dp.windows (64 * i.toNat + window.toNat)).isSome = true) :
    exec (.instWindowSet h i window entry) s = answered h 0x0305 0 (onDp fun p => { p with
      windows := tset p.windows (64 * i.toNat + window.toNat) (decodeWindow entry) }) s := by
  refine exec_answered m (cmd := cmdInstWindowSet i window entry) rfl queues_q01 nofun nofun ?_
  have full : ¬(2048 ≤ s.dp.windows.length ∧ (tfind s.dp.windows (64 * i.toNat + window.toNat)).isNone = true) := by
    rintro ⟨hlen, hnone⟩
    rcases room with hr | hr
    · omega
    · rw [Option.isNone_iff_eq_none.1 hnone] at hr; exact nomatch hr
  simp only [cmdInstWindowSet, enterRow_dp, hv, ex, hwrap, free]
  rw [if_neg (by simp [hi, hk, BitVec.not_lt.2 hle]), if_neg nofun, if_neg (fun hc => full hc.2)]
  rfl
end Window
end Instance

/-- Settles O18: the bodies of the five instance commands past their refusals. -/
theorem instanceCommandsAct : Obligations.InstanceCommandsAct := fun _ _ m _ hi =>
  ⟨fun h0 => ⟨fun _ _ => exec_instCreate m hi h0, fun _ _ => exec_instCreate_add m hi h0,
      fun _ _ => exec_instCreate_remove m hi h0, exec_instDestroy m hi h0⟩,
    fun _ hus => ⟨exec_instReset_hw m hi hus, exec_instReset_stop m hi hus, exec_instReset_squash m hi hus⟩,
    fun _ => exec_instShareSet m hi,
    fun _ _ hk ex hle hwrap => ⟨exec_instWindowSet_remove m hi hk ex hle hwrap, exec_instWindowSet_write m hi hk ex hle hwrap⟩⟩

/-! ### O19: join commands -/

section Join
variable {h : Hdr} {s : State} (m : mayGive [0, 1] false h s)
include m

theorem exec_joinNodeIdSet {node : BitVec 16} (hn : node.toNat ≤ 16383) (hdown : (s.dp.links.any fun x => x.2.state != .down) = false)
    (off : s.dp.cache.enabled = false) (hdir : s.dp.dir = []) :
    exec (.joinNodeIdSet h node) s = answered h 0x0401 0 (onDp fun p => { p with dw := { p.dw with
      node := node.toNat, cur := aloneMap node.toNat, curEp := 0, prev := aloneMap node.toNat, prevEp := 0, leaveDone := 0,
      stopOut := false } }) s := by
  refine exec_answered m (cmd := cmdJoinNodeIdSet node) rfl queues_q01 nofun nofun ?_
  simp only [cmdJoinNodeIdSet, enterRow_dp, hdown, off, hdir]
  rw [if_neg (Nat.not_lt.2 hn), if_neg (by simp)]
theorem exec_joinLinkUp {lnk : Byte} {expect : Bool} {peer : BitVec 14} (hl : lnk.toNat ≤ 15) (on : linkOff s lnk.toNat = false)
    (idle : (running s.dp fun w => w == .linkUp lnk.toNat) = false) (free : slotFree s) :
    exec (.joinLinkUp h lnk expect peer) s =
      accepted h 0x0402 (.linkUp lnk.toNat) (onDp (bringUp lnk.toNat (if expect then some peer.toNat else none))) s := by
  refine exec_accepted m (cmd := cmdJoinLinkUp lnk expect peer) rfl queues_q01 nofun nofun ?_
  have on' : linkOff (enterRow h s) lnk.toNat = false := by rw [linkOff, enterRow_kn]; exact on
  simp only [cmdJoinLinkUp, enterRow_dp, on', idle, startOp_of_slotFree free]
  rw [if_neg (Nat.not_lt.2 hl), if_neg (by simp)]
theorem exec_joinRouteSet {lnk : Byte} {first count : BitVec 16} {entry : BitVec 64} {dl : Bool} (hc : count.toNat ≠ 0)
    (hend : first.toNat + count.toNat ≤ 16384) : exec (.joinRouteSet h false lnk first count entry dl) s =
      answered h 0x0403 0 (onDp (putRoutes first.toNat count.toNat (entry.setWidth 32))) s := by
  refine exec_answered m (cmd := cmdJoinRouteSet false lnk first count entry dl) rfl queues_q01 nofun nofun ?_
  simp only [cmdJoinRouteSet, Bool.false_eq_true, if_false]
  exact if_neg (by omega)
theorem exec_joinRouteSet_multi {lnk : Byte} {first count : BitVec 16} {entry : BitVec 64} {dl : Bool} (hl : lnk.toNat ≤ 15)
    (hf : first.toNat ≤ 16383) (hc : count = 1) : exec (.joinRouteSet h true lnk first count entry dl) s =
      answered h 0x0403 0 (onDp fun p => { p with
        dw := { p.dw with mcast := tput 0 p.dw.mcast (mcastKey first.toNat lnk.toNat) (BitVec.ofBool dl ++ entry) } }) s := by
  subst hc
  refine exec_answered m (cmd := cmdJoinRouteSet true lnk first 1 entry dl) rfl queues_q01 nofun nofun ?_
  simp only [cmdJoinRouteSet, if_true]
  exact if_neg (by simp; omega)
theorem exec_mapEpochPrepare {epoch : BitVec 16} {chunk : Byte} {vector : BitVec 256} (hc : chunk.toNat ≤ 63)
    (hcur : epoch.toNat ≠ s.dp.dw.curEp) (hpend : ∀ x, s.dp.dw.pend = some x → x.2.1 ≠ epoch.toNat) :
    exec (.mapEpochPrepare h epoch chunk vector) s = answered h 0x0404 0 (onDp fun p => { p with
      dw := { p.dw with prep := prepare epoch.toNat chunk.toNat vector p.dw.prep } }) s := by
  refine exec_answered m (cmd := cmdMapEpochPrepare epoch chunk vector) rfl queues_q01 nofun nofun ?_
  simp only [cmdMapEpochPrepare, enterRow_dp]
  refine if_neg ?_
  rintro (h63 | hsame | hp)
  · omega
  · exact hcur hsame
  · split at hp
    next x e => exact hpend x e (by simpa using hp)
    next => exact nomatch hp
theorem exec_mapEpochCommit {epoch : BitVec 16} {at_ : BitVec 64} (hv : s.dp.dw.prep.valid = true)
    (he : s.dp.dw.prep.epoch = epoch.toNat) (hseen : s.dp.dw.prep.seen = BitVec.allOnes 64)
    (homits : omits s.dp (mapOf s.dp.dw.prep) = false) (hpend : s.dp.dw.pend = none) (hat : s.dp.epoch < at_.toNat)
    (free : slotFree s) : exec (.mapEpochCommit h epoch at_) s = accepted h 0x0405 .commit (onDp fun p => { p with
      dw := { p.dw with pend := some (at_.toNat, epoch.toNat, mapOf s.dp.dw.prep),
                        prep := { p.dw.prep with valid := false, chunks := [], seen := 0 } } }) s := by
  refine exec_accepted m (cmd := cmdMapEpochCommit epoch at_) rfl queues_q01 nofun nofun ?_
  have room : ¬64 ≤ slotsHeld s.dp := Nat.not_le.2 free
  simp only [cmdMapEpochCommit, startOp_of_slotFree free, enterRow_dp]
  rw [if_neg (by simp [hv, he, hseen, homits, hpend]), if_neg room, if_neg (Nat.not_le.2 hat)]
theorem exec_nodeLeave_hw (hwin : windowOn s.dp s.dp.dw.node = false) (idle : s.dp.dw.leaving = false) (free : slotFree s)
    (hw : hostMode s.dp fmLeave = false) : exec (.nodeLeave h 0) s = accepted h 0x0406 (.leave 1 true) (onDp (beginLeave 1)) s := by
  refine exec_accepted m (cmd := cmdNodeLeave 0) rfl queues_q01 nofun nofun ?_
  simp [cmdNodeLeave, hwin, idle, hw, startOp_of_slotFree free]
theorem exec_nodeLeave_host {step : Byte} (hwin : windowOn s.dp s.dp.dw.node = false) (idle : s.dp.dw.leaving = false)
    (free : slotFree s) (host : hostMode s.dp fmLeave = true) (h1 : 1 ≤ step.toNat) (h4 : step.toNat ≤ 4)
    (hnext : step.toNat = s.dp.dw.leaveDone + 1) :
    exec (.nodeLeave h step) s = accepted h 0x0406 (.leave step.toNat false) (onDp (beginLeave step.toNat)) s := by
  refine exec_accepted m (cmd := cmdNodeLeave step) rfl queues_q01 nofun nofun ?_
  have h0 : ¬step.toNat = 0 := by omega
  simp only [cmdNodeLeave, enterRow_dp, hwin, idle, host, h0, startOp_of_slotFree free, decide_false, if_false]
  rw [if_neg (Nat.not_lt.2 h4), if_neg (by simp), if_neg (by simp [hnext])]
end Join

/-- Settles O19: the bodies of the six join commands past their refusals. -/
theorem joinCommandsAct : Obligations.JoinCommandsAct := fun _ _ m =>
  ⟨fun _ => exec_joinNodeIdSet m, fun _ _ _ => exec_joinLinkUp m,
    fun _ _ _ _ _ => ⟨exec_joinRouteSet m, exec_joinRouteSet_multi m⟩, fun _ _ _ => exec_mapEpochPrepare m,
    fun _ _ => exec_mapEpochCommit m,
    fun hwin idle free => ⟨exec_nodeLeave_hw m hwin idle free, fun _ => exec_nodeLeave_host m hwin idle free⟩⟩

end Sys2Proof.Machine
end

/-! PROOF. What the memory, Kiln and Odometer commands do when nothing refuses them (R204 to R237, R342 to R348, R390 to R401). -/
section
namespace Sys2Proof.Machine
open Sys2Proof

/-! ### O20: memory commands -/

section Memory
variable {h : Hdr} {s : State}

theorem exec_memTrain (m : mayGive [0, 1, 2] false h s) (free : slotFree s) {mode : Byte} {channels : BitVec 64}
    (hm : mode.toNat ≤ 1) (hc : channels ≠ 0) (idle : trainRuns s.dp channels = false)
    (full : mode = 1 → ∀ ch ∈ chansOf channels, evacuated s.dp ch = true ∨ (chan s.dp ch).state = .down) :
    exec (.memTrain h mode channels) s = accepted h 0x0501 (.train channels (decide (mode = 1)))
      (onDp (beginTrain s.dp.nextOp (decide (mode = 1)) channels)) s := by
  refine exec_accepted m (cmd := cmdMemTrain mode channels) rfl queues_q012 nofun nofun ?_
  have ready : ¬(trainRuns s.dp channels = true ∨ (decide (mode = 1) = true ∧
      ((chansOf channels).any fun ch => !(evacuated s.dp ch) && (chan s.dp ch).state != .down) = true)) := by
    rintro (ht | ⟨h1, hany⟩)
    · rw [idle] at ht; exact nomatch ht
    · obtain ⟨ch, hmem, hch⟩ := List.any_eq_true.1 hany
      rcases full (of_decide_eq_true h1) ch hmem with e | e <;> simp [e] at hch
  simp only [cmdMemTrain, enterRow_dp, startOp_of_slotFree free]
  rw [if_neg (by rintro (e | e); exacts [hc e, absurd e (Nat.not_lt.2 hm)]), if_neg ready]
theorem exec_memChannelEvacuate (m : mayGive [0, 1] true h s) (free : slotFree s) {channel : Byte} (hc : channel.toNat ≤ 63)
    (can : canEvac s.dp channel.toNat = true) : exec (.memChannelEvacuate h channel false) s =
      accepted h 0x0502 (.evac channel.toNat) (onDp (startEvac channel.toNat)) s :=
  exec_accepted m (cmd := cmdMemChannelEvacuate channel false) rfl queues_q01 (fun _ => rfl) nofun
    (by simp [cmdMemChannelEvacuate, Nat.not_lt.2 hc, can, startOp_of_slotFree free])
theorem exec_memChannelEvacuate_clear (m : mayGive [0] true h s) {channel : Byte} (hc : channel.toNat ≤ 63) :
    exec (.memChannelEvacuate h channel true) s = answered h 0x0502 0 (onDp fun p => { p with
      flashEvac := p.flashEvac &&& ~~~(BitVec.ofNat 64 (2 ^ channel.toNat)) }) s :=
  exec_answered m (cmd := cmdMemChannelEvacuate channel true) rfl queues_q0 (fun _ => rfl) nofun
    (by simp [cmdMemChannelEvacuate, Nat.not_lt.2 hc])
theorem exec_memPageRetire (m : mayGive [0, 1, 2] false h s) (free : slotFree s) {mode channel bank : Byte} {row : BitVec 32}
    {spa : Spa} (ok : mode = 0 ∧ spaNode spa = s.dp.dw.node ∨
      mode = 1 ∧ channel.toNat ≤ 63 ∧ bank.toNat ≤ 15 ∧ row.toNat ≤ 131071) :
    let x := pageNamed mode channel bank row spa
    (chan s.dp x.1).state ≠ .down → evacuating s.dp x.1 = false → tget 0 (chan s.dp x.1).spares x.2.1 < 64 →
    exec (.memPageRetire h mode channel bank row spa) s =
      accepted h 0x0503 (.pageRetire x.1 x.2.1 x.2.2) (onDp (startRowCopy x.1 x.2.1 x.2.2)) s := by
  intro x up idle room
  refine exec_accepted m (cmd := cmdMemPageRetire mode channel bank row spa) rfl queues_q012 nofun nofun ?_
  have good : ¬(1 < mode.toNat ∨ (mode = 0 ∧ spaNode spa ≠ s.dp.dw.node) ∨
      (mode = 1 ∧ (63 < channel.toNat ∨ 15 < bank.toNat ∨ 131071 < row.toNat))) := by
    rcases ok with ⟨rfl, hn⟩ | ⟨rfl, hc, hb, hr⟩
    · simp [hn]
    · simp [Nat.not_lt.2 hc, Nat.not_lt.2 hb, Nat.not_lt.2 hr]
  simp only [cmdMemPageRetire, enterRow_dp, startOp_of_slotFree free]
  rw [if_neg good, if_neg (by rintro (e | e); exacts [up e, Bool.false_ne_true (idle.symm.trans e)]), if_neg (Nat.not_le.2 room)]
theorem exec_eccScrubCfg_range (m : mayGive [0, 1, 2] false h s) (free : slotFree s) {dram sram : Byte} {base : Spa}
    {lines : BitVec 34} (ok : rangeBad s.dp base lines = false) :
    exec (.eccScrubCfg h 1 dram sram base lines) s = accepted h 0x0601 (.range (spaLine base) lines.toNat) id s :=
  exec_accepted m (cmd := cmdEccScrubCfg 1 dram sram base lines) rfl queues_q012 nofun nofun
    (by simp [cmdEccScrubCfg, ok, startOp_of_slotFree free])
theorem exec_eccScrubCfg_hours (m : mayGive [0, 1, 2] false h s) {dram sram : Byte} {base : Spa} {lines : BitVec 34}
    (hd1 : 1 ≤ dram.toNat) (hd : dram.toNat ≤ 168) (hs1 : 1 ≤ sram.toNat) (hs : sram.toNat ≤ 24) :
    exec (.eccScrubCfg h 0 dram sram base lines) s =
      answered h 0x0601 0 (onDp fun p => { p with dramHours := dram.toNat, sramHours := sram.toNat }) s := by
  refine exec_answered m (cmd := cmdEccScrubCfg 0 dram sram base lines) rfl queues_q012 nofun nofun ?_
  simp only [cmdEccScrubCfg, if_true]
  exact if_neg (by simp; omega)
end Memory

/-- Settles O20: the bodies of the memory commands past their refusals. -/
theorem memoryCommandsAct : Obligations.MemoryCommandsAct := fun _ _ =>
  ⟨fun m free => ⟨fun _ _ => exec_memTrain m free, fun _ _ _ _ _ => exec_memPageRetire m free,
      fun _ _ _ _ => exec_eccScrubCfg_range m free⟩,
    fun m _ _ _ _ => exec_eccScrubCfg_hours m,
    fun _ hc => ⟨fun m can free => exec_memChannelEvacuate m free hc can, fun m => exec_memChannelEvacuate_clear m hc⟩⟩

/-! ### O21: Kiln and Odometer commands -/

section Kiln
variable {h : Hdr} {s : State}

section Replan
variable (m : mayGive [0, 1, 2] false h s) (free : slotFree s) {islands : BitVec 128}
include m free

theorem exec_marginReplan_ask {id : BitVec 32} : exec (.marginReplan h 0 id islands) s = accepted h 0x0701 .plan
    (fun t => { t with kn := { t.kn with asked := t.kn.asked ++ [(islands, some s.dp.nextOp)] } }) s :=
  exec_accepted m (cmd := cmdMarginReplan 0 id islands) rfl queues_q012 nofun nofun
    (by simp [cmdMarginReplan, startOp_of_slotFree free])
theorem exec_marginReplan_approve {pl : MPlan} (hp : s.kn.pend = some pl) : exec (.marginReplan h 1 pl.id islands) s =
    accepted h 0x0701 (.approve pl.id) (fun t => { t with
      kn := { t.kn with pend := none, applying := t.kn.applying ++ [{ pl with op := some s.dp.nextOp }] } }) s :=
  exec_accepted m (cmd := cmdMarginReplan 1 pl.id islands) rfl queues_q012 nofun nofun
    (by simp [cmdMarginReplan, hp, startOp_of_slotFree free])
theorem exec_marginReplan_discard {pl : MPlan} (hp : s.kn.pend = some pl) : exec (.marginReplan h 2 pl.id islands) s =
    accepted h 0x0701 (.approve pl.id) (fun t => sendDone s.dp.nextOp
      (onDp (endPlanOp (some s.dp.nextOp) sOk pl.id) (onKiln (dropPlan sOk pl (hoursNow t)) t))) s :=
  exec_accepted m (cmd := cmdMarginReplan 2 pl.id islands) rfl queues_q012 nofun nofun
    (by simp [cmdMarginReplan, hp, startOp_of_slotFree free])
end Replan

theorem exec_thermalCfg (m : mayGive [0, 1, 2] false h s) {isl : Byte} {freq power : BitVec 16}
    (hi : isl.toNat ≤ 127 ∨ isl = 255) (hf : freqOk freq.toNat = true) (hp : powerOk power.toNat = true) :
    exec (.thermalCfg h isl freq power) s = answered h 0x0703 0 (fun t => { t with kn := { t.kn with
      nextCap := (if isl = 255 then List.range 128 else [isl.toNat]).foldl (fun c i => tset c i freq.toNat) t.kn.nextCap,
      nextPow := some power.toNat } }) s := by
  refine exec_answered m (cmd := cmdThermalCfg isl freq power) rfl queues_q012 nofun nofun ?_
  have good : ¬((127 < isl.toNat ∧ isl ≠ 255) ∨ freqOk freq.toNat = false ∨ powerOk power.toNat = false) := by
    rintro (⟨h1, h2⟩ | e | e)
    · exact hi.elim (fun hle => absurd h1 (Nat.not_lt.2 hle)) h2
    · rw [hf] at e; exact nomatch e
    · rw [hp] at e; exact nomatch e
  exact if_neg good
theorem exec_domainPower (m : mayGive [0, 1] true h s) (free : slotFree s) {d : Byte} {on : Bool}
    (hd : isPorts d.toNat = true ∨ isJoin d.toNat = true) (idle : on = false → domainIdle s.dp d.toNat = true) :
    exec (.domainPower h d on) s = accepted h 0x0704 (.domain d.toNat on) (fun t =>
      mgEvent 36 (if on then 1 else 2) (BitVec.ofNat 32 d.toNat) 0 { t with
        kn := { t.kn with domOff := if on then t.kn.domOff &&& ~~~(BitVec.ofNat 64 (2 ^ d.toNat))
                                    else t.kn.domOff ||| BitVec.ofNat 64 (2 ^ d.toNat) },
        dp := if on then t.dp else domainDown d.toNat t.dp }) s := by
  refine exec_accepted m (cmd := cmdDomainPower d on) rfl queues_q01 (fun _ => rfl) nofun ?_
  simp only [cmdDomainPower, enterRow_dp, startOp_of_slotFree free]
  rw [if_neg, if_neg]
  · rintro ⟨off, hbusy⟩
    rw [idle off] at hbusy; exact nomatch hbusy
  · rintro ⟨hp, hj⟩
    rcases hd with e | e <;> simp [e] at hp hj

section Odometer
variable (m : mayGive [0, 1, 2, 3] false h s)
include m

theorem exec_odoConfig {counter event : BitVec 16} {flags : BitVec 6} {user : Byte} {filters : BitVec 256}
    (hc : counter.toNat ≤ 1023) (he : counterCodes.contains event.toNat = true)
    (hchain : flags.getLsbD 1 = true → counter.toNat % 256 ≠ 255)
    (huser : user.getLsbD 7 = true → (inst s.dp (user.extractLsb' 0 7).toNat).state ≠ .free ∧
      countersOf s.dp counter.toNat (user.extractLsb' 0 7).toNat < 512) :
    exec (.odoConfig h counter event flags user filters) s = answered h 0x0801 0 (onDp fun p => { p with
      counters := tput {} p.counters counter.toNat { tget {} s.dp.counters counter.toNat with
        event := event, enable := flags.getLsbD 0, chain := flags.getLsbD 1, sample := flags.getLsbD 2,
        userEn := user.getLsbD 7, user := (user.extractLsb' 0 7).toNat, filter := decodeFilter flags filters,
        value := if flags.getLsbD 5 then 0 else (tget {} s.dp.counters counter.toNat).value } }) s := by
  refine exec_answered m (cmd := cmdOdoConfig counter event flags user filters) rfl queues_all nofun nofun ?_
  simp only [cmdOdoConfig, enterRow_dp]
  rw [if_neg, if_neg, if_neg]
  · exact fun e => absurd e.2 (Nat.not_le.2 (huser e.1).2)
  · exact fun e => (huser e.1).1 e.2
  · rintro (e | e | ⟨e, hlast⟩)
    · omega
    · rw [he] at e; exact nomatch e
    · exact hchain e hlast
theorem exec_odoSnapshot (free : slotFree s) {first count : BitVec 16} {clear : Bool} {dest : BitVec 64} (hn : count ≠ 0)
    (hend : first.toNat + count.toNat ≤ 1024) (hd : dest.extractLsb' 0 3 = 0) :
    exec (.odoSnapshot h first count clear dest) s =
      accepted h 0x0802 (.snapshot first.toNat count.toNat dest clear) id s := by
  refine exec_accepted m (cmd := cmdOdoSnapshot first count clear dest) rfl queues_all nofun nofun ?_
  simp only [cmdOdoSnapshot, startOp_of_slotFree free]
  refine if_neg ?_
  rintro (e | e | e)
  · exact hn (BitVec.eq_of_toNat_eq e)
  · omega
  · exact e hd
theorem exec_histConfig {hist : Byte} {event : BitVec 16} {flags : BitVec 6} {filters : BitVec 256} (hh : hist.toNat ≤ 63)
    (h1 : 1 ≤ event.toNat) (h7 : event.toNat ≤ 7) : let x := tget {} s.dp.hists hist.toNat
    exec (.histConfig h hist event flags filters) s = answered h 0x0803 0 (onDp fun p => { p with
      hists := tput {} p.hists hist.toNat { x with
        event := event, enable := flags.getLsbD 0, filter := decodeFilter flags filters,
        bins := if flags.getLsbD 5 then [] else x.bins } }) s := by
  refine exec_answered m (cmd := cmdHistConfig hist event flags filters) rfl queues_all nofun nofun ?_
  simp only [cmdHistConfig, enterRow_dp]
  refine if_neg ?_
  rintro (e | rfl | e)
  · omega
  · exact absurd h1 (by decide)
  · omega
end Odometer
end Kiln

/-- Settles O21: the bodies of the Kiln and Odometer commands past their refusals. -/
theorem kilnAndOdometerCommandsAct : Obligations.KilnAndOdometerCommandsAct := fun _ _ =>
  ⟨fun m => ⟨fun free => ⟨fun _ _ => exec_marginReplan_ask m free,
        fun _ _ hp => ⟨exec_marginReplan_approve m free hp, exec_marginReplan_discard m free hp⟩⟩,
      fun _ _ _ => exec_thermalCfg m⟩,
    fun m free _ _ => exec_domainPower m free,
    fun m => ⟨fun _ _ _ _ _ => exec_odoConfig m, fun _ _ _ _ hn hend hd free => exec_odoSnapshot m free hn hend hd,
      fun _ _ _ _ => exec_histConfig m⟩⟩

end Sys2Proof.Machine
end

/-! PROOF. What the perturbation, firmware and LINK_TRAIN commands do when nothing refuses them (R322 to R328, R351 to R355, R417). -/
section
namespace Sys2Proof.Machine
open Sys2Proof

section Debug
variable {h : Hdr} {s : State}

theorem exec_perturbSet (m : mayGive [0, 3] true h s) (unlocked : locked s = false) {engine target mode : Byte}
    {value vmax : BitVec 16} {pattern seed : BitVec 64} (he : engine.toNat ≤ 5) (ht : target.toNat < engineTargets engine.toNat)
    (hm : mode.toNat ≤ 2) (hv : mode = 2 → value ≤ vmax) (h2 : engine = 2 → value.toNat ≤ 63)
    (h1 : engine = 1 → pattern ≠ BitVec.allOnes 64) : exec (.perturbSet h engine target mode value vmax pattern seed) s =
      answered h 0x0901 0 (onDp (perturb engine.toNat target.toNat mode.toNat value.toNat vmax.toNat pattern seed)) s := by
  refine exec_answered m (cmd := cmdPerturbSet engine target mode value vmax pattern seed) rfl queues_q03 (fun _ => rfl)
    (fun _ => unlocked) (if_neg ?_)
  rintro (e | e | e | ⟨e2, e⟩ | ⟨e2, e⟩ | ⟨e1, e⟩)
  · exact absurd he (Nat.not_le.2 e)
  · exact absurd ht (Nat.not_lt.2 e)
  · exact absurd hm (Nat.not_le.2 e)
  · exact absurd (hv e2) (BitVec.not_le.2 e)
  · exact absurd (h2 (BitVec.eq_of_toNat_eq e2)) (Nat.not_le.2 e)
  · exact h1 (BitVec.eq_of_toNat_eq e1) e
theorem exec_perturbClear (m : mayGive [0, 3] false h s) : exec (.perturbClear h) s = answered h 0x0902 0 (onDp clearAll) s :=
  exec_answered m (cmd := cmdPerturbClear) rfl queues_q03 nofun nofun rfl

section Inject
variable (m : mayGive [0, 3] true h s) (unlocked : locked s = false) {kind target : Byte} {count : BitVec 16} {spa : Spa}
  {symbols : BitVec 72} {word b0 b1 : Byte}
  (ok : injectParam s.dp kind.toNat target.toNat count.toNat spa symbols word.toNat b0.toNat b1.toNat = false)
include m unlocked ok

theorem exec_errInject_link (hk : kind = 3) (up : injectLinkUp s.dp target.toNat = true) :
    exec (.errInject h kind target count spa symbols word b0 b1) s =
      answered h 0x0903 0 (onDp (injectLink target.toNat count.toNat)) s := by
  refine exec_answered m (cmd := cmdErrInject kind target count spa symbols word b0 b1) rfl queues_q03 (fun _ => rfl)
    (fun _ => unlocked) ?_
  subst hk
  simp only [cmdErrInject, enterRow_dp, ok, up, Bool.false_eq_true, if_false, if_true]
  rfl

/-- What an error injection asks of its line. -/
def injectHeld (h : Hdr) (id kind line : Nat) (symbols : BitVec 72) (word b0 b1 : Byte) : HeldCmd :=
  { queue := h.queue, seq := h.seq, opcode := 0x0903, job := id, replyOk := h.replyOk,
    work := .inject kind line symbols word.toNat b0.toNat b1.toNat }

variable (hk : kind ≠ 3) (good : injectBad s.dp kind.toNat (spaLine spa) word.toNat = false)
include hk good

/-- An injection into a line reaches for it, and acts at once where it may. -/
theorem exec_errInject_line : exec (.errInject h kind target count spa symbols word b0 b1) s =
    .next (conclude h 0x0903 (if injectMay (reachIntern .command (spaLine spa) 0 s.dp) s.dp.nextJob kind.toNat (spaLine spa) then
      injectAct s.dp.nextJob kind.toNat (spaLine spa) symbols word.toNat b0.toNat b1.toNat
        (onDp (reachIntern .command (spaLine spa) 0) (enterRow h s))
    else waits (injectHeld h s.dp.nextJob kind.toNat (spaLine spa) symbols word b0 b1)
      (onDp (reachIntern .command (spaLine spa) 0) (enterRow h s)))) := by
  have h3 : ¬kind.toNat = 3 := fun e => hk (BitVec.eq_of_toNat_eq e)
  rw [exec_given _ h (cmdErrInject kind target count spa symbols word b0 b1) s m rfl queues_q03 (fun _ => rfl) fun _ => unlocked]
  simp only [cmdErrInject, enterRow_dp, onDp_dp, ok, good, h3, Bool.false_eq_true, if_false]
  rfl

/-- The injection waits where it may not act. -/
theorem exec_errInject_waits
    (no : injectMay (reachIntern .command (spaLine spa) 0 s.dp) s.dp.nextJob kind.toNat (spaLine spa) = false) :
    exec (.errInject h kind target count spa symbols word b0 b1) s =
      waiting h 0x0903 (.inject kind.toNat (spaLine spa) symbols word.toNat b0.toNat b1.toNat) (spaLine spa) s := by
  rw [exec_errInject_line m unlocked ok hk good, no]
  rfl

/-- Where it may, it acts and lets the line go. -/
theorem exec_errInject_acts
    (may : injectMay (reachIntern .command (spaLine spa) 0 s.dp) s.dp.nextJob kind.toNat (spaLine spa) = true) {f : Plane → Plane}
    (act : injectAct s.dp.nextJob kind.toNat (spaLine spa) symbols word.toNat b0.toNat b1.toNat
        (onDp (reachIntern .command (spaLine spa) 0) (enterRow h s)) =
      okay 0 (onDp (fun p => finish s.dp.nextJob (f p)) (onDp (reachIntern .command (spaLine spa) 0) (enterRow h s)))) :
    exec (.errInject h kind target count spa symbols word b0 b1) s =
      answered h 0x0903 0 (onDp fun p => finish s.dp.nextJob (f (reachIntern .command (spaLine spa) 0 p))) s := by
  rw [exec_errInject_line m unlocked ok hk good, may, if_pos rfl, act]
  rfl
end Inject

theorem injectMay_of_held {p : Plane} {job kind line : Nat} (held : holdsLine p job = true)
    (no : kind = 0 → writeWaits p line = false) : injectMay p job kind line = true := by
  unfold injectMay
  rw [held, Bool.true_and, Bool.not_eq_true', Bool.and_eq_false_iff]
  by_cases hk : kind = 0
  · exact .inr (no hk)
  · exact .inl (by simp [hk])

theorem writeWaits_reachIntern (line l : Nat) (p : Plane) : writeWaits (reachIntern .command line 0 p) l = writeWaits p l := by
  obtain ⟨js, e⟩ := reachIntern_command line p
  rw [e]; rfl
theorem sramWord_reachIntern (line l word : Nat) (p : Plane) : sramWord (reachIntern .command line 0 p) l word = sramWord p l word := by
  obtain ⟨js, e⟩ := reachIntern_command line p
  rw [e]; rfl

section InjectAct
variable {job line : Nat} {symbols : BitVec 72} {word b0 b1 : Nat} {t : State}

theorem injectAct_dram (good : injectBad t.dp 0 line word = false) : injectAct job 0 line symbols word b0 b1 t =
    okay 0 (onDp (fun p => finish job (corruptDram line symbols p)) t) := by
  unfold injectAct; rw [if_neg (by simp [good])]; rfl
theorem injectAct_sram (good : injectBad t.dp 1 line word = false) {k : Bool × Nat} (hk : sramWord t.dp line word = some k) :
    injectAct job 1 line symbols word b0 b1 t = okay 0 (onDp (fun p => finish job (corruptSram k (flipMask b0 b1) p)) t) := by
  unfold injectAct; rw [if_neg (by simp [good])]; simp only [hk]
theorem injectAct_home : injectAct job 2 line symbols word b0 b1 t =
    okay 0 (onDp (fun p => finish job (corruptHome job line p)) t) := rfl
end InjectAct

section Firmware

theorem exec_fwStage (m : mayGive [0] false h s) {offset length : BitVec 32} {src : BitVec 64} {final : Bool} {bytes : List Byte}
    (hl : length ≠ 0) (fits : offset.toNat + length.toNat ≤ 25165824) (idle : stageRuns s.dp = false)
    (on : s.mg.endpoint = true) (free : slotFree s) (hst : s.mg.startSlot ≠ 1 - s.mg.running)
    (hone : s.mg.oneShot ≠ some (1 - s.mg.running)) : exec (.fwStage h offset length final ⟨src, bytes⟩) s =
      accepted h 0x0A01 .fwStage (fun t =>
        let m := setSlot t.mg (1 - s.mg.running) { slotOf t.mg (1 - s.mg.running) with valid := false }
        { t with mg := { m with
          stage := some (offset.toNat, src, (List.range length.toNat).map fun k => bytes.getD k 0, final) } }) s := by
  obtain ⟨-, normal, -⟩ := id m
  have slot : inactiveSlot (enterRow h s).mg = 1 - s.mg.running := by simp [inactiveSlot, normal]
  refine exec_accepted m (cmd := cmdFwStage offset length src final bytes) rfl queues_q0 nofun nofun ?_
  simp only [cmdFwStage, slot, enterRow_dp, startOp_of_slotFree free]
  have fits' : ¬(length = 0 ∨ slotSize < offset.toNat + length.toNat) := by
    rintro (e | e); exacts [hl e, absurd fits (Nat.not_le.2 e)]
  rw [if_neg fits', if_neg (by simp [idle, on, hst, hone])]

theorem exec_fwActivate (m : mayGive [0] true h s) {slot : Byte} (hs : slot.toNat ≤ 1) (idle : stageRuns s.dp = false)
    (valid : (slotOf s.mg slot.toNat).valid = true) :
    exec (.fwActivate h slot 1) s =
      answered h 0x0A02 0 (fun t => { t with mg := { t.mg with startSlot := slot.toNat } }) s ∧
    exec (.fwActivate h slot 0) s =
      answered h 0x0A02 0 (fun t => { t with mg := { t.mg with oneShot := some slot.toNat } }) s :=
  ⟨exec_answered m (cmd := cmdFwActivate slot 1) rfl queues_q0 (fun _ => rfl) nofun
      (by simp [cmdFwActivate, Nat.not_lt.2 hs, idle, slotOf_enterRow, valid]),
    exec_answered m (cmd := cmdFwActivate slot 0) rfl queues_q0 (fun _ => rfl) nofun
      (by simp [cmdFwActivate, Nat.not_lt.2 hs, idle, slotOf_enterRow, valid])⟩
end Firmware

theorem exec_linkTrain (m : mayGive [0, 1, 2] false h s) (free : slotFree s) {prt mode : Byte} (hp : prt.toNat ≤ 31)
    (hm : mode.toNat ≤ 1) (on : portOff s prt.toNat = false) (idle : (running s.dp fun w => w == .linkTrain prt.toNat) = false)
    (active : mode = 0 → (port s.dp prt.toNat).state = .active) : exec (.linkTrain h prt mode) s =
      accepted h 0x0C01 (.linkTrain prt.toNat) (onDp (trainNamed prt.toNat (decide (mode = 1)))) s := by
  refine exec_accepted m (cmd := cmdLinkTrain prt mode) rfl queues_q012 nofun nofun ?_
  have on' : portOff (enterRow h s) prt.toNat = false := by rw [portOff, enterRow_kn]; exact on
  simp only [cmdLinkTrain, on', enterRow_dp, idle, startOp_of_slotFree free]
  rw [if_neg (by omega), if_neg (by simpa using active)]
end Debug

/-- Settles O22: the commands act past their refusals; an injection into a line acts where it holds the line, and else waits. -/
theorem debugAndUnitCommandsAct : Obligations.DebugAndUnitCommandsAct := by
  intro h s
  refine ⟨exec_perturbClear, fun m unlocked => ⟨fun _ _ _ _ _ _ _ => exec_perturbSet m unlocked,
      fun kind target count spa symbols word b0 b1 ok => ⟨exec_errInject_link m unlocked ok, fun hk good new => ⟨fun hb => ?_,
        fun hf hw => ?_⟩⟩⟩, fun m _ _ _ _ _ => exec_fwStage m, fun m _ => exec_fwActivate m,
    fun m free _ _ => exec_linkTrain m free⟩
  · refine exec_errInject_waits m unlocked ok hk good ?_
    unfold injectMay
    rcases hb with hb | ⟨rfl, hb⟩
    · rw [holdsLine_of_busy hb new]; rfl
    · rw [writeWaits_reachIntern, hb]; simp
  have good' := (injectBad_reachIntern kind.toNat (spaLine spa) word.toNat s.dp).trans good
  have may := injectMay_of_held (kind := kind.toNat) (holdsLine_of_free hf new) fun e => by
    rw [writeWaits_reachIntern]; exact hw (BitVec.eq_of_toNat_eq e)
  refine ⟨?_, ?_, ?_⟩
  · rintro rfl
    exact exec_errInject_acts m unlocked ok hk good may (injectAct_dram (by simpa using good'))
  · rintro rfl k sram
    exact exec_errInject_acts m unlocked ok hk good may
      (injectAct_sram (by simpa using good') (by simpa [sramWord_reachIntern] using sram))
  · rintro rfl
    exact exec_errInject_acts m unlocked ok hk good may injectAct_home

end Sys2Proof.Machine
end

/-! PROOF. What a firing does to the values in force (R316 to R319): a unit that applies a snapshot gives each of its registers the value
there, and what depends on that value at once (R205, R332) leaves the values in force alone. -/
section
namespace Sys2Proof.Machine
open Sys2Proof

/-! ### What depends on a register at once leaves the values in force alone -/

theorem foldl_inforce {α : Type} {f : Plane → α → Plane} (h : ∀ q a, (f q a).inforce = q.inforce) (l : List α) (p : Plane) :
    (l.foldl f p).inforce = p.inforce := foldl_view Plane.inforce h l p
theorem offerRetrain_inforce (ch : Nat) (p : Plane) : (offerRetrain ch p).inforce = p.inforce := by
  unfold offerRetrain
  dsimp only
  split
  · rfl
  · split <;> rfl
theorem startDeferred_inforce (t : Nat) (p : Plane) : (startDeferred t p).inforce = p.inforce := by
  unfold startDeferred
  split
  · refine foldl_inforce (fun q c => ?_) _ _
    split
    · rfl
    · exact offerRetrain_inforce _ q
  · rfl
theorem updPanic_inforce (i : Nat) (p : Plane) : (updPanic i p).inforce = p.inforce := by
  unfold updPanic
  dsimp only
  split
  · rfl
  · exact (foldl_inforce (fun q t => startDeferred_inforce t q) _ _).trans (foldl_inforce (fun _ _ => by rfl) _ _)

/-! ### One register -/

theorem regOf_tput (t : Table Reg) (a b : Nat) (v : Reg) :
    regOf (tput (rwfReset a) t a v) b = if b = a then v else regOf t b := by
  split
  next e => subst e; exact tget_tput_same ..
  next h =>
    unfold regOf tput
    split
    · rw [tget_eq_tfind, tfind_tdel, if_neg h, ← tget_eq_tfind]
    · rw [tget_eq_tfind, tfind_tins _ _ _ _ (tfree_tdel t a), if_neg h, tfind_tdel, if_neg h, ← tget_eq_tfind]

/-- A register takes its fired value, but that R205 may keep RESERVE_EN in the control word of the DRAM controllers. -/
theorem applyReg_inforce (a : Nat) (v : Reg) (s : State) :
    ∃ w, (applyReg a v s).dp.inforce = tput (rwfReset a) s.dp.inforce a w ∧ (a ≠ aDmcCtrl 0 → w = v) := by
  refine ⟨if a == aDmcCtrl 0 && anyEvac s.dp && (rg s.dp a).getLsbD 8 && !v.getLsbD 8 then v ||| 0x100 else v, ?_, fun h => ?_⟩
  · unfold applyReg
    dsimp only
    generalize (a == aDmcCtrl 0 && anyEvac s.dp && (rg s.dp a).getLsbD 8 && !v.getLsbD 8) = keep
    have kept : ∀ (x : State) (b : Nat) (w : Reg), (if keep = true then stage b w x else x).dp = x.dp := fun x b w => by
      cases keep <;> rfl
    split
    · rw [kept]
    · split
      · rfl
      · split
        · rfl
        · split
          · exact updPanic_inforce ..
          · split
            · exact foldl_inforce (fun _ _ => by rfl) _ _
            · rw [kept]
  · simp [h]
theorem applyReg_fires (a : Nat) (v : Reg) (s : State) : (applyReg a v s).mg.fires = s.mg.fires := by
  unfold applyReg
  dsimp only
  (repeat' split) <;> rfl

theorem rg_applyReg_same {a : Nat} (h : a ≠ aDmcCtrl 0) (v : Reg) (s : State) : rg (applyReg a v s).dp a = v := by
  obtain ⟨w, e, hw⟩ := applyReg_inforce a v s
  rw [rg, e, regOf_tput, if_pos rfl, hw h]
theorem rg_applyReg_other {a b : Nat} (h : b ≠ a) (v : Reg) (s : State) : rg (applyReg a v s).dp b = rg s.dp b := by
  obtain ⟨w, e, -⟩ := applyReg_inforce a v s
  rw [rg, e, regOf_tput, if_neg h, ← rg]

/-! ### The registers of a unit -/

/-- The registers of a list take their values one after the other. -/
def applyRegs (l : Table Reg) (s : State) : State := l.foldl (fun s x => applyReg x.1 x.2 s) s

theorem rg_applyRegs_other {b : Nat} {l : Table Reg} (h : ∀ x ∈ l, x.1 ≠ b) (s : State) :
    rg (applyRegs l s).dp b = rg s.dp b := by
  induction l generalizing s with
  | nil => rfl
  | cons x l ih =>
    have rest := ih (fun y hy => h y (List.mem_cons_of_mem _ hy)) (applyReg x.1 x.2 s)
    exact rest.trans (rg_applyReg_other (h x List.mem_cons_self).symm _ s)
theorem rg_applyRegs_mem {l : Table Reg} (once : (l.map (·.1)).Nodup) {x : Nat × Reg} (hx : x ∈ l) (h : x.1 ≠ aDmcCtrl 0)
    (s : State) : rg (applyRegs l s).dp x.1 = x.2 := by
  induction l generalizing s with
  | nil => exact nomatch hx
  | cons y l ih =>
    obtain ⟨fresh, once⟩ := List.nodup_cons.1 once
    rcases List.mem_cons.1 hx with rfl | hx
    · have later : ∀ z ∈ l, z.1 ≠ x.1 := fun z hz e => fresh (List.mem_map.2 ⟨z, hz, e⟩)
      exact (rg_applyRegs_other later _).trans (rg_applyReg_same h _ s)
    · exact ih once hx (applyReg y.1 y.2 s)
theorem applyRegs_fires (l : Table Reg) (s : State) : (applyRegs l s).mg.fires = s.mg.fires :=
  foldl_view (fun t : State => t.mg.fires) (f := fun t (x : Nat × Reg) => applyReg x.1 x.2 t) (fun t x => applyReg_fires x.1 x.2 t) l s

theorem applySnap_eq (unit : Nat) (snap : Table Reg) (s : State) :
    ∃ k, applySnap unit snap s = { applyRegs (snap.filter fun x => rwfUnit x.1 == unit) s with kn := k } := by
  unfold applySnap
  generalize (if unit = 4 then retargeted s snap else 0) = m
  dsimp only
  split
  · exact ⟨(applyRegs _ s).kn, rfl⟩
  · exact ⟨_, rfl⟩

/-! ### CFG_FIRE and FIRE_APPLY -/

theorem fireWrite_one (g : Fin 8) (s : State) : fireWrite (BitVec.ofNat 32 (2 ^ g.val)) s = fireGroup g s := by
  have named : ((List.range 8).filter fun k => (BitVec.ofNat 32 (2 ^ g.val)).getLsbD k) = [g.val] := by decide +revert
  rw [fireWrite, named]; rfl

section Apply
variable {g : Fin 8} {u : Fin 5} {f : Firing} {s : State}

/-- The state in which a unit has been taken off the firing `f` of group `g`. -/
def unitTaken (g : Fin 8) (u : Fin 5) (f : Firing) (s : State) : State :=
  let rest := s.mg.fires.filter fun x => !(x.1 == g.val)
  let left := f.units.filter fun n => n != u.val
  { s with mg := { s.mg with fires := if left.isEmpty then rest else rest ++ [(g.val, { f with units := left })] } }

theorem exec_fireApply (on : if u.val = 4 then mgcOn s = true else s.mg.life = .run)
    (hf : s.mg.fires.find? (fun x => x.1 == g.val) = some (g.val, f)) (hu : u.val ∈ f.units) :
    exec (.fireApply g u) s = .next (applySnap u f.snap (unitTaken g u f s)) := by
  have runs : (if u.val = 4 then mgcOn s else tilesOn s) = true := by
    split at on
    next h => rw [if_pos h, on]
    next h => rw [if_neg h, tilesOn, on]; rfl
  refine congrArg Host.Outcome.next ((if_pos runs).trans ?_)
  unfold applyFire
  simp only [hf]
  exact if_neg (by simpa using hu)

/-- A unit takes the values of the snapshot that are its own, once it applies it. -/
theorem applySnap_rg (unit : Nat) (snap : Table Reg) (s : State) :
    ((snap.map (·.1)).Nodup → ∀ x ∈ snap, rwfUnit x.1 = unit → x.1 ≠ aDmcCtrl 0 → rg (applySnap unit snap s).dp x.1 = x.2) ∧
      (∀ a, (∀ x ∈ snap, rwfUnit x.1 = unit → x.1 ≠ a) → rg (applySnap unit snap s).dp a = rg s.dp a) := by
  obtain ⟨k, e⟩ := applySnap_eq unit snap s
  rw [e]
  refine ⟨fun once x hx hu hne => ?_, fun a ha => ?_⟩
  · have once' := once.sublist ((List.filter_sublist (p := fun x => rwfUnit x.1 == unit)).map _)
    exact rg_applyRegs_mem once' (List.mem_filter.2 ⟨hx, by simp [hu]⟩) hne s
  · refine rg_applyRegs_other (fun x hx => ?_) s
    obtain ⟨hx, hu⟩ := List.mem_filter.1 hx
    exact ha x hx (beq_iff_eq.1 hu)
end Apply

/-- Settles O28: a write of one group makes one firing; a unit that applies it takes the values of the snapshot, register by register. -/
theorem firingsApplyTheirSnapshot : Obligations.FiringsApplyTheirSnapshot := by
  refine ⟨fun g s on free => ?_, fun g u f s on hf hu => ?_⟩
  · rw [exec_cfgFire on, fireWrite_one, fireGroup_of_free (firesOf_eq_nil_iff.2 free)]
    rfl
  · obtain ⟨taken, others⟩ := applySnap_rg u.val f.snap (unitTaken g u f s)
    obtain ⟨k, e⟩ := applySnap_eq u.val f.snap (unitTaken g u f s)
    refine ⟨_, exec_fireApply on hf hu, ?_, taken, others⟩
    rw [e]
    exact applyRegs_fires _ (unitTaken g u f s)

end Sys2Proof.Machine
end

/-! PROOF. Register accesses by words (R312, R313, R316): a read that finds no voted field changes nothing but what it returns and
shadows, and a full write of a register with RWF fields only stages them. -/
section
namespace Sys2Proof.Machine
open Sys2Proof

theorem wordAt_of_aligned {o : BitVec 25} (h : o.extractLsb' 0 2 = 0) : wordAt o = o.toNat := by
  have low : o.toNat % 4 = 0 := by simpa [BitVec.extractLsb'_toNat] using congrArg BitVec.toNat h
  unfold wordAt
  omega

/-- A read of a register without voted fields mends nothing (R321). -/
theorem mendReg_of_unvoted {a : Nat} (h : a ∉ votedRegs) (s : State) : mendReg a s = s := by
  simp only [votedRegs, List.mem_cons, List.not_mem_nil, or_false, not_or] at h
  unfold mendReg
  rw [if_neg (by omega), if_neg (by omega), if_neg (by omega)]

/-- Where the registers with RWF fields lie. -/
theorem place_of_rwf {a : Nat} (h : rwfMask a ≠ 0) : a = 0x100 ∨ (0x200 ≤ a ∧ a < 0x400) ∨ (0x300100 ≤ a ∧ a < 0x300200) ∨
    (0x301000 ≤ a ∧ a < 0x301480) ∨ (0x800000 ≤ a ∧ a < 0x1000000) := by
  by_contra no
  simp only [not_or] at no
  obtain ⟨h1, h2, h3, h4, h5⟩ := no
  exact h (by simp [rwfMask, tileOf, h1, h2, h3, h4, h5])

theorem evWrite_staged {o : Nat} (h1 : 0x100 ≤ o) (h2 : rwfMask (0x300000 + o) ≠ 0) (v : Reg) (s : State) :
    evWrite o v s = stage (0x300000 + o) v s := by
  unfold evWrite
  split
  case h_6 => exact if_neg h2
  all_goals omega

/-- A full write of a register with RWF fields stages them. -/
theorem regWrite_rwf {a : Nat} (h : rwfMask a ≠ 0) (v : Reg) (s : State) : regWrite a v s = stage a v s := by
  have place := place_of_rwf h
  by_cases hb : a / 0x100000 = 3
  · have at3 : 0x300000 + a % 0x100000 = a := by omega
    have ev := evWrite_staged (o := a % 0x100000) (by omega) (by rw [at3]; exact h) v s
    rw [at3] at ev
    unfold regWrite
    rw [if_neg (by omega), if_neg (by omega), if_neg (by omega), if_neg (by omega), if_neg (by omega), if_neg (by omega)]
    rw [if_neg (by omega), if_pos hb, ev]
  · unfold regWrite
    rw [if_neg (by omega), if_neg (by omega), if_neg (by omega), if_neg (by omega), if_neg (by omega), if_neg (by omega)]
    rw [if_neg (by omega), if_neg hb, if_neg (by omega), if_neg (by omega), if_neg (by omega), if_neg h]

theorem stagedOf_stage (a b : Nat) (v : Reg) (s : State) : stagedOf (stage a v s) b =
    if b = a then (stagedOf s a &&& ~~~(rwfMask a)) ||| (v &&& rwfMask a) else stagedOf s b := regOf_tput ..

/-- Settles O30: reads, full writes and partial writes of one word. -/
theorem registerAccessesAct : Obligations.RegisterAccessesAct := by
  intro o v s on aligned
  have word := wordAt_of_aligned aligned
  have read : exec (.lowWordRead o) s = .next (mendReg (wordAt o) { s with mg := { s.mg with
      readData := regImage s (wordAt o), shadows := match pairHigh s (wordAt o) with
        | some w => tput 0 s.mg.shadows (wordAt o) w
        | none => s.mg.shadows } }) := congrArg Host.Outcome.next (if_neg (by simp [on]))
  have write (e : BitVec 4) : exec (.registerWrite o e v) s = .next (if e ≠ 15 then
      (if assigned (wordAt o) then mgEvent 9 1 (BitVec.ofNat 32 (wordAt o)) 0 s else s) else regWrite (wordAt o) v s) :=
    congrArg Host.Outcome.next (if_neg (by simp [on]))
  rw [word] at read
  simp only [word] at write
  refine ⟨fun unvoted => read.trans (congrArg _ (mendReg_of_unvoted unvoted _)), fun rwf => ?_, fun e partly => ⟨fun known => ?_,
    fun unknown => ?_⟩⟩
  · refine ⟨stage o.toNat v s, (write 15).trans (congrArg _ (regWrite_rwf rwf v s)), ?_, fun a ha => ?_, rfl, rfl, rfl, rfl⟩
    · rw [stagedOf_stage, if_pos rfl]
    · rw [stagedOf_stage, if_neg ha]
  · rw [write e, if_pos partly, if_pos known]
  · rw [write e, if_pos partly, if_neg (by simp [unknown])]

end Sys2Proof.Machine
end

/-! PROOF. The address map loses nothing (R24, R25, R188): the line number of a home is the channel-local line, four bits and two bits one
after the other, and channel index and home tile are those bits, each exclusive-ored with a fold of the bits above. -/
section
namespace Sys2Proof.Machine
open Sys2Proof

/-! ### Lines of a node (R24, R25) -/

/-- A home-local line number of its channel-local line and the six bits below it. -/
def joined (cl : BitVec 27) (x : BitVec 4) (y : BitVec 2) : BitVec 33 := cl ++ x ++ y
/-- What the channel hash takes of the bits above its own. -/
def chanFold (cl : BitVec 27) : BitVec 4 :=
  cl.extractLsb' 2 4 ^^^ cl.extractLsb' 8 4 ^^^ cl.extractLsb' 14 4 ^^^ cl.extractLsb' 20 4
/-- What the tile hash takes of the channel-local line. -/
def tileFold (cl : BitVec 27) : BitVec 2 :=
  cl.extractLsb' 0 2 ^^^ cl.extractLsb' 6 2 ^^^ cl.extractLsb' 12 2 ^^^ cl.extractLsb' 18 2 ^^^ cl.extractLsb' 24 2

section Joined
variable (cl : BitVec 27) (x : BitVec 4) (y : BitVec 2)

/-- The offset of a line. -/
def offsetJoined : BitVec 39 := joined cl x y ++ (0 : BitVec 6)

theorem localLine_joined : localLine (offsetJoined cl x y) = cl := by
  unfold localLine offsetJoined joined
  simp (disch := decide) only [BitVec.extractLsb'_append_eq_of_le, -Nat.reduceAdd]
  exact BitVec.extractLsb'_eq_self
theorem chanHash_joined : chanHash (offsetJoined cl x y) = x ^^^ chanFold cl := by
  unfold chanHash chanFold offsetJoined joined
  simp (disch := decide) only [BitVec.extractLsb'_append_eq_of_le, BitVec.extractLsb'_append_eq_of_add_le, -Nat.reduceAdd]
  simp [BitVec.xor_assoc]
theorem tileHash_joined : tileHash (offsetJoined cl x y) = y ^^^ tileFold cl := by
  unfold tileHash tileFold offsetJoined joined
  simp (disch := decide) only [BitVec.extractLsb'_append_eq_of_le, BitVec.extractLsb'_append_eq_of_add_le, -Nat.reduceAdd]
  simp [BitVec.xor_assoc]
theorem lineOff_joined : lineOff (joined cl x y).toNat = offsetJoined cl x y := by
  unfold lineOff offsetJoined
  rw [BitVec.ofNat_toNat, BitVec.setWidth_eq]
theorem line_offsetJoined : (offsetJoined cl x y).extractLsb' 6 33 = joined cl x y := by
  unfold offsetJoined
  simp (disch := decide) only [BitVec.extractLsb'_append_eq_of_le, -Nat.reduceAdd]
  exact BitVec.extractLsb'_eq_self
theorem getLsbD_joined (i : Nat) : (joined cl x y).getLsbD i =
    if i < 2 then y.getLsbD i else if i < 6 then x.getLsbD (i - 2) else cl.getLsbD (i - 6) := by
  unfold joined
  rw [BitVec.getLsbD_append, BitVec.getLsbD_append, Nat.sub_sub]
  split
  · rfl
  · rw [if_congr (show i - 2 < 4 ↔ i < 6 by omega) rfl rfl]
theorem getLsbD_offsetJoined (i : Nat) : (offsetJoined cl x y).getLsbD i =
    if i < 6 then false else (joined cl x y).getLsbD (i - 6) := by
  unfold offsetJoined
  rw [BitVec.getLsbD_append]
  simp
end Joined

theorem offsetJoined_zero (cl : BitVec 27) : cl.setWidth 39 <<< 12 = offsetJoined cl 0 0 := by
  refine BitVec.eq_of_getLsbD_eq fun i hi => ?_
  rw [getLsbD_offsetJoined, getLsbD_joined]
  simp [hi]
  grind
theorem offsetJoined_or (cl : BitVec 27) (x : BitVec 4) (y : BitVec 2) :
    offsetJoined cl 0 0 ||| x.setWidth 39 <<< 8 ||| y.setWidth 39 <<< 6 = offsetJoined cl x y := by
  refine BitVec.eq_of_getLsbD_eq fun i hi => ?_
  rw [BitVec.getLsbD_or, BitVec.getLsbD_or]
  simp only [getLsbD_offsetJoined, getLsbD_joined]
  simp [hi]
  grind
theorem offsetOf_joined (t : BitVec 2) (c : BitVec 4) (cl : BitVec 27) :
    offsetOf t c cl = offsetJoined cl (c ^^^ chanFold cl) (t ^^^ tileFold cl) := by
  have zeroChan : (0 : BitVec 4) ^^^ chanFold cl = chanFold cl := BitVec.zero_xor
  have zeroTile : (0 : BitVec 2) ^^^ tileFold cl = tileFold cl := BitVec.zero_xor
  simp only [offsetOf, offsetJoined_zero, chanHash_joined, tileHash_joined, zeroChan, zeroTile, offsetJoined_or]

/-- Every line is joined of its parts. -/
theorem exists_joined {line : Nat} (h : line < 2 ^ 33) : ∃ cl x y, (joined cl x y).toNat = line := by
  refine ⟨(BitVec.ofNat 33 line).extractLsb' 6 27, (BitVec.ofNat 33 line).extractLsb' 2 4, (BitVec.ofNat 33 line).extractLsb' 0 2, ?_⟩
  have parts (n : BitVec 33) : joined (n.extractLsb' 6 27) (n.extractLsb' 2 4) (n.extractLsb' 0 2) = n := by
    refine BitVec.eq_of_getLsbD_eq fun i hi => ?_
    rw [getLsbD_joined]
    simp
    grind
  rw [parts, BitVec.toNat_ofNat, Nat.mod_eq_of_lt h]

theorem lineAt_joined {t c cl : Nat} : lineAt t c cl = (joined (BitVec.ofNat 27 cl) (BitVec.ofNat 4 c ^^^ chanFold (BitVec.ofNat 27 cl))
    (BitVec.ofNat 2 t ^^^ tileFold (BitVec.ofNat 27 cl))).toNat := by
  rw [lineAt, offsetOf_joined, line_offsetJoined]

theorem lineAt_of_line {line : Nat} (h : line < 2 ^ 33) : lineAt (lineTile line) (lineChan line) (lineCl line) = line := by
  obtain ⟨cl, x, y, rfl⟩ := exists_joined h
  simp only [lineAt_joined, lineTile, lineChan, lineCl, lineOff_joined, tileHash_joined, chanHash_joined, localLine_joined,
    BitVec.ofNat_toNat, BitVec.setWidth_eq, BitVec.xor_assoc, BitVec.xor_self, BitVec.xor_zero]

section Parts
variable {t c cl : Nat}

theorem lineTile_lineAt (h : t < 4) : lineTile (lineAt t c cl) = t := by
  rw [lineAt_joined, lineTile, lineOff_joined, tileHash_joined, BitVec.xor_assoc, BitVec.xor_self, BitVec.xor_zero,
    BitVec.toNat_ofNat, Nat.mod_eq_of_lt h]
theorem lineChan_lineAt (h : c < 16) : lineChan (lineAt t c cl) = c := by
  rw [lineAt_joined, lineChan, lineOff_joined, chanHash_joined, BitVec.xor_assoc, BitVec.xor_self, BitVec.xor_zero,
    BitVec.toNat_ofNat, Nat.mod_eq_of_lt h]
theorem lineCl_lineAt (h : cl < 2 ^ 27) : lineCl (lineAt t c cl) = cl := by
  rw [lineAt_joined, lineCl, lineOff_joined, localLine_joined, BitVec.toNat_ofNat, Nat.mod_eq_of_lt h]
end Parts

/-! ### Banks of a channel (R188) -/

theorem xor_lt_16 {a b : Nat} (ha : a < 16) (hb : b < 16) : a ^^^ b < 16 := Nat.xor_lt_two_pow (n := 4) ha hb

theorem clAt_of_cl {cl : Nat} (h : cl < 2 ^ 27) : clAt (bankOf cl) (rowOf cl) (colOf cl) = cl := by
  have low : cl / 2 ^ 10 % 2 ^ 17 % 16 = cl / 2 ^ 10 % 16 := by omega
  have high : cl / 2 ^ 10 % 2 ^ 17 / 16 % 16 = cl / 2 ^ 14 % 16 := by omega
  simp only [clAt, bankOf, rowOf, colOf, low, high, Nat.xor_assoc]
  rw [← Nat.xor_assoc (cl / 2 ^ 14 % 16) (cl / 2 ^ 10 % 16), Nat.xor_comm (cl / 2 ^ 14 % 16), Nat.xor_assoc (cl / 2 ^ 10 % 16),
    Nat.xor_self, Nat.xor_zero, Nat.xor_self, Nat.xor_zero]
  omega

section Bank
variable {bank row col : Nat} (hb : bank < 16) (hr : row < 2 ^ 17) (hc : col < 64)
include hb hr hc

theorem clAt_parts : clAt bank row col < 2 ^ 27 ∧ bankOf (clAt bank row col) = bank ∧ rowOf (clAt bank row col) = row ∧
    colOf (clAt bank row col) = col := by
  have lt := xor_lt_16 (xor_lt_16 hb (Nat.mod_lt row (by decide))) (Nat.mod_lt (row / 16) (by decide : 0 < 16))
  have back : bank ^^^ row % 16 ^^^ row / 16 % 16 ^^^ row % 16 ^^^ row / 16 % 16 = bank := by
    rw [Nat.xor_assoc (bank ^^^ row % 16), Nat.xor_comm (row / 16 % 16), ← Nat.xor_assoc, Nat.xor_assoc bank, Nat.xor_self,
      Nat.xor_zero, Nat.xor_assoc, Nat.xor_self, Nat.xor_zero]
  unfold clAt bankOf rowOf colOf
  generalize bank ^^^ row % 16 ^^^ row / 16 % 16 = m at lt back ⊢
  have mid : (row * 2 ^ 10 + m * 64 + col) / 2 ^ 6 % 16 = m := by omega
  have low : (row * 2 ^ 10 + m * 64 + col) / 2 ^ 10 % 16 = row % 16 := by omega
  have high : (row * 2 ^ 10 + m * 64 + col) / 2 ^ 14 % 16 = row / 16 % 16 := by omega
  rw [mid, low, high]
  exact ⟨by omega, back, by omega, by omega⟩
end Bank

/-- Settles O56: both maps have their inverses. -/
theorem theAddressMapIsOneToOne : Obligations.TheAddressMapIsOneToOne :=
  ⟨fun _ h => ⟨BitVec.isLt _, BitVec.isLt _, BitVec.isLt _, lineAt_of_line h⟩,
    fun _ _ _ ht hc hcl => ⟨BitVec.isLt _, lineTile_lineAt ht, lineChan_lineAt hc, lineCl_lineAt hcl⟩,
    fun cl h => ⟨xor_lt_16 (xor_lt_16 (Nat.mod_lt _ (by decide)) (Nat.mod_lt _ (by decide))) (Nat.mod_lt _ (by decide)),
      Nat.mod_lt _ (by decide), Nat.mod_lt _ (by decide), clAt_of_cl h⟩,
    fun _ _ _ hb hr hc => clAt_parts hb hr hc⟩

end Sys2Proof.Machine
end

/-! PROOF. What the DRAM array reads after a line is stored in it and after an injected error (R214, Table 15.2). -/
section
namespace Sys2Proof.Machine
open Sys2Proof

/-! ### A stored line -/

/-- Symbols that were stored read back. -/
theorem putSyms_word (d : Table Byte) (base : Nat) {w : List Nat} (hlen : w.length = 72) (hw : ∀ x ∈ w, x < 256) :
    ((List.range 72).map fun k => (tget 0 (putSyms d base w 0) (base + k)).toNat) = w := by
  refine List.ext_getElem (by simp [hlen]) fun i h1 h2 => ?_
  have sym := hw _ (List.getElem_mem h2)
  rw [List.getElem_map, List.getElem_range, putSyms_get, if_pos (by omega), Nat.add_zero, Nat.add_sub_cancel_left,
    List.getD_eq_getElem _ _ h2, BitVec.toNat_ofNat, Nat.mod_eq_of_lt sym]

theorem dramPut_dram (p : Plane) (ch raw : Nat) (w : List Nat) :
    (dramPut p ch raw w).dram = putSyms p.dram ((ch * chanSpan + raw) * 72) w 0 := rfl

section Stored
variable (p : Plane) {ch raw : Nat} {w : List Nat} (hlen : w.length = 72)
include hlen

theorem dramPut_get (j : Nat) : tget 0 (dramPut p ch raw w).dram j =
    if (ch * chanSpan + raw) * 72 ≤ j ∧ j < (ch * chanSpan + raw) * 72 + 72 then
      BitVec.ofNat 8 (w.getD (j - (ch * chanSpan + raw) * 72) 0) else tget 0 p.dram j := by
  rw [dramPut_dram]
  generalize (ch * chanSpan + raw) * 72 = base
  rw [putSyms_get, hlen, Nat.add_zero]

theorem dramWord_dramPut_same (hw : ∀ x ∈ w, x < 256) : dramWord (dramPut p ch raw w) ch raw = w := by
  rw [dramWord, dramPut_dram, putSyms_word _ _ hlen hw]

theorem dramWord_dramPut_other (hraw : raw < chanSpan) {c r : Nat} (hr : r < chanSpan) (h : c ≠ ch ∨ r ≠ raw) :
    dramWord (dramPut p ch raw w) c r = dramWord p c r := by
  unfold dramWord
  refine List.map_congr_left fun i hi => ?_
  have hi := List.mem_range.1 hi
  rw [dramPut_get p hlen, if_neg]
  unfold chanSpan at hraw hr ⊢
  omega
end Stored

/-! ### An injected error -/

/-- A fold that changes every entry named once. -/
theorem tget_foldl_tput {α : Type} [DecidableEq α] (d : α) (f : α → α) {l : List Nat} (once : l.Nodup) (t : Table α) (j : Nat) :
    tget d (l.foldl (fun t k => tput d t k (f (tget d t k))) t) j = if j ∈ l then f (tget d t j) else tget d t j := by
  induction l generalizing t with
  | nil => simp
  | cons k l ih =>
    obtain ⟨fresh, once⟩ := List.nodup_cons.1 once
    rw [List.foldl_cons, ih once, tget_tput]
    by_cases hj : j = k
    · subst hj
      rw [if_neg fresh, if_pos rfl, if_pos List.mem_cons_self]
    · rw [if_neg hj]
      exact if_congr (by rw [List.mem_cons, or_iff_right hj]) rfl rfl

theorem foldl_flip_get {l : List Nat} (once : l.Nodup) (base j : Nat) (d : Table Byte) :
    tget 0 (l.foldl (fun (t : Table Byte) k => tput 0 t (base + k) (tget 0 t (base + k) ^^^ 0xFF)) d) j =
      if base ≤ j ∧ j - base ∈ l then ~~~(tget 0 d j) else tget 0 d j := by
  have keys := tget_foldl_tput (0 : Byte) (fun x => x ^^^ 0xFF) (once.map (add_right_injective base)) d j
  rw [List.foldl_map] at keys
  refine keys.trans (if_congr ?_ BitVec.xor_allOnes rfl)
  rw [List.mem_map]
  exact ⟨fun ⟨k, hk, e⟩ => ⟨by omega, by rwa [show j - base = k by omega]⟩, fun ⟨hle, hk⟩ => ⟨_, hk, by omega⟩⟩

theorem corruptDram_get (line : Nat) (symbols : BitVec 72) (p : Plane) (j : Nat) :
    let base := ((place p line).1 * chanSpan + (place p line).2) * 72
    tget 0 (corruptDram line symbols p).dram j =
      if base ≤ j ∧ j - base < 72 ∧ symbols.getLsbD (j - base) = true then ~~~(tget 0 p.dram j) else tget 0 p.dram j := by
  refine (foldl_flip_get (List.nodup_range.filter _) _ j p.dram).trans (if_congr ?_ rfl rfl)
  rw [List.mem_filter, List.mem_range]

/-- Settles O57: a stored line reads back, an injected error inverts the symbols it names; both keep the canonical form. -/
theorem theArrayReadsWhatWasStored : Obligations.TheArrayReadsWhatWasStored := fun p =>
  ⟨fun ch raw w hraw hlen hw => ⟨dramWord_dramPut_same p hlen hw, fun _ _ hr h => dramWord_dramPut_other p hlen hraw hr h, rfl,
      dramPut_wf p ch raw w⟩,
    fun line symbols => ⟨fun k hk => by rw [corruptDram_get]; simp [hk], fun key hkey => by rw [corruptDram_get, if_neg]; omega,
      rfl, corruptDram_wf line symbols p⟩⟩

end Sys2Proof.Machine
end

/-! PROOF. The DRAM line code (R214, R217, R218). Multiplication by a fixed factor is additive on bytes, so a polynomial's value is additive
in its coefficients; each check symbol step multiplies the remainder's value by the root, since the generator vanishes there. -/
section
namespace Sys2Proof.Machine
open Sys2Proof

/-! ### Multiplication in GF(2⁸) -/

theorem xor_lt_256 {a b : Nat} (ha : a < 256) (hb : b < 256) : a ^^^ b < 256 := Nat.xor_lt_two_pow (n := 8) ha hb
theorem xor_swap (a b c d : Nat) : (a ^^^ b) ^^^ (c ^^^ d) = (a ^^^ c) ^^^ (b ^^^ d) := by ac_rfl

theorem gdouble_lt : ∀ {a : Nat}, a < 256 → gdouble a < 256 := by decide +kernel
/-- Doubling reduces where the highest bit is set. -/
theorem gdouble_eq {a : Nat} (ha : a < 256) : gdouble a = (2 * a) ^^^ (if a / 128 = 0 then 0 else 0x11D) := by
  unfold gdouble
  by_cases h : a < 128
  · rw [if_pos h, if_pos (by omega), Nat.xor_zero]
  · rw [if_neg h, if_neg (by omega)]
theorem gdouble_xor {a b : Nat} (ha : a < 256) (hb : b < 256) : gdouble (a ^^^ b) = gdouble a ^^^ gdouble b := by
  have twice : 2 * (a ^^^ b) = (2 * a) ^^^ (2 * b) := by
    simpa [Nat.shiftLeft_eq, Nat.mul_comm] using Nat.shiftLeft_xor_distrib (a := a) (b := b) (i := 1)
  have top : (a ^^^ b) / 128 = a / 128 ^^^ b / 128 := Nat.xor_div_two_pow (n := 7)
  rw [gdouble_eq (xor_lt_256 ha hb), gdouble_eq ha, gdouble_eq hb, twice, top, xor_swap]
  congr 1
  rcases (by omega : a / 128 = 0 ∨ a / 128 = 1) with ea | ea <;> rcases (by omega : b / 128 = 0 ∨ b / 128 = 1) with eb | eb <;>
    rw [ea, eb] <;> rfl

theorem gmulN_lt (n : Nat) {a : Nat} (ha : a < 256) (b : Nat) : gmulN n a b < 256 := by
  induction n generalizing a b with
  | zero => exact Nat.zero_lt_succ _
  | succ n ih =>
    refine xor_lt_256 ?_ (ih (gdouble_lt ha) _)
    split
    · exact ha
    · exact Nat.zero_lt_succ _
theorem gmulN_xor (n : Nat) {a b : Nat} (ha : a < 256) (hb : b < 256) (c : Nat) :
    gmulN n (a ^^^ b) c = gmulN n a c ^^^ gmulN n b c := by
  induction n generalizing a b c with
  | zero => simp [gmulN]
  | succ n ih =>
    simp only [gmulN]
    rw [gdouble_xor ha hb, ih (gdouble_lt ha) (gdouble_lt hb), xor_swap]
    split
    · rfl
    · rfl
theorem gmul_lt {a : Nat} (ha : a < 256) (b : Nat) : gmul a b < 256 := gmulN_lt 8 ha b
theorem gmul_xor {a b : Nat} (ha : a < 256) (hb : b < 256) (c : Nat) : gmul (a ^^^ b) c = gmul a c ^^^ gmul b c :=
  gmulN_xor 8 ha hb c
theorem gmul_zero : ∀ {x : Nat}, gmul 0 x = 0 := by
  intro x
  simp [gmul, gmulN, gdouble]

/-! ### Values of polynomials -/

/-- Horner's rule from the value of the coefficients before. -/
def hornerFrom (x acc : Nat) (cs : List Nat) : Nat := cs.foldl (fun acc c => gmul acc x ^^^ c) acc

theorem hornerFrom_cons (x acc c : Nat) (cs : List Nat) : hornerFrom x acc (c :: cs) = hornerFrom x (gmul acc x ^^^ c) cs := rfl
theorem hornerFrom_append (x acc : Nat) (cs ds : List Nat) : hornerFrom x acc (cs ++ ds) = hornerFrom x (hornerFrom x acc cs) ds :=
  List.foldl_append

/-- The value is additive in the coefficients. -/
theorem hornerFrom_xor {α : Type} (x : Nat) {l : List α} {u v : α → Nat} (hu : ∀ y ∈ l, u y < 256) (hv : ∀ y ∈ l, v y < 256)
    {p q : Nat} (hp : p < 256) (hq : q < 256) :
    hornerFrom x (p ^^^ q) (l.map fun y => u y ^^^ v y) = hornerFrom x p (l.map u) ^^^ hornerFrom x q (l.map v) := by
  induction l generalizing p q with
  | nil => rfl
  | cons y l ih =>
    obtain ⟨hu0, hu⟩ := List.forall_mem_cons.1 hu
    obtain ⟨hv0, hv⟩ := List.forall_mem_cons.1 hv
    simp only [List.map_cons, hornerFrom_cons, gmul_xor hp hq]
    rw [xor_swap, ih hu hv (xor_lt_256 (gmul_lt hp x) hu0) (xor_lt_256 (gmul_lt hq x) hv0)]

/-- What is additive on bytes and vanishes on the powers of two vanishes on the bytes. -/
theorem eq_zero_of_additive {f : Nat → Nat} (add : ∀ a b, a < 256 → b < 256 → f (a ^^^ b) = f a ^^^ f b)
    (basis : ∀ k, k < 8 → f (2 ^ k) = 0) : ∀ a, a < 256 → f a = 0 := by
  have zero : f 0 = 0 := by simpa using add 0 0 (by decide) (by decide)
  have upTo : ∀ n, n ≤ 8 → ∀ a, a < 2 ^ n → f a = 0 := by
    intro n
    induction n with
    | zero =>
      intro _ a ha
      rw [Nat.lt_one_iff.1 ha, zero]
    | succ n ih =>
      intro hn a ha
      have small : 2 ^ n < 256 := Nat.pow_lt_pow_right (by decide) (by omega : n < 8)
      by_cases h : a < 2 ^ n
      · exact ih (by omega) a h
      · have hlow : a ^^^ 2 ^ n < 2 ^ n := by
          refine Nat.lt_of_testBit n ?_ (by simp) fun j hj => ?_
          · have top : a.testBit n = true := by
              have one : a / 2 ^ n = 1 := Nat.div_eq_of_lt_le (by omega) (by rw [Nat.pow_succ] at ha; omega)
              rw [Nat.testBit_eq_decide_div_mod_eq, one]
              rfl
            simp [top]
          · have above : a.testBit j = false := Nat.testBit_lt_two_pow (ha.trans_le (Nat.pow_le_pow_right (by decide) hj))
            simp [above]
        have split := add (a ^^^ 2 ^ n) (2 ^ n) (hlow.trans small) small
        rw [Nat.xor_assoc, Nat.xor_self, Nat.xor_zero] at split
        rw [split, ih (by omega) _ hlow, basis n (by omega)]
        rfl
  exact upTo 8 (Nat.le_refl 8)

/-! ### Check symbols -/

/-- What one data symbol does to the check symbols. -/
def checkStep (r : List Nat) (s : Nat) : List Nat :=
  ((r.drop 1 ++ [0]).zip (genPoly.drop 1)).map fun (x : Nat × Nat) => x.1 ^^^ gmul (s ^^^ r.headD 0) x.2

theorem checkSyms_eq (d : List Nat) : checkSyms d = d.foldl checkStep (List.replicate 8 0) := rfl
theorem genPoly_eq : genPoly.drop 1 = [255, 11, 81, 54, 239, 173, 200, 24] := by decide +kernel
theorem genPoly_length : genPoly.length = 9 := by decide +kernel

/-- Every multiple of the generator vanishes at its roots. -/
theorem generator_root {i : Nat} (hi : i < 8) : ∀ f, f < 256 → hornerFrom (gexp i) f ((genPoly.drop 1).map (gmul f)) = 0 := by
  refine eq_zero_of_additive (fun a b ha hb => ?_) ?_
  · rw [← hornerFrom_xor _ (fun y _ => gmul_lt ha y) (fun y _ => gmul_lt hb y) ha hb]
    rw [show gmul (a ^^^ b) = fun y => gmul a y ^^^ gmul b y from funext (gmul_xor ha hb)]
  · rw [genPoly_eq]
    revert i
    decide +kernel

section Step
variable {r : List Nat} {s : Nat} (hlen : r.length = 8) (hr : ∀ x ∈ r, x < 256) (hs : s < 256)
include hlen

theorem checkStep_length : (checkStep r s).length = 8 := by simp [checkStep, genPoly_length, hlen]

include hr hs
theorem checkStep_lt : ∀ x ∈ checkStep r s, x < 256 := by
  match r, hlen with
  | r0 :: rs, _ =>
    obtain ⟨h0, hrs⟩ := List.forall_mem_cons.1 hr
    intro x hx
    obtain ⟨y, hy, rfl⟩ := List.mem_map.1 hx
    refine xor_lt_256 ?_ (gmul_lt (xor_lt_256 hs h0) _)
    rcases List.mem_append.1 (List.of_mem_zip hy).1 with h | h
    · exact hrs _ h
    · rw [List.mem_singleton.1 h]; decide

/-- A data symbol keeps the value zero: the old word times the root, plus a multiple of the generator. -/
theorem hornerFrom_checkStep {i p : Nat} (hi : i < 8) (hp : p < 256) (zero : hornerFrom (gexp i) p r = 0) :
    hornerFrom (gexp i) (gmul p (gexp i) ^^^ s) (checkStep r s) = 0 := by
  match r, hlen with
  | r0 :: rs, hlen =>
    obtain ⟨h0, hrs⟩ := List.forall_mem_cons.1 hr
    have hf := xor_lt_256 hs h0
    have lens : (rs ++ [0]).length = (genPoly.drop 1).length := by simpa [genPoly_length] using hlen
    have split : gmul p (gexp i) ^^^ s = (gmul p (gexp i) ^^^ r0) ^^^ (s ^^^ r0) := by
      rw [Nat.xor_comm s r0, Nat.xor_assoc, ← Nat.xor_assoc r0 r0, Nat.xor_self, Nat.zero_xor]
    have bytes : ∀ y ∈ (rs ++ [0]).zip (genPoly.drop 1), y.1 < 256 := fun y hy => by
      rcases List.mem_append.1 (List.of_mem_zip hy).1 with h | h
      · exact hrs _ h
      · rw [List.mem_singleton.1 h]; decide
    have shifted : hornerFrom (gexp i) (gmul p (gexp i) ^^^ r0) (rs ++ [0]) = 0 := by
      rw [hornerFrom_append, ← hornerFrom_cons, zero, hornerFrom_cons, gmul_zero]
      rfl
    have key := hornerFrom_xor (gexp i) (l := (rs ++ [0]).zip (genPoly.drop 1)) (u := fun y => y.1)
      (v := fun y => gmul (s ^^^ r0) y.2) bytes (fun y _ => gmul_lt hf _) (xor_lt_256 (gmul_lt hp (gexp i)) h0) hf
    have snds : ((rs ++ [0]).zip (genPoly.drop 1)).map (fun y : Nat × Nat => gmul (s ^^^ r0) y.2) = (genPoly.drop 1).map (gmul (s ^^^ r0)) := by
      have snd := List.map_snd_zip (l₁ := rs ++ [0]) lens.ge
      conv => rhs; rw [← snd, List.map_map]
      rfl
    rw [List.map_fst_zip lens.le, snds, shifted, generator_root hi _ hf, ← split] at key
    exact key
end Step

/-- After every data symbol the check symbols make the word's value zero. -/
theorem hornerFrom_check {i : Nat} (hi : i < 8) {d : List Nat} (hd : ∀ x ∈ d, x < 256) {r : List Nat} (hlen : r.length = 8)
    (hr : ∀ x ∈ r, x < 256) {p : Nat} (hp : p < 256) (zero : hornerFrom (gexp i) p r = 0) :
    hornerFrom (gexp i) p (d ++ d.foldl checkStep r) = 0 := by
  induction d generalizing p r with
  | nil => exact zero
  | cons s d ih =>
    obtain ⟨hs, hd⟩ := List.forall_mem_cons.1 hd
    exact ih hd (checkStep_length hlen) (checkStep_lt hlen hr hs) (xor_lt_256 (gmul_lt hp _) hs)
      (hornerFrom_checkStep hlen hr hs hi hp zero)
theorem foldl_checkStep {d : List Nat} (hd : ∀ x ∈ d, x < 256) {r : List Nat} (hlen : r.length = 8) (hr : ∀ x ∈ r, x < 256) :
    (d.foldl checkStep r).length = 8 ∧ ∀ x ∈ d.foldl checkStep r, x < 256 := by
  induction d generalizing r with
  | nil => exact ⟨hlen, hr⟩
  | cons s d ih =>
    obtain ⟨hs, hd⟩ := List.forall_mem_cons.1 hd
    exact ih hd (checkStep_length hlen) (checkStep_lt hlen hr hs)

/-! ### Words of lines -/

theorem noCheck_lt : ∀ x ∈ List.replicate 8 0, x < 256 := by decide

theorem hornerFrom_noCheck : ∀ i, i < 8 → hornerFrom (gexp i) 0 (List.replicate 8 0) = 0 := by decide +kernel

section Line
variable (l : Line)

theorem dataSyms_lt : ∀ x ∈ dataSyms l, x < 256 := by
  intro x hx
  obtain ⟨i, -, rfl⟩ := List.mem_map.1 hx
  exact BitVec.isLt _
theorem dataSyms_length : (dataSyms l).length = 64 := by simp [dataSyms]
theorem checkSyms_parts : (checkSyms (dataSyms l)).length = 8 ∧ ∀ x ∈ checkSyms (dataSyms l), x < 256 :=
  foldl_checkStep (dataSyms_lt l) List.length_replicate noCheck_lt
theorem encodeLine_eq : encodeLine l = dataSyms l ++ (dataSyms l).foldl checkStep (List.replicate 8 0) := rfl
theorem encodeLine_length : (encodeLine l).length = 72 := by
  obtain ⟨h, -⟩ := checkSyms_parts l
  rw [encodeLine_eq, List.length_append, ← checkSyms_eq, h, dataSyms_length]
theorem encodeLine_lt : ∀ x ∈ encodeLine l, x < 256 := by
  obtain ⟨-, h⟩ := checkSyms_parts l
  intro x hx
  rw [encodeLine_eq] at hx
  exact (List.mem_append.1 hx).elim (dataSyms_lt l x) (h x)
theorem encodeLine_getElem {i : Nat} (hi : i < 64) (h : i < (encodeLine l).length) : (encodeLine l)[i] = (byteAt l i).toNat := by
  have left : i < (dataSyms l).length := by rw [dataSyms_length]; exact hi
  rw [List.getElem_of_eq (encodeLine_eq l) h, List.getElem_append_left left]
  simp only [dataSyms, List.getElem_map, List.getElem_range]
theorem syndromes_encodeLine : ∀ x ∈ syndromes (encodeLine l), x = 0 := by
  intro x hx
  obtain ⟨i, hi, rfl⟩ := List.mem_map.1 hx
  have hi := List.mem_range.1 hi
  rw [encodeLine_eq]
  exact hornerFrom_check hi (dataSyms_lt l) List.length_replicate noCheck_lt (by decide) (hornerFrom_noCheck i hi)
theorem classify_encodeLine : classify (encodeLine l) = .good := by
  unfold classify
  exact if_pos (List.all_eq_true.2 fun x hx => beq_iff_eq.2 (syndromes_encodeLine l x hx))
end Line

theorem getLsbD_setByte (l : Line) {n : Nat} (hn : n < 64) (b : Byte) (i : Nat) :
    (setByte l n b).getLsbD i = if 8 * n ≤ i ∧ i < 8 * n + 8 then b.getLsbD (i - 8 * n) else l.getLsbD i := by
  have ones (j : Nat) : (0xFF : Line).getLsbD j = decide (j < 8) := by
    have bits := BitVec.getLsbD_ofNat 512 (2 ^ 8 - 1) j
    rw [Nat.testBit_two_pow_sub_one] at bits
    refine bits.trans ?_
    by_cases h : j < 8
    · simp [h]; omega
    · simp [h]
  by_cases h : i < 512
  · unfold setByte
    simp only [BitVec.getLsbD_or, BitVec.getLsbD_and, BitVec.getLsbD_not, BitVec.getLsbD_shiftLeft, BitVec.getLsbD_setWidth, ones, h]
    grind
  · rw [BitVec.getLsbD_of_ge _ _ (by omega), if_neg (by omega), BitVec.getLsbD_of_ge _ _ (by omega)]

/-- From symbol `n` on a word gives back the bits of its line from there on. -/
theorem getLsbD_lineOf_drop (l : Line) (i : Nat) {n : Nat} (hn : n ≤ 64) :
    (lineOf ((encodeLine l).drop n) n).getLsbD i = (decide (8 * n ≤ i) && l.getLsbD i) := by
  induction hn using Nat.decreasingInduction with
  | self =>
    have none : lineOf ((encodeLine l).drop 64) 64 = 0 := by
      cases (encodeLine l).drop 64 with
      | nil => rfl
      | cons s t => rfl
    rw [none]
    by_cases h : i < 512
    · simp; omega
    · rw [BitVec.getLsbD_of_ge l i (by omega)]; simp
  | of_succ n hn ih =>
    have hlen : n < (encodeLine l).length := by rw [encodeLine_length]; omega
    rw [List.drop_eq_getElem_cons hlen, encodeLine_getElem l hn hlen, lineOf, if_pos hn, getLsbD_setByte _ hn, ih,
      BitVec.ofNat_toNat, BitVec.setWidth_eq, byteAt, BitVec.getLsbD_extractLsb']
    grind
theorem lineOf_encodeLine (l : Line) : lineOf (encodeLine l) 0 = l := by
  refine BitVec.eq_of_getLsbD_eq fun i _ => ?_
  have bits := getLsbD_lineOf_drop l i (Nat.zero_le 64)
  rw [List.drop_zero] at bits
  simpa using bits

theorem classify_poisonWord : classify poisonWord = .poisoned [] := by
  have bad : (syndromes poisonWord).all (· == 0) = false := by decide +kernel
  unfold classify
  simp only [bad, Bool.false_eq_true, if_false]
  exact if_pos (beq_self_eq_true _)

/-- Settles O58: a stored line is a codeword of the Reed–Solomon code, and the poison word is none. -/
theorem storedLinesAreCodewords : Obligations.StoredLinesAreCodewords :=
  ⟨fun l => ⟨encodeLine_length l, encodeLine_lt l, fun i hi => by
        have hlen : i < (encodeLine l).length := by rw [encodeLine_length]; omega
        rw [List.getD_eq_getElem _ _ hlen, encodeLine_getElem l hi hlen],
      syndromes_encodeLine l, classify_encodeLine l, lineOf_encodeLine l⟩, rfl, classify_poisonWord⟩

end Sys2Proof.Machine
end

/-! PROOF. Slots and records read back (Tables 02.3, 02.4, 03.5, 06.3, 10.1, 11.2): each image is its fields one after the other, so the
bits of a field are that field. -/
section
namespace Sys2Proof.Machine
open Sys2Proof

theorem decide_ofBool (b : Bool) : decide (BitVec.ofBool b = 1#1) = b := by cases b <;> rfl
/-- A bit of an image is a field of one bit. -/
theorem getLsbD_field {n : Nat} (w : BitVec n) (k : Nat) : w.getLsbD k = decide (w.extractLsb' k 1 = 1#1) := by
  have bit : w.extractLsb' k 1 = BitVec.ofBool (w.getLsbD k) := by
    refine BitVec.eq_of_getLsbD_eq fun i hi => ?_
    rw [Nat.lt_one_iff.1 hi]
    simp
  rw [bit, decide_ofBool]

section Header
variable (cls : BitVec 3) (op : BitVec 5) (b : Body)

theorem hdrCls_encodeHdr : hdrCls (encodeHdr cls op b) = cls := by
  unfold hdrCls encodeHdr
  simp (disch := decide) only [BitVec.extractLsb'_append_eq_of_le, -Nat.reduceAdd]
  exact BitVec.extractLsb'_eq_self
theorem hdrOp_encodeHdr : hdrOp (encodeHdr cls op b) = op := by
  unfold hdrOp encodeHdr
  simp (disch := decide) only [BitVec.extractLsb'_append_eq_of_le, BitVec.extractLsb'_append_eq_of_add_le, -Nat.reduceAdd]
  exact BitVec.extractLsb'_eq_self
theorem decodeHdr_encodeHdr : decodeHdr (encodeHdr cls op b) b.mask b.data = b := by
  unfold decodeHdr encodeHdr
  simp only [getLsbD_field]
  simp (disch := decide) only [BitVec.extractLsb'_append_eq_of_le, BitVec.extractLsb'_append_eq_of_add_le, -Nat.reduceAdd]
  simp only [Nat.reduceSub, BitVec.extractLsb'_eq_self, decide_ofBool]
end Header

theorem decodeRoute_encodeRoute (r : Route) : decodeRoute (encodeRoute r) = r := by
  unfold decodeRoute encodeRoute
  simp only [getLsbD_field]
  simp (disch := decide) only [BitVec.extractLsb'_append_eq_of_le, BitVec.extractLsb'_append_eq_of_add_le, -Nat.reduceAdd]
  simp only [Nat.reduceSub, BitVec.extractLsb'_eq_self, decide_ofBool]
theorem decodeRegion_encodeRegion (r : Region) : decodeRegion (encodeRegion r) = r := by
  unfold decodeRegion encodeRegion
  simp only [getLsbD_field]
  simp (disch := decide) only [BitVec.extractLsb'_append_eq_of_le, BitVec.extractLsb'_append_eq_of_add_le, -Nat.reduceAdd]
  simp only [Nat.reduceSub, BitVec.extractLsb'_eq_self, decide_ofBool]
theorem decodeWindow_encodeWindow (w : Window) : decodeWindow (encodeWindow w) = w := by
  unfold decodeWindow encodeWindow
  simp only [getLsbD_field]
  simp (disch := decide) only [BitVec.extractLsb'_append_eq_of_le, BitVec.extractLsb'_append_eq_of_add_le, -Nat.reduceAdd]
  simp only [Nat.reduceSub, BitVec.extractLsb'_eq_self, decide_ofBool]
theorem decodeShare_encodeShare (x : Share) : decodeShare (encodeShare x) = x := by
  unfold decodeShare encodeShare
  simp only [getLsbD_field]
  simp (disch := decide) only [BitVec.extractLsb'_append_eq_of_le, BitVec.extractLsb'_append_eq_of_add_le, -Nat.reduceAdd]
  simp only [Nat.reduceSub, BitVec.extractLsb'_eq_self, decide_ofBool]
theorem decodeReplay_encodeReplay (x : Replay) : decodeReplay (encodeReplay x) = x := by
  unfold decodeReplay encodeReplay
  simp only [getLsbD_field]
  simp (disch := decide) only [BitVec.extractLsb'_append_eq_of_le, BitVec.extractLsb'_append_eq_of_add_le, -Nat.reduceAdd]
  simp only [Nat.reduceSub, BitVec.extractLsb'_eq_self, decide_ofBool]

/-- Settles O59: no field of a slot or a record is dropped. -/
theorem slotsAndRecordsReadBack : Obligations.SlotsAndRecordsReadBack :=
  ⟨fun cls op b => ⟨hdrCls_encodeHdr cls op b, hdrOp_encodeHdr cls op b, decodeHdr_encodeHdr cls op b⟩, decodeRoute_encodeRoute,
    decodeRegion_encodeRegion, decodeWindow_encodeWindow, decodeShare_encodeShare, decodeReplay_encodeReplay⟩

end Sys2Proof.Machine
end

/-! PROOF. The host's registers with rows of their own: doorbells, key gate, queue and event controls (R291, R322 to R336), and the frames
of the SPI port (R305, R427). -/
section
namespace Sys2Proof.Machine
open Sys2Proof

/-! ### Votes of three equal copies -/

@[simp] theorem vote_three {α : Type} [DecidableEq α] (x : α) : vote (three x) = x := if_pos (.inl rfl)
theorem fieldOf_three (m x : Reg) : fieldOf m (three x) = three (x &&& m) := rfl
theorem ctlOf_three {r : Ring} {x : Reg} (h : r.ctrl = three x) : ctlOf r = 0 ||| x &&& 0x80000000 ||| x &&& 0x40 ||| x &&& 0x3F := by
  simp only [ctlOf, voteFields, ringFields, List.foldl, h, fieldOf_three, vote_three]
theorem evCtlOf_three {x : EvRing} {r : Reg} (h : x.ctrl = three r) : evCtlOf x = 0 ||| r &&& 0x80000000 ||| r &&& 0xF := by
  simp only [evCtlOf, voteFields, evFields, List.foldl, h, fieldOf_three, vote_three]

/-- A queue with a fault is not enabled. -/
theorem enabled_ringFault (r : Ring) : enabled (ctlOf (ringFault r)) = false := by
  rw [ctlOf_three (r := ringFault r) rfl]
  simp [enabled]

/-! ### Doorbells -/

section Doorbells
variable {q : Fin 4} {s : State}

theorem exec_sqTail (on : hostOn s = true) (tail : BitVec 8) (packets : List (BitVec 512)) :
    exec (.sqTail q tail packets) s = .next (if enabled (ctlOf (ring s.mg q)) = false ∨ tailOk (ring s.mg q) tail = false then
      queueErr q 1 s else { s with mg := setRing s.mg q { ring s.mg q with
        sqTail := tail
        packets := putPackets (ring s.mg q).packets (ring s.mg q).sqTail (packets.take (tail - (ring s.mg q).sqTail).toNat) } }) :=
  congrArg Host.Outcome.next (if_neg (by simp [on]))
theorem exec_rqHead (on : hostOn s = true) (head : BitVec 8) :
    exec (.rqHead q head) s = .next (if enabled (ctlOf (ring s.mg q)) = false ∨ headOk (ring s.mg q) head = false then
      queueErr q 1 s else { s with mg := setRing s.mg q { ring s.mg q with rqHead := head } }) :=
  congrArg Host.Outcome.next (if_neg (by simp [on]))

/-- A fetch that fails is a fault of its queue. -/
theorem exec_commandStart_failed (may : mayStart s = true) (turn : turnOf (queueReady s) s.mg.round = some q.val)
    (bytes : List Byte) (replyOk : Bool) : exec (.commandStart bytes ⟨false, replyOk⟩) s =
      .next (hostFault q { s with mg := { s.mg with round := (q.val + 1) % 5 } }) := by
  have notSpi : ¬q.val = 4 := by omega
  refine congrArg Host.Outcome.next ((if_neg (by simp [may])).trans ?_)
  simp only [turn]
  exact (if_neg notSpi).trans (if_pos trivial)
end Doorbells

theorem mgEvent_of_normal {s : State} (normal : s.mg.life ≠ .recovery) (src : Nat) (code : BitVec 16) (data : BitVec 32)
    (pay : BitVec 128) : mgEvent src code data pay s = { s with dp := raise src code data pay s.dp } := if_neg normal

/-- Settles O23: both doorbells by what they would move past, and a failed fetch. -/
theorem doorbellsMoveTheirPointers : Obligations.DoorbellsMoveTheirPointers := by
  intro q s on
  refine ⟨fun tail packets => ⟨fun run keeps => ?_, fun bad => ?_⟩, fun head => ⟨fun run keeps => ?_, fun bad => ?_⟩,
    fun bytes replyOk may turn => ⟨_, exec_commandStart_failed may turn bytes replyOk, ?_, ?_, fun normal => ?_⟩⟩
  · rw [exec_sqTail on, if_neg]
    simpa [run, tailOk] using keeps
  · rw [exec_sqTail on, if_pos (bad.imp_right fun back => by simpa [tailOk] using back)]
    rfl
  · rw [exec_rqHead on, if_neg]
    simpa [run, headOk] using keeps
  · rw [exec_rqHead on, if_pos (bad.imp_right fun back => by simpa [headOk] using back)]
    rfl
  · rw [hostFault_mg, ring_setRing]
    exact enabled_ringFault _
  · rw [hostFault_mg, ring_setRing]
    rfl
  · unfold hostFault
    rw [mgEvent_of_normal (by simpa using normal)]

/-! ### The SPI port -/

section Spi
variable {s : State} (on : mgcOn s = true)
include on

theorem exec_spiCmd (x : BitVec 512) : exec (.spiCmd x) s = .next (if spiBusy s.mg ∨ s.mg.spi.reply.isSome then
    { s with mg := { s.mg with spi := { s.mg.spi with discarded := true } } }
    else { s with mg := { s.mg with spi := { s.mg.spi with cmd := some x, cmdNew := true } } }) :=
  congrArg Host.Outcome.next (if_neg (by simp [on]))
theorem exec_spiReply : exec .spiReply s = .next { spiOut s.mg.spi.reply s with mg := { (spiOut s.mg.spi.reply s).mg with
    spi := { (spiOut s.mg.spi.reply s).mg.spi with reply := none } } } := congrArg Host.Outcome.next (if_neg (by simp [on]))
theorem exec_spiStat (vio : s.side.vio = true) : exec .spiStat s = .next { s with mg := { s.mg with spi := { s.mg.spi with
    overflow := false, discarded := false, replyNew := false, cmdNew := false, complNew := false, out := spiStatus s.mg } } } := by
  refine congrArg Host.Outcome.next ((if_neg (by simp [on])).trans ?_)
  simp only [spiOut, vio]
theorem exec_spiCompl {w : BitVec 256} {rest : List (BitVec 256)} (held : s.mg.spi.compl = w :: rest) (vio : s.side.vio = true) :
    exec .spiCompl s = .next { s with mg := { s.mg with spi := { s.mg.spi with compl := rest, out := w } } } := by
  refine congrArg Host.Outcome.next ((if_neg (by simp [on])).trans ?_)
  simp only [spiOut, held, vio, List.head?_cons, List.tail_cons]
end Spi

theorem spiOut_some {s : State} (w : BitVec 256) (vio : s.side.vio = true) :
    spiOut (some w) s = { s with mg := { s.mg with spi := { s.mg.spi with out := w } } } := by
  simp only [spiOut, vio]
theorem spiOut_none {v : Option (BitVec 256)} {s : State} (h : v = none ∨ s.side.vio = false) : spiOut v s =
    { s with mg := { s.mg with spi := { s.mg.spi with out := Config.spiBits s.dp.draw } }, dp := draw1 s.dp } := by
  unfold spiOut
  split
  next hv vio => rcases h with h | h <;> simp_all
  next => rfl
/-- Settles O25: the four frames. -/
theorem spiFramesAct : Obligations.SpiFramesAct := by
  intro s on
  refine ⟨fun x => ⟨fun ⟨idle, free, read⟩ => ?_, fun taken => ?_⟩, ⟨_, exec_spiReply on, rfl, fun w reply vio => ?_, fun none => ?_⟩,
    exec_spiStat on, fun w rest => exec_spiCompl on⟩
  · rw [exec_spiCmd on, if_neg]
    simp [spiBusy, idle, free, read]
  · rw [exec_spiCmd on, if_pos]
    simpa [spiBusy, Option.ne_none_iff_isSome, or_assoc] using taken
  · rw [reply, spiOut_some w vio]
  · rw [spiOut_none none]

/-! ### The key gate -/

theorem exec_keyGate {s : State} (on : hostOn s = true) (v : Reg) : exec (.keyGate v) s = .next (keyWrite v s) :=
  congrArg Host.Outcome.next (if_pos on)
theorem exec_devCtrl {s : State} (on : hostOn s = true) (v : Reg) : exec (.devCtrl v) s = .next (devCtrlWrite v s) :=
  congrArg Host.Outcome.next (if_pos on)

/-- Settles O26: the two registers by the key and by the gate. -/
theorem keyGateAdmitsOneKeyedWrite : Obligations.KeyGateAdmitsOneKeyedWrite := by
  intro v s on
  refine ⟨fun key => (exec_keyGate on v).trans (congrArg _ (if_pos key)), fun key => (exec_keyGate on v).trans (congrArg _ (if_neg key)),
    fun isOpen lock => ⟨_, exec_devCtrl on v, ?_⟩, fun isOpen keep => ?_, fun closed => ?_⟩
  · have write : devCtrlWrite v s = { s with
        mg := { s.mg with keyOpen := false, dbgLock := three true }, dp := if tilesOn s then clearAll s.dp else s.dp,
        side := devCtrlWrite.bypass s.side } := (if_pos isOpen).trans (if_pos lock)
    rw [write]
    refine ⟨vote_three true, ?_⟩
    simp only [tilesOn, beq_iff_eq]
    rfl
  · exact (exec_devCtrl on v).trans (congrArg _ ((if_pos isOpen).trans (if_neg (by rw [keep]; exact Bool.false_ne_true))))
  · exact (exec_devCtrl on v).trans (congrArg _ (if_neg (by simp [closed])))

/-! ### Queue and event controls -/

section Controls
variable {v : Reg} {s : State}

theorem exec_cmdqCtrl (on : hostOn s = true) (q : Fin 4) : exec (.cmdqCtrl q v) s = .next (ringCtrlWrite q v s) :=
  congrArg Host.Outcome.next (if_pos on)
theorem exec_cmdqBaseWrite (on : hostOn s = true) (q w : Fin 4) : exec (.cmdqBaseWrite q w v) s = .next (ringBaseWrite q w v s) :=
  congrArg Host.Outcome.next (if_pos on)
theorem exec_evtCtrl (on : hostOn s = true) : exec (.evtCtrl v) s = .next (evCtrlWrite v s) :=
  congrArg Host.Outcome.next (if_pos on)

theorem ringCtrlWrite_running {q : Nat} (h : enabled (ctlOf (ring s.mg q)) = false ∨ v.getLsbD 31 = true) :
    ringCtrlWrite q v s = { s with mg := setRing s.mg q { ring s.mg q with ctrl := three (v &&& 0x8000007F) } } := by
  have keeps : (enabled (ctlOf (ring s.mg q)) && !v.getLsbD 31) = false := by
    rcases h with h | h
    · rw [h]; rfl
    · rw [h, Bool.not_true, Bool.and_false]
  unfold ringCtrlWrite
  simp only [keeps, Bool.false_eq_true, if_false]
theorem ringBaseWrite_stopped {q : Nat} (h : enabled (ctlOf (ring s.mg q)) = false) :
    ringBaseWrite q 0 v s = { s with mg := setRing s.mg q { ring s.mg q with
      sqBase := highWord (ring s.mg q).sqBase ++ (v &&& 0xFFFFC000) } } ∧
    ringBaseWrite q 1 v s = { s with mg := setRing s.mg q { ring s.mg q with sqBase := v ++ lowWord (ring s.mg q).sqBase } } ∧
    ringBaseWrite q 2 v s = { s with mg := setRing s.mg q { ring s.mg q with
      rqBase := highWord (ring s.mg q).rqBase ++ (v &&& 0xFFFFE000) } } ∧
    ringBaseWrite q 3 v s = { s with mg := setRing s.mg q { ring s.mg q with rqBase := v ++ lowWord (ring s.mg q).rqBase } } :=
  ⟨if_neg (by simp [h]), if_neg (by simp [h]), if_neg (by simp [h]), if_neg (by simp [h])⟩

/-- EVT_CTRL takes its fields without another bit: ENABLE is bit 31 and SIZE bits 0 to 3. -/
theorem enabled_evFields (v : Reg) : enabled (v &&& 0x8000000F) = v.getLsbD 31 := by simp [enabled]
theorem size_evFields (v : Reg) : fld (v &&& 0x8000000F) 0 4 = fld v 0 4 := by
  have ones : (0x8000000F : Reg).extractLsb' 0 4 = BitVec.allOnes 4 := by decide
  rw [fld, BitVec.extractLsb'_and, ones, BitVec.and_allOnes, fld]
end Controls

/-- Settles O27: the controls by ENABLE before and after. -/
theorem queueAndEventControlsAct : Obligations.QueueAndEventControlsAct := by
  intro v s on
  refine ⟨fun q => ⟨fun ⟨run, stop, idle⟩ => ?_, fun ⟨run, stop, held⟩ => ?_, fun keeps => ?_, fun run w => ?_, fun stopped => ?_⟩,
    fun off set => ?_, fun clear => ?_, fun run set size => ?_, fun run set size => ?_, congrArg Host.Outcome.next (if_pos on)⟩
  · rw [exec_cmdqCtrl on, ringCtrlWrite]
    simp only [run, stop, idle, Bool.not_false, Bool.and_self, if_true, Bool.false_eq_true, if_false]
    rfl
  · rw [exec_cmdqCtrl on, ringCtrlWrite]
    simp only [run, stop, held, Bool.not_false, Bool.and_self, if_true]
    rfl
  · rw [exec_cmdqCtrl on, ringCtrlWrite_running keeps]
    rfl
  · exact (exec_cmdqBaseWrite on q w).trans (congrArg _ (if_pos run))
  · obtain ⟨h0, h1, h2, h3⟩ := ringBaseWrite_stopped (v := v) stopped
    exact ⟨(exec_cmdqBaseWrite on q 0).trans (congrArg _ h0), (exec_cmdqBaseWrite on q 1).trans (congrArg _ h1),
      (exec_cmdqBaseWrite on q 2).trans (congrArg _ h2), (exec_cmdqBaseWrite on q 3).trans (congrArg _ h3)⟩
  · rw [exec_evtCtrl on, evCtrlWrite]
    simp only [enabled_evFields, off, set, Bool.false_and, Bool.false_eq_true, if_false, if_true]
    rfl
  · rw [exec_evtCtrl on, evCtrlWrite]
    simp only [enabled_evFields, clear, Bool.and_false, Bool.false_eq_true, if_false]
    rfl
  · rw [exec_evtCtrl on, evCtrlWrite]
    simp only [enabled_evFields, size_evFields, run, set, Bool.and_self, if_true, if_neg size]
  · rw [exec_evtCtrl on, evCtrlWrite]
    simp only [enabled_evFields, size_evFields, run, set, Bool.and_self, if_true, if_pos size]
    rfl

end Sys2Proof.Machine
end

/-! PROOF. Events on their way to the host, the endpoint, the sideband and the meter port (R336 to R340, R376, R377, R432 to R437). -/
section
namespace Sys2Proof.Machine
open Sys2Proof

/-! ### Events -/

section Events
variable {s : State} (on : hostOn s = true)
include on

theorem exec_eventWrite {e : Ev} {rest : List Ev} (queue : s.dp.evq = e :: rest) (run : enabled (evCtlOf s.mg.ev) = true)
    (room : evFull s.mg.ev = false) :
    let x := s.mg.ev
    let n := evSize (evCtlOf x)
    exec (.eventWrite true) s = .next { s with
      mg := coalesce s.dp (srcVector s.dp e.source) { s.mg with ev := { x with
        slots := tput 0 x.slots x.tail (eventImage e x.phase s.dp.lostFlag), tail := (x.tail + 1) % n,
        phase := if x.tail + 1 = n then !x.phase else x.phase } },
      dp := { s.dp with evq := rest, lostFlag := false, ops := match e.op with
        | none => s.dp.ops
        | some id => s.dp.ops.filter fun o => !(o.id == id) } } ∧
    exec (.eventWrite false) s = .next (mgEvent 11 3 4 0 { s with mg := { s.mg with ev := evStop x } }) := by
  have ready : ¬(hostOn s = false ∨ enabled (evCtlOf s.mg.ev) = false ∨ evFull s.mg.ev = true) := by simp [on, run, room]
  refine ⟨congrArg Host.Outcome.next ?_, congrArg Host.Outcome.next ?_⟩
  · simp only [queue, if_neg ready]
    rfl
  · simp only [queue, if_neg ready, if_true]

theorem exec_coalescingTimeout {v : Fin 64} (written : tget 0 s.mg.ev.since v ≠ 0)
    (timer : fld (rg s.dp (aEvtVec v)) 16 16 ≠ 0) : exec (.coalescingTimeout v) s = .next { s with
      mg := vectorMessage v { s.mg with ev := { s.mg.ev with since := tput 0 s.mg.ev.since v 0 } } } :=
  congrArg Host.Outcome.next (if_neg (by simp [on, written, timer]))
end Events

theorem exec_holdOffEnd {n : Fin 288} {s : State} (powered : s.mg.life ≠ .noVin) :
    exec (.holdOffEnd n) s = .next { s with dp := endHold n s.dp } := congrArg Host.Outcome.next (if_neg powered)
theorem endHold_quiet {n : Nat} {p : Plane} (run : (tget {} p.holds n).on = true) (quiet : (tget {} p.holds n).counted = none) :
    endHold n p = { p with holds := tput {} p.holds n {} } := by
  simp only [endHold, run, quiet, Bool.true_eq_false, if_false]
theorem endHold_counted {n : Nat} {p : Plane} {e : Ev} {k : Nat} (run : (tget {} p.holds n).on = true)
    (counted : (tget {} p.holds n).counted = some (e, k)) : endHold n p =
      offerHeld n { e with merged := min 65535 (k - 1) } { p with holds := tput {} p.holds n {} } := by
  simp only [endHold, run, counted, Bool.true_eq_false, if_false]

/-- Settles O31: the four rows where what they wait for has come. -/
theorem eventRowsAct : Obligations.EventRowsAct := by
  refine ⟨fun _ _ _ queue on => exec_eventWrite on queue, fun _ _ on => exec_coalescingTimeout on, fun n s powered run quiet => ?_,
    fun n e k s powered run counted => ⟨_, _, exec_holdOffEnd powered, rfl, rfl, endHold_counted run counted⟩⟩
  rw [exec_holdOffEnd powered, endHold_quiet run quiet]

/-! ### The endpoint -/

theorem exec_endpointDisable {s : State} (on : mgcOn s = true) (there : s.mg.endpoint = true) :
    exec .endpointDisable s = .next { s with mg := endpointOff s.mg } := congrArg Host.Outcome.next (if_pos ⟨on, there⟩)

theorem evCtlOf_evStop (x : EvRing) : enabled (evCtlOf (evStop x)) = false := by
  rw [evCtlOf_three (x := evStop x) rfl]
  simp [enabled]

/-- Disabling the endpoint is a fault of each of the four queues. -/
theorem ring_endpointOff (m : Mgmt) (q : Fin 4) : ring (endpointOff m) q = ringFault (ring m q) := by
  have fold : (endpointOff m).rings = (List.range 4).foldl (fun t q => tput {} t q (ringFault (tget {} t q))) m.rings := by
    simp only [endpointOff]
  rw [ring, fold, tget_foldl_tput {} ringFault List.nodup_range, if_pos (List.mem_range.2 q.isLt), ring]
theorem endpointOff_frame (m : Mgmt) : ∃ rs h, endpointOff m =
    { m with endpoint := false, rings := rs, ev := evStop m.ev, held := h } := ⟨_, _, rfl⟩

/-- Settles O32: both rows on a powered management die. -/
theorem endpointRowsAct : Obligations.EndpointRowsAct := by
  intro s on
  refine ⟨fun there => ⟨_, exec_endpointDisable on there, ?_⟩, congrArg Host.Outcome.next (if_pos on)⟩
  have queues (q : Fin 4) : enabled (ctlOf (ring (endpointOff s.mg) q)) = false ∧ (ring (endpointOff s.mg) q).err = true := by
    rw [ring_endpointOff]
    exact ⟨enabled_ringFault _, rfl⟩
  obtain ⟨rs, h, e⟩ := endpointOff_frame s.mg
  refine ⟨?_, queues, ?_⟩
  · rw [e]
  · rw [e]
    exact ⟨evCtlOf_evStop s.mg.ev, rfl, rfl, rfl, rfl, rfl, rfl, rfl, rfl, rfl⟩

/-! ### The sideband -/

section Sideband
variable {s : State} (powered : s.mg.life ≠ .noVin) {code : Byte}
include powered

theorem exec_smbusRead : exec (.smbusRead code) s = .next (match smbRead s code.toNat with
    | some bs => { s with side := { s.side with out := bs, nack := false } }
    | none => { s with side := { s.side with out := [], nack := true } }) := congrArg Host.Outcome.next (if_neg powered)
theorem exec_smbusWrite (v : BitVec 16) (ok : Bool) : exec (.smbusWrite code v ok) s =
    .next (if (smbRead s code.toNat).isNone ∨ ok = false then { s with side := { s.side with nack := true } }
      else { s with side := { smbPut code.toNat v s.side with nack := false } }) := congrArg Host.Outcome.next (if_neg powered)
theorem exec_alertResponse : exec .alertResponse s =
    .next (if s.side.alert then { s with side := { s.side with out := [0xBC], nack := false, alert := false } }
      else { s with side := { s.side with out := [], nack := true } }) := congrArg Host.Outcome.next (if_neg powered)
end Sideband

section Tap
variable {s : State} (on : mgcOn s = true) {code : Byte}
include on

/-- EXTEST, CLAMP and HIGHZ take the pins while RST_N is low, and else act as BYPASS. -/
theorem exec_tapLoad_pins (h : code = 0 ∨ code = 2 ∨ code = 3) (low : Bool) : exec (.tapInstructionLoad code low) s =
    .next (if low then { s with side := { s.side with ir := code, pins := some code, lapsed := false } }
      else { s with side := { s.side with ir := 0xFF, pins := none, lapsed := false } }) := by
  have itself : tapCode (locked s) code = code := by rcases h with rfl | rfl | rfl <;> rfl
  refine congrArg Host.Outcome.next ((if_neg (by simp [on])).trans ?_)
  simp only [itself, h, true_and, if_true]

/-- Any other code is selected, or BYPASS where it is none. -/
theorem exec_tapLoad_other {c : Byte} (hc : tapCode (locked s) code = c) (h : ¬(c = 0 ∨ c = 2 ∨ c = 3)) (low : Bool) :
    exec (.tapInstructionLoad code low) s = .next { s with side := { s.side with ir := c, pins := none, lapsed := false } } := by
  refine congrArg Host.Outcome.next ((if_neg (by simp [on])).trans ?_)
  simp only [hc, h, false_and, if_false]
end Tap

/-- Settles O33: the rows of SMBus, TAP and VIO, by the code and by what the transaction meets. -/
theorem sidebandRowsAct : Obligations.SidebandRowsAct := by
  refine ⟨fun code s powered => ⟨fun bs listed => ⟨?_, fun v => ?_⟩, fun unlisted => ⟨?_, fun v ok => ?_⟩, fun v => ?_, fun low => ?_,
      fun high => ?_, congrArg Host.Outcome.next (if_neg powered)⟩,
    fun code low s on => ⟨fun pins => ⟨fun isLow => ?_, fun isHigh => ?_⟩, fun sample => ?_, fun other => ?_⟩, fun _ _ => rfl⟩
  · rw [exec_smbusRead powered, listed]
  · rw [exec_smbusWrite powered, listed, if_neg (by simp)]
    rfl
  · rw [exec_smbusRead powered, unlisted]
  · rw [exec_smbusWrite powered, unlisted, if_pos (.inl rfl)]
  · rw [exec_smbusWrite powered, if_pos (.inr rfl)]
  · rw [exec_alertResponse powered, if_pos low]
  · rw [exec_alertResponse powered, if_neg (by simp [high])]
  · rw [exec_tapLoad_pins on pins, if_pos isLow]
  · rw [exec_tapLoad_pins on pins, if_neg (by simp [isHigh])]
  · subst sample
    exact exec_tapLoad_other on (c := 1) (if_pos (by decide)) (by decide) low
  · have small : ¬(code = 0 ∨ code = 1 ∨ code = 2 ∨ code = 3) := by
      rintro (rfl | rfl | rfl | rfl) <;> exact absurd other (by decide)
    refine exec_tapLoad_other on (if_neg small) ?_ low
    split
    · rintro (rfl | rfl | rfl) <;> exact absurd other (by decide)
    · decide

/-! ### The meter port -/

/-- The packed value of the holdover policy: its two fields and nothing between them. -/
theorem policyWord (v : BitVec 64) : BitVec.ofNat 64 (v.toNat / 2 ^ 32 * 2 ^ 32 + v.toNat % 4) = v &&& 0xFFFFFFFF00000003 := by
  have split (a b i : Nat) (hb : b < 4) : (a * 2 ^ 32 + b).testBit i = if i < 32 then b.testBit i else a.testBit (i - 32) := by
    rw [Nat.mul_comm]
    exact Nat.testBit_two_pow_mul_add a (by omega) i
  have low (a i : Nat) : (a % 4).testBit i = (decide (i < 2) && a.testBit i) := Nat.testBit_mod_two_pow a 2 i
  refine BitVec.eq_of_getLsbD_eq fun i hi => ?_
  have mask : (0xFFFFFFFF00000003 : BitVec 64).getLsbD i = (decide (i < 2) || decide (32 ≤ i)) := by
    decide +revert
  rw [BitVec.getLsbD_and, mask, BitVec.getLsbD_ofNat, split _ _ _ (Nat.mod_lt _ (by decide)), low, Nat.testBit_div_two_pow]
  have back : 32 ≤ i → i - 32 + 32 = i := Nat.sub_add_cancel
  have bit : v.toNat.testBit i = v.getLsbD i := BitVec.testBit_toNat ..
  by_cases h : i < 32
  · have h' : ¬32 ≤ i := Nat.not_le.2 h
    simp only [h, h', hi, if_true, decide_true, decide_false, Bool.true_and, Bool.or_false, bit, Bool.and_comm]
  · have h' : 32 ≤ i := Nat.not_lt.1 h
    simp only [h, h', back h', hi, if_false, decide_true, Bool.true_and, Bool.or_true, Bool.and_true, bit]

/-- A legal parameter reads as what was set, once it takes effect. -/
theorem paramLast_setParam {p i : Byte} {v : BitVec 64} (g : Sag) (ok : paramOk p.toNat i.toNat v = true) :
    paramLast (setParam p.toNat i.toNat v g) p.toNat i.toNat = if p = 3 then v &&& 0xFFFFFFFF00000003 else v := by
  have four : p = 0 ∨ p = 1 ∨ p = 2 ∨ p = 3 := by
    unfold paramOk at ok
    split at ok
    next h => exact .inl (BitVec.eq_of_toNat_eq h)
    next h => exact .inr (.inl (BitVec.eq_of_toNat_eq h))
    next h => exact .inr (.inr (.inl (BitVec.eq_of_toNat_eq h)))
    next h => exact .inr (.inr (.inr (BitVec.eq_of_toNat_eq h)))
    next => exact nomatch ok
  rcases four with rfl | rfl | rfl | rfl
  · exact BitVec.ofNat_toNat .. |>.trans (BitVec.setWidth_eq v)
  · exact tget_tput_same ..
  · exact BitVec.ofNat_toNat .. |>.trans (BitVec.setWidth_eq v)
  · have kept := paramLast_of_keeps (syncHold_keeps { syncHold g with policy := v.toNat % 4, limitS := v.toNat / 2 ^ 32 }) 3 i.toNat
    exact kept.trans (policyWord v)

theorem paramWrite_done {p i : Byte} {v : BitVec 64} {g : Sag} (room : g.audit.length < 1024) (seal_ : g.sealN = true)
    (ok : paramOk p.toNat i.toNat v = true) : let x := paramWrite p.toNat i.toNat v g
    x.1 = 0 ∧ x.2.sealCnt = g.sealCnt + 1 ∧
      paramLast x.2 p.toNat i.toNat = (if p = 3 then v &&& 0xFFFFFFFF00000003 else v) := by
  have notFull : ¬logFull g = true := by simpa [logFull] using room
  rcases paramWrite_inv p.toNat i.toNat v g with ⟨hst, -⟩ | ⟨hst, hcnt, -⟩
  · refine absurd ?_ hst
    rw [paramWrite, if_neg notFull, if_neg (by simp [seal_]), if_neg (by simp [ok])]
  · refine ⟨hst, hcnt, ?_⟩
    rw [paramWrite, if_neg notFull, if_neg (by simp [seal_]), if_neg (by simp [ok])]
    refine (paramLast_of_keeps ((logEntry_keeps ..).trans (tell_keeps ..)) ..).trans ?_
    exact paramLast_setParam { g with sealCnt := g.sealCnt + 1 } ok

section TimeWrite
variable {g : Sag} (room : g.audit.length < 1024) (secs : Nat)
include room

theorem timeWrite_sealed (seal_ : g.sealN = true) : let x := timeWrite secs g
    x.1 = 0 ∧ x.2.setPend = some (secs, true) ∧ x.2.sealCnt = g.sealCnt ∧ x.2.audit.length = g.audit.length + 1 := by
  have notFull : ¬logFull g = true := by simpa [logFull] using room
  have entry (e : BitVec 256) (h : Sag) : (logEntry e h).setPend = h.setPend ∧ (logEntry e h).sealCnt = h.sealCnt ∧
      (logEntry e h).audit = h.audit ++ [e] := by
    unfold logEntry
    dsimp only
    split
    · exact ⟨rfl, rfl, rfl⟩
    · exact ⟨rfl, rfl, rfl⟩
  rw [timeWrite, if_neg notFull, if_pos seal_]
  obtain ⟨hpend, hcnt, haudit⟩ := entry (auditEntry g 4 0 g.sealCnt (BitVec.ofNat 64 (g.time / secLen)) (BitVec.ofNat 64 secs))
    { g with setPend := some (secs, true) }
  exact ⟨rfl, hpend, hcnt, by rw [haudit, List.length_append]; rfl⟩
theorem timeWrite_first (unsealed : g.sealN = false) (invalid : g.timeValid = false) (idle : g.setPend = none) :
    timeWrite secs g = (0, { g with setPend := some (secs, false) }) := by
  have notFull : ¬logFull g = true := by simpa [logFull] using room
  rw [timeWrite, if_neg notFull, if_neg (by simp [unsealed]), if_pos ⟨invalid, idle⟩]
  rfl
end TimeWrite

section Frames
variable {s : State} (hv : s.dp.variant = .ms) (hp : s.sg.powered = true)
include hv hp

theorem exec_mtrStatus : exec .mtrStatus s =
    .next { s with sg := meterAnswer mOk (bytesOf 24 (statusImage s.sg).toNat) s.sg } :=
  onSag_of_powered hv hp fun g => meterAnswer mOk (bytesOf 24 (statusImage g).toNat) g
theorem exec_mtrTime : exec .mtrTime s = .next { s with
    sg := meterAnswer mOk (bytesOf 6 (s.sg.time / secLen) ++ bytesOf 4 (s.sg.time % secLen / 2) ++ bytesOf 1 (s.sg.time % 2)) s.sg } :=
  onSag_of_powered hv hp fun g => meterAnswer mOk
    (bytesOf 6 (g.time / secLen) ++ bytesOf 4 (g.time % secLen / 2) ++ bytesOf 1 (g.time % 2)) g
theorem exec_windowRead (seq : BitVec 32) : exec (.windowRead seq) s = .next { s with
    sg := match s.sg.records.find? fun w => w.seq == seq.toNat with
      | some w => meterAnswer mOk (recordBytes w) s.sg
      | none => meterAnswer mNotFound [] s.sg } :=
  onSag_of_powered hv hp fun g => match g.records.find? fun w => w.seq == seq.toNat with
    | some w => meterAnswer mOk (recordBytes w) g
    | none => meterAnswer mNotFound [] g
theorem exec_auditRead (i : BitVec 16) : exec (.auditRead i) s = .next { s with
    sg := match s.sg.audit[i.toNat]? with
      | some e => meterAnswer mOk (bytesOf 32 e.toNat) s.sg
      | none => meterAnswer mNotFound [] s.sg } :=
  onSag_of_powered hv hp fun g => match g.audit[i.toNat]? with
    | some e => meterAnswer mOk (bytesOf 32 e.toNat) g
    | none => meterAnswer mNotFound [] g
theorem exec_paramGet (p i : Byte) : exec (.paramGet p i) s = .next { s with
    sg := match paramNow s.sg p.toNat i.toNat with
      | some v => meterAnswer mOk (bytesOf 8 v.toNat) s.sg
      | none => meterAnswer mBadParam [] s.sg } :=
  onSag_of_powered hv hp fun g => match paramNow g p.toNat i.toNat with
    | some v => meterAnswer mOk (bytesOf 8 v.toNat) g
    | none => meterAnswer mBadParam [] g
end Frames

/-- Settles O35: each frame with its status, its data and their CRC. -/
theorem meterPortAnswers : Obligations.MeterPortAnswers := by
  intro s hv hp
  refine ⟨exec_mtrStatus hv hp, exec_mtrTime hv hp, fun seq w held => ?_, fun seq gone => ?_, fun i e held => ?_,
    fun i past => ?_, fun p i v held => ?_, fun p i none => ?_,
    fun p i v => ⟨exec_paramSet_of_powered hv hp p i v, paramWrite_done⟩,
    fun secs => ⟨exec_setTime_of_powered hv hp secs, fun room => timeWrite_sealed room _, fun room unsealed invalid idle => ?_⟩⟩
  · rw [exec_windowRead hv hp, held]
    rfl
  · rw [exec_windowRead hv hp, gone]
    rfl
  · rw [exec_auditRead hv hp, held]
    rfl
  · rw [exec_auditRead hv hp, List.getElem?_eq_none past]
    rfl
  · rw [exec_paramGet hv hp, held]
    rfl
  · rw [exec_paramGet hv hp, none]
    rfl
  · rw [timeWrite_first room _ unsealed invalid idle]
    exact ⟨rfl, rfl⟩

end Sys2Proof.Machine
end

/-! PROOF. The rows of long operations (R142, R302, R309, R355, R444), and the frame of the rows of the data plane (R412). -/
section
namespace Sys2Proof.Machine
open Sys2Proof

/-! ### Long operations -/

section Operation
variable {n : Nat} {o : LongOp} {s : State} (there : op? s.dp n = some o)
include there

theorem exec_longOperationComplete_running (run : o.ended = none) :
    exec (.longOperationComplete n) s = .next (settled (finishWork o s)) := by
  refine congrArg Host.Outcome.next ?_
  simp only [there, run, Option.isNone_none, if_true]
theorem exec_longOperationComplete_ended (ended : o.ended ≠ none) (cold : s.mg.warm = false) :
    exec (.longOperationComplete n) s = .next (sendDone n s) := by
  refine congrArg Host.Outcome.next ?_
  simp only [there, cold, Bool.false_eq_true, false_and, if_false]
  exact if_neg (by simpa using ended)
theorem exec_trainingCommandTimeout_linkUp (run : o.ended = none) {j : Nat} (work : o.work = .linkUp j)
    (late : (link s.dp j).state ≠ .active) : exec (.trainingCommandTimeout n) s = .next (endWith o sTimeout s) := by
  refine congrArg Host.Outcome.next ?_
  simp only [there, run, work, Option.isSome_none, Bool.false_eq_true, if_false]
  exact if_neg late
theorem exec_trainingCommandTimeout_linkTrain (run : o.ended = none) {i : Nat} (work : o.work = .linkTrain i)
    (late : (port s.dp i).state ≠ .active) : exec (.trainingCommandTimeout n) s = .next (endWith o sTimeout s) := by
  refine congrArg Host.Outcome.next ?_
  simp only [there, run, work, Option.isSome_none, Bool.false_eq_true, if_false]
  exact if_neg late
end Operation

/-- A walk of lines with nothing left and no line in hand ends, PARTIAL where it skipped a line. -/
theorem finishWork_walk {o : LongOp} {s : State} (work : o.work = .cleanAll ∨ (∃ b l, o.work = .clean b l ∨ o.work = .clinv b l) ∨
    ∃ b l k, o.work = .inval b l k) (left : nextWayFor s.dp o = none) (hand : o.inHand = 0) :
    finishWork o s = endWith o (partialIf o.c) s := by
  have done : walked o s.dp = true := by simp [walked, left, hand]
  rcases work with e | ⟨_, _, e | e⟩ | ⟨_, _, _, e⟩
  all_goals
    unfold finishWork
    simp only [e, done, if_true]

/-- A CACHE_DISABLE goes on while a way, a line in hand or a write is left. -/
theorem finishWork_disable {o : LongOp} {s : State} (work : o.work = .disable)
    (left : nextWayFor s.dp o ≠ none ∨ o.inHand ≠ 0 ∨ writesQueued s.dp = false) : finishWork o s = s := by
  have more : (walked o s.dp && writesQueued s.dp) = false := by
    rcases left with h | h | h
    · obtain ⟨x, hx⟩ := Option.ne_none_iff_exists'.1 h
      simp [walked, hx]
    · simp [walked, h]
    · rw [h, Bool.and_false]
  unfold finishWork
  simp only [work, more, Bool.false_eq_true, if_false]

/-- Settles O39: each row by the work of its operation. -/
theorem longOperationRowsAct : Obligations.LongOperationRowsAct := by
  refine ⟨fun n o s there => ⟨fun run => ⟨exec_longOperationComplete_running there run, fun work left hand => ?_, fun work left => ?_⟩,
    exec_longOperationComplete_ended there, fun run => ⟨fun _ => exec_trainingCommandTimeout_linkUp there run,
      fun _ => exec_trainingCommandTimeout_linkTrain there run⟩⟩, fun h s held loud => ?_⟩
  · rw [exec_longOperationComplete_running there run, finishWork_walk work left hand]
    rfl
  · rw [exec_longOperationComplete_running there run, finishWork_disable work left]
  · refine congrArg Host.Outcome.next ?_
    simp only [held, heldReply, loud, Bool.false_eq_true, if_false, onDp_dp]
    rfl

/-! ### The rows of the data plane -/

/-- A row of the data plane is a change of the plane, in the run state. -/
theorem exec_planeRow {c : Instr} (h : planeRow c = true) (s : State) : ∃ f, exec c s = onPlane f s := by
  cases c <;> simp only [planeRow, Bool.false_eq_true] at h <;> simp only [exec]
  case trainingStepTimeout e => exact ⟨_, by rw [execTrainingStepTimeout]⟩
  case evnWbData f b => exact ⟨_, by rw [execEvnWbData]⟩
  case trainingEnd e t => exact ⟨_, by unfold execTrainingEnd; rfl⟩
  all_goals exact ⟨_, rfl⟩

theorem onPlane_frame {f : Plane → Plane} {s t : State} (h : onPlane f s = .next t) :
    t = { s with dp := t.dp } ∧ (s.mg.life ≠ .run → t = s) := by
  by_cases run : s.mg.life = .run
  · rw [onPlane_run f s run] at h
    cases h
    exact ⟨rfl, fun stopped => absurd run stopped⟩
  · rw [onPlane_off f s run] at h
    cases h
    exact ⟨rfl, fun _ => rfl⟩

/-- The settings of a channel whose full training has ended. -/
def savedSettings (ch : Fin 64) (failed : Bool) (s : State) : Mgmt :=
  if ((chan s.dp ch).state == .training && !failed) = true ∧ s.mg.life = .run then
    { s.mg with settings := tput 0 s.mg.settings ch (s.mg.rateCur + 1) } else s.mg
theorem exec_retrainPauseEnd (ch : Fin 64) (failed : Bool) (s : State) :
    exec (.retrainPauseEnd ch failed) s = onPlane (pauseEnd ch failed) { s with mg := savedSettings ch failed s } := rfl
theorem savedSettings_frame (ch : Fin 64) (failed : Bool) (s : State) :
    savedSettings ch failed s = { s.mg with settings := (savedSettings ch failed s).settings } ∧
      (∀ k, k ≠ ch.val → tget 0 (savedSettings ch failed s).settings k = tget 0 s.mg.settings k) ∧
      (s.mg.life ≠ .run → savedSettings ch failed s = s.mg) := by
  unfold savedSettings
  split
  next h => exact ⟨rfl, fun k hk => tget_tput_other 0 s.mg.settings (s.mg.rateCur + 1) hk, fun stopped => absurd h.2 stopped⟩
  next => exact ⟨rfl, fun _ _ => rfl, fun _ => rfl⟩

/-- Settles O60: the rows are changes of the plane, the end of a pause besides one of its channel's settings. -/
theorem dataPlaneRowsLeaveTheRestAlone : Obligations.DataPlaneRowsLeaveTheRestAlone := by
  refine ⟨fun c s t row h => ?_, fun ch failed s t h => ?_⟩
  · obtain ⟨f, e⟩ := exec_planeRow row s
    exact onPlane_frame (e.symm.trans h)
  · obtain ⟨frame, others, same⟩ := savedSettings_frame ch failed s
    rw [exec_retrainPauseEnd] at h
    obtain ⟨eq, off⟩ := onPlane_frame h
    have life : (savedSettings ch failed s).life = s.mg.life := by rw [frame]
    have mg : t.mg = savedSettings ch failed s := by rw [eq]
    refine ⟨?_, fun k hk => by rw [mg]; exact others k hk, fun stopped => ?_⟩
    · rw [eq]
      exact congrArg (fun m => ({ s with mg := m, dp := t.dp } : State)) frame
    · rw [off (life.trans_ne stopped), same stopped]

end Sys2Proof.Machine
end

/-! PROOF. Requests and evictions that agents and other modules send (R40, R60 to R72, R91, R93, R241, R251): the row hands a message that
is taken to the operation of its kind, and that operation's branches are the outcomes. -/
section
namespace Sys2Proof.Machine
open Sys2Proof

section Requests
variable {op : ReqOp} {b : Body} {s p : Plane}

/-- The fourteen REQ rows. -/
theorem exec_reqRow (op : ReqOp) (f : From) (b : Body) {s : State} (run : s.mg.life = .run) :
    exec (reqRow op f b) s = planeTurns (request op f b s.dp) s :=
  (show exec (reqRow op f b) s = onPlane (request op f b) s by cases op <;> rfl).trans (onPlane_run _ _ run)

theorem request_port {i : Fin 32} (taken : agentTakes s p i 0 (opBits op) (asSlots (agentSlots 0 (opBits op)) b)) :
    request op (.port i) b s = portReq i op (asSlots (agentSlots 0 (opBits op)) b) p := fromPort_taken _ _ _ _ _ _ _ taken
theorem joinSlots_request (h : op ≠ .fence) : (joinSlots 0 (opBits op)).isSome = true := by
  cases op with
  | fence => exact absurd rfl h
  | _ => rfl
theorem request_link {j : Fin 16} {r : Route} (h : op ≠ .fence)
    (taken : linkTakes s p j r 0 0 (opBits op) (asSlots (joinSlots 0 (opBits op)) b)) :
    request op (.link j r) b s = joinReq j r op (asSlots (joinSlots 0 (opBits op)) b) p :=
  fromLink_taken _ _ _ _ _ _ _ _ _ (joinSlots_request h) taken
theorem request_fence_link {j : Fin 16} {r : Route} (active : (link s j).state = .active) :
    request .fence (.link j r) b s = failLink j s := if_pos active

/-! ### REQ of an agent -/

section Port
variable {i : Nat}

theorem portReq_busy (h : (tfind (port p i).tags b.tag.toNat).isSome = true) : portReq i op b p = contain i cTag p := if_pos h

variable (free : tfind (port p i).tags b.tag.toNat = none)
include free

theorem portReq_free : portReq i op b p =
    let q := setPort p i { port p i with tags := tset (port p i).tags b.tag.toNat { sub := b.sub.toNat } }
    if (port p i).hop.draining then
      sendErr { op := op, port := i, sub := b.sub.toNat, tag := b.tag, t0 := q.clock } rAborted (giveCredit i 0 q)
    else match checkReq q i op b with
    | .fail reason s => sendErr
        { op := op, port := i, sub := b.sub.toNat, tag := b.tag, inst := b.inst.toNat, priv := b.priv, t0 := q.clock }
        reason (giveCredit i 0 (checkFailed i op b reason s q))
    | .page => answerPage i op b (giveCredit i 0 q)
    | .pass r => offerReq r q := if_neg (by simp [free])
end Port

/-! ### REQ of another module -/

section Join
variable {j : Nat} {r : Route}

theorem joinReq_drain (drain : drainOn p = true) : joinReq j r op b p =
    setLink p j { link p j with rx := (link p j).rx ++ [.join r 0 0 (opBits op) b] } := if_pos drain

variable (quiet : drainOn p = false)
include quiet

theorem joinReq_io (io : isIo op = true) : joinReq j r op b p =
    if present p.dw.cur p.dw.node = false then
      ioOver r r.port.toNat b.sub.toNat b.addr (.error rNodeAbsent) (giveJoin j 0 r.vcb p)
    else if (port p r.port.toNat).state = .active then
      { sendTagged r.port.toNat (.ioRemote r) 0 (opBits op) { b with sub := BitVec.ofNat 3 b.sub.toNat } p with
        joinHeld := (sendTagged r.port.toNat (.ioRemote r) 0 (opBits op)
          { b with sub := BitVec.ofNat 3 b.sub.toNat } p).joinHeld ++ [(j, 0, r.vcb, [.ioRemote r])] }
    else ioOver r r.port.toNat b.sub.toNat b.addr (.error rAborted) (giveJoin j 0 r.vcb p) := by
  unfold joinReq
  rw [if_neg (by simp [quiet]), if_pos io]
  cases present p.dw.cur p.dw.node with
  | false => rfl
  | true =>
    simp only [Bool.not_true, Bool.false_eq_true, Bool.true_eq_false, if_false, ioToPort]
    by_cases up : (port p r.port.toNat).state = .active
    · simp only [if_pos up]
      rfl
    · simp only [if_neg up]

/-- The request waits for an entry of the pool, since `w` where none is free. -/
def joinWaits (j : Nat) (r : Route) (op : ReqOp) (b : Body) (p : Plane) (w : Option Nat) : Plane :=
  { p with joinWait := p.joinWait ++ [(j, r, op, b, w)] }

theorem joinReq_line (line : isIo op = false) : joinReq j r op b p =
    match pickAdmit (joinWaits j r op b p none) (lineTile (spaLine b.addr)) with
    | some (.join ent) => admitJoin (lineTile (spaLine b.addr)) ent (joinWaits j r op b p none)
    | _ => occur (lineTile (spaLine b.addr)) 0x7002 (joinOcc r op b) (joinWaits j r op b p (some p.clock)) := by
  unfold joinReq
  rw [if_neg (by simp [quiet]), if_neg (by simp [line])]
  rfl
end Join
end Requests

/-- Settles O41: a request that its port takes, by tag, drain and checks. -/
theorem requestsOfAgentsGetTheirOutcome : Obligations.RequestsOfAgentsGetTheirOutcome := by
  intro op i b s run m p taken q row
  have act : row = planeTurns (portReq i op m p) s := (exec_reqRow op (.port i) b run).trans (by rw [request_port taken])
  refine ⟨fun busy => act.trans (by rw [portReq_busy busy]), fun free => ?_⟩
  rw [act, portReq_free free]
  refine ⟨fun drain => by rw [if_pos drain], fun quiet => ?_⟩
  rw [if_neg (by simp [quiet])]
  exact ⟨fun r pass => by rw [pass], fun page => by rw [page], fun reason spa fail => by rw [fail]⟩

/-- Settles O42: a request that its link takes, by drain, kind and what its target port or home tile grants. -/
theorem requestsOfOtherModulesAreTaken : Obligations.RequestsOfOtherModulesAreTaken := by
  refine ⟨?_, fun j r b s run active => ?_⟩
  · intro op j r b s run notFence m p taken row
    have act : row = planeTurns (joinReq j r op m p) s :=
      (exec_reqRow op (.link j r) b run).trans (by rw [request_link notFence taken])
    rw [act]
    refine ⟨fun drain => by rw [joinReq_drain drain], fun quiet io => ?_, fun quiet line => ?_⟩
    · rw [joinReq_io quiet io]
      exact ⟨fun absent => by rw [if_pos absent], fun there down => by rw [if_neg (by simp [there]), if_neg down],
        fun there up => by rw [if_neg (by simp [there]), if_pos up]⟩
    · rw [joinReq_line quiet line]
      refine ⟨fun ent grant => ?_, fun waits => ?_⟩
      · have grant' : pickAdmit (joinWaits j r op m p none) (lineTile (spaLine m.addr)) = some (.join ent) := grant
        rw [grant']
        rfl
      · split
        next ent grant => exact absurd grant (waits ent)
        next => rfl
  · exact (exec_reqRow .fence (.link j r) b run).trans (by rw [request_fence_link active])

/-! ### Evictions -/

section Evictions
variable {b : Body} {s : State} (run : s.mg.life = .run) {p : Plane}

section Port
variable {i : Fin 32} (taken : agentTakes s.dp p i 2 0 (asSlots (agentSlots 2 0) b))
include run taken

theorem exec_evnWbData_port : exec (.evnWbData (.port i) b) s = planeTurns (portEvict i (asSlots (agentSlots 2 0) b) p) s :=
  (show exec (.evnWbData (.port i) b) s = onPlane (fromPort i 2 0 b fun b => portEvict i b) s by
    rw [exec, execEvnWbData]).trans ((onPlane_run _ _ run).trans (by rw [fromPort_taken _ _ _ _ _ _ _ taken]))
end Port

include run in
theorem exec_evnWbData_link {j : Fin 16} {r : Route} (taken : linkTakes s.dp p j r 0 2 0 (asSlots (joinSlots 2 0) b)) :
    exec (.evnWbData (.link j r) b) s = planeTurns (joinEvict j r (asSlots (joinSlots 2 0) b) p) s :=
  (show exec (.evnWbData (.link j r) b) s = onPlane (fromLink j r 0 2 0 b fun b => joinEvict j r b) s by
    rw [exec, execEvnWbData]).trans ((onPlane_run _ _ run).trans (by rw [fromLink_taken _ _ _ _ _ _ _ _ _ rfl taken]))
end Evictions

/-- The plane in which an eviction has taken its tag and given its credit back. -/
def evictTagged (i : Nat) (b : Body) (p : Plane) : Plane :=
  giveCredit i 2 (setPort p i { port p i with tags := tset (port p i).tags b.tag.toNat { sub := b.sub.toNat, evn := true } })
theorem portEvict_free {i : Nat} {b : Body} {p : Plane} (free : tfind (port p i).tags b.tag.toNat = none) : portEvict i b p =
    let q := evictTagged i b p
    if spaNode b.addr = q.dw.node then
      arriveEvict (spaLine b.addr) { node := q.dw.node, port := i, sub := b.sub.toNat, tag := b.tag } b.data (b.info.getLsbD 0) q
    else toNode (baseRoute q (spaNode b.addr) b.tag i) 2 0
      { mkBody 0 b.sub.toNat b.info (lineBase b.addr) with data := b.data, mask := fullMask } q := if_neg (by simp [free])

theorem toNat_lineBase (a : Spa) : (lineBase a).toNat = a.toNat / 64 * 64 := by
  have low : (a.extractLsb' 6 47).toNat = a.toNat / 64 := by
    rw [BitVec.extractLsb'_toNat, Nat.shiftRight_eq_div_pow]
    omega
  rw [lineBase, BitVec.toNat_append, low, Nat.shiftLeft_eq]
  exact Nat.or_zero _

/-- Settles O43: an eviction that its port or link takes, by tag and home. -/
theorem evictionsReachTheirHome : Obligations.EvictionsReachTheirHome := by
  refine ⟨?_, fun _ _ _ _ run => ?_⟩
  · intro i b s run m p taken
    refine ⟨fun busy => by rw [exec_evnWbData_port run taken, portEvict, if_pos busy], fun free => ?_⟩
    intro q
    rw [exec_evnWbData_port run taken, portEvict_free free]
    refine ⟨fun local_ => ?_, fun remote => ?_⟩
    · exact congrArg (planeTurns · s) (if_pos local_)
    · exact ⟨_, _, congrArg (planeTurns · s) (if_neg remote), rfl, rfl, rfl, rfl, rfl, rfl, toNat_lineBase m.addr⟩
  · intro m p taken
    exact exec_evnWbData_link run taken

end Sys2Proof.Machine
end

/-! PROOF. The answers that agents and other modules send (R66 to R72, R106, R111 to R116, R195, R245, R351): a reply is taken for the tag it
names, and only an answer to a snoop can be held by engine 3 on the way. -/
section
namespace Sys2Proof.Machine
open Sys2Proof

/-! ### The tag that an answer names -/

section Tags
variable {i sub : Nat} {tag : BitVec 16} {info : BitVec 18} {x : Reply} {p : Plane}

theorem giveCredit_mtags (i cls : Nat) (p : Plane) : (port (giveCredit i cls p) i).mtags = (port p i).mtags := by
  unfold giveCredit
  dsimp only
  split
  · rw [port_setPort]
  · split
    · rw [port_setPort]
      rfl
    · rw [port_setPort]
      unfold returnCredits
      dsimp only
      split <;> rfl

theorem answersSnoop_of_snoop {pt : Port} {n : Nat} {g : ModTag} (h : tfind pt.mtags n = some g) (hc : g.cls = 1) :
    answersSnoop pt n = true := by
  unfold answersSnoop
  rw [h]
  exact beq_iff_eq.2 hc
theorem answersSnoop_of_other {pt : Port} {n : Nat} (h : ∀ g, tfind pt.mtags n = some g → g.cls ≠ 1) : answersSnoop pt n = false := by
  unfold answersSnoop
  split
  next g hg => exact beq_false_of_ne (h g hg)
  next => rfl

/-- A reply is taken, or it contains the port. -/
theorem portReply_eq (i : Nat) (b : Body) (x : Reply) (p : Plane) :
    portReply i b x p = (takeReply i b.tag b.sub.toNat b.info x p).getD (contain i cUnexpected p) := by
  unfold portReply
  generalize contain i cUnexpected p = c
  cases takeReply i b.tag b.sub.toNat b.info x p <;> rfl

theorem takeReply_of_tag {g : ModTag} (h : tfind (port p i).mtags tag.toNat = some g) (hs : g.body.sub.toNat = sub) :
    takeReply i tag sub info x p =
      (useReply i g sub info x (freeModTag i tag.toNat p)).orElse fun _ => takeLate i tag sub x p := by
  unfold takeReply
  simp only [h]
  exact if_neg (not_not_intro hs)
/-- An answer to a snoop is told to the transaction that snooped. -/
theorem takeReply_snoop {g : ModTag} (h : tfind (port p i).mtags tag.toNat = some g) (hs : g.body.sub.toNat = sub) {id : Nat}
    (use : g.use = .snoop id) {y : Ans} (hy : asAns info x = some y) : takeReply i tag sub info x p =
      some (answer id (freeModTag i tag.toNat p).dw.node (ownAgent (freeModTag i tag.toNat p) i sub) y (freeModTag i tag.toNat p)) := by
  have used : useReply i g sub info x (freeModTag i tag.toNat p) =
      some (answer id (freeModTag i tag.toNat p).dw.node (ownAgent (freeModTag i tag.toNat p) i sub) y (freeModTag i tag.toNat p)) := by
    simp only [useReply, use, hy, Option.map_some]
  rw [takeReply_of_tag h hs, used, Option.orElse_some]
/-- An answer to forwarded I/O ends it. -/
theorem takeReply_io {g : ModTag} (h : tfind (port p i).mtags tag.toNat = some g) (hs : g.body.sub.toNat = sub) {n : Nat}
    (use : g.use = .io n) {y : Except (BitVec 8) (Option (Line × Bool))} (hy : asIo g.op x = some y) :
    takeReply i tag sub info x p = some (ioAnswered n y (freeModTag i tag.toNat p)) := by
  have used : useReply i g sub info x (freeModTag i tag.toNat p) = some (ioAnswered n y (freeModTag i tag.toNat p)) := by
    simp only [useReply, use, hy, Option.map_some]
  rw [takeReply_of_tag h hs, used, Option.orElse_some]
theorem takeReply_none (h : tfind (port p i).mtags tag.toNat = none) (late : tag.toNat ∉ (port p i).lateTags) :
    takeReply i tag sub info x p = none := by
  simp only [takeReply, h, takeLate]
  exact if_neg (by simpa using late)
end Tags

/-! ### Engine 3 on an answer to a snoop -/

section Stretched
variable {i : Nat} {cls : BitVec 3} {op : BitVec 5} {b : Body} {x : Reply} {p : Plane}

theorem stretched_other (h : ∀ g, tfind (port p i).mtags b.tag.toNat = some g → g.cls ≠ 1) :
    stretched i cls op b x p = portReply i b x (if cls = 3 then giveCredit i 3 p else p) := by
  unfold stretched
  simp only [answersSnoop_of_other h, Bool.false_eq_true, false_and, if_false]

variable {g : ModTag} (h : tfind (port p i).mtags b.tag.toNat = some g) (hc : g.cls = 1)
include h hc

theorem stretched_held (late : (delayE (engineOf (port p i) 3)).1 ≠ 0) : stretched i cls op b x p =
    setPort p i (setEngine (port p i) 3 { (delayE (engineOf (port p i) 3)).2 with
      held := (delayE (engineOf (port p i) 3)).2.held ++ [((delayE (engineOf (port p i) 3)).1, .msg cls op b)] }) := by
  unfold stretched
  exact if_pos ⟨answersSnoop_of_snoop h hc, late⟩
theorem stretched_passed (now : (delayE (engineOf (port p i) 3)).1 = 0) :
    let u := setPort p i (setEngine (port p i) 3 (delayE (engineOf (port p i) 3)).2)
    stretched i cls op b x p = portReply i b x (if cls = 3 then giveCredit i 3 u else u) := by
  unfold stretched
  simp only [now, ne_eq, not_true_eq_false, and_false, if_false, answersSnoop_of_snoop h hc, if_true]
end Stretched

/-! ### The rows -/

/-- The answers to a snoop without data. -/
def snoopRows : List ((From → Body → Instr) × BitVec 5 × Ans) :=
  [(.rspI, 0, .i), (.rspS, 1, .s), (.rspIWbpend, 2, .wbpend)]
/-- The answers with data. -/
def dataRows : List ((From → Body → Instr) × Bool) := [(.datData, false), (.datDataPoison, true)]
/-- The answers that complete a message of the module. -/
def compRows (b : Body) : List ((From → Body → Instr) × BitVec 5 × Reply) :=
  [(.rspComp, 8, .comp), (.rspCompErr, 9, .err (infoLow8 b.info))]
/-- The answers that another module may send. -/
def joinRows (b : Body) : List ((From → Body → Instr) × BitVec 3 × BitVec 5 × Option Ans) :=
  [(.rspI, 4, 0, some .i), (.rspS, 4, 1, some .s), (.rspIWbpend, 4, 2, some .wbpend), (.rspComp, 4, 8, none), (.rspCompErr, 4, 9, none),
    (.datData, 3, 0, some (.data (dirtyBit b.info) (keepS b.info) b.data)), (.datDataPoison, 3, 1, some .poison)]

section Rows
variable {b : Body} {s : State} (run : s.mg.life = .run) {i : Fin 32} {p : Plane}
include run

theorem exec_snoopRow {row : From → Body → Instr} {op : BitVec 5} {x : Ans} (h : (row, op, x) ∈ snoopRows)
    (taken : agentTakes s.dp p i 4 op (asSlots (some 1) b)) :
    exec (row (.port i) b) s = planeTurns (stretched i 4 op (asSlots (some 1) b) (.snoop x) p) s := by
  have act : exec (row (.port i) b) s = onPlane (fromPort i 4 op b fun b => stretched i 4 op b (.snoop x)) s ∧
      agentSlots 4 op = some 1 := by
    simp only [snoopRows, List.mem_cons, Prod.mk.injEq, List.not_mem_nil, or_false] at h
    rcases h with ⟨rfl, rfl, rfl⟩ | ⟨rfl, rfl, rfl⟩ | ⟨rfl, rfl, rfl⟩
    · exact ⟨rfl, rfl⟩
    · exact ⟨rfl, rfl⟩
    · exact ⟨rfl, rfl⟩
  obtain ⟨act, slots⟩ := act
  rw [act, onPlane_run _ _ run, fromPort_taken _ _ _ _ _ _ _ (by rw [slots]; exact taken), slots]

theorem exec_dataRow {row : From → Body → Instr} {poison : Bool} (h : (row, poison) ∈ dataRows)
    (taken : agentTakes s.dp p i 3 (if poison then 1 else 0) (asSlots (some 5) b)) :
    exec (row (.port i) b) s = planeTurns (stretched i 3 (if poison then 1 else 0) (asSlots (some 5) b)
      (.data b.data poison) p) s := by
  have act : exec (row (.port i) b) s = onPlane (fromPort i 3 (if poison then 1 else 0) b fun b =>
      stretched i 3 (if poison then 1 else 0) b (.data b.data poison)) s ∧ agentSlots 3 (if poison then 1 else 0) = some 5 := by
    simp only [dataRows, List.mem_cons, Prod.mk.injEq, List.not_mem_nil, or_false] at h
    rcases h with ⟨rfl, rfl⟩ | ⟨rfl, rfl⟩
    · exact ⟨rfl, rfl⟩
    · exact ⟨rfl, rfl⟩
  obtain ⟨act, slots⟩ := act
  rw [act, onPlane_run _ _ run, fromPort_taken _ _ _ _ _ _ _ (by rw [slots]; exact taken), slots]
  rfl

theorem exec_compRow {row : From → Body → Instr} {op : BitVec 5} {x : Reply} (h : (row, op, x) ∈ compRows b)
    (taken : agentTakes s.dp p i 4 op (asSlots (some 1) b)) :
    exec (row (.port i) b) s = planeTurns (portReply i (asSlots (some 1) b) x p) s := by
  simp only [compRows, List.mem_cons, Prod.mk.injEq, List.not_mem_nil, or_false] at h
  rcases h with ⟨rfl, rfl, rfl⟩ | ⟨rfl, rfl, rfl⟩
  · exact (onPlane_run (ioAnswer 8 (fun _ => .comp) (.port i) b) s run).trans
      (congrArg (planeTurns · s) (fromPort_taken _ _ _ _ (fun b => portReply i b .comp) _ _ taken))
  · exact (onPlane_run (ioAnswer 9 (fun b => .err (infoLow8 b.info)) (.port i) b) s run).trans
      (congrArg (planeTurns · s) (fromPort_taken _ _ _ _ (fun b => portReply i b (.err (infoLow8 b.info))) _ _ taken))

theorem exec_rspCompAck (taken : agentTakes s.dp p i 4 0xA (asSlots (some 1) b)) :
    exec (.rspCompAck (.port i) b) s = planeTurns (portAck i (asSlots (some 1) b) p) s :=
  (onPlane_run (fromPort i 4 0xA b fun b => portAck i b) s run).trans
    (congrArg (planeTurns · s) (fromPort_taken _ _ _ _ _ _ _ taken))
theorem exec_rspLevel (taken : agentTakes s.dp p i 4 0x10 (asSlots (some 1) b)) :
    exec (.rspLevel (.port i) b) s = planeTurns (portLevel i (asSlots (some 1) b) p) s :=
  (onPlane_run (fromPort i 4 0x10 b fun b => portLevel i b) s run).trans
    (congrArg (planeTurns · s) (fromPort_taken _ _ _ _ _ _ _ taken))

section Link
variable {j : Fin 16} {r : Route}

theorem exec_joinRow {row : From → Body → Instr} {cls : BitVec 3} {op : BitVec 5} {x : Option Ans} (h : (row, cls, op, x) ∈ joinRows b)
    (taken : linkTakes s.dp p j r 0 cls op (asSlots (joinSlots cls op) b)) :
    exec (row (.link j r) b) s = planeTurns (joinAnswer j r cls.toNat op.toNat (asSlots (joinSlots cls op) b) x p) s := by
  have act : ∃ k, exec (row (.link j r) b) s = onPlane (fromLink j r 0 cls op b k) s ∧ (joinSlots cls op).isSome = true ∧
      k (asSlots (joinSlots cls op) b) p = joinAnswer j r cls.toNat op.toNat (asSlots (joinSlots cls op) b) x p := by
    simp only [joinRows, List.mem_cons, Prod.mk.injEq, List.not_mem_nil, or_false] at h
    rcases h with ⟨rfl, rfl, rfl, rfl⟩ | ⟨rfl, rfl, rfl, rfl⟩ | ⟨rfl, rfl, rfl, rfl⟩ | ⟨rfl, rfl, rfl, rfl⟩ | ⟨rfl, rfl, rfl, rfl⟩ |
      ⟨rfl, rfl, rfl, rfl⟩ | ⟨rfl, rfl, rfl, rfl⟩
    · exact ⟨fun b => joinAnswer j r 4 0 b (some .i), rfl, rfl, rfl⟩
    · exact ⟨fun b => joinAnswer j r 4 1 b (some .s), rfl, rfl, rfl⟩
    · exact ⟨fun b => joinAnswer j r 4 2 b (some .wbpend), rfl, rfl, rfl⟩
    · exact ⟨fun b => joinAnswer j r 4 8 b none, rfl, rfl, rfl⟩
    · exact ⟨fun b => joinAnswer j r 4 9 b none, rfl, rfl, rfl⟩
    · exact ⟨fun b => joinAnswer j r 3 0 b (some (.data (dirtyBit b.info) (keepS b.info) b.data)), rfl, rfl, rfl⟩
    · exact ⟨fun b => joinAnswer j r 3 1 b (some .poison), rfl, rfl, rfl⟩
  obtain ⟨k, act, slots, same⟩ := act
  rw [act, onPlane_run _ _ run, fromLink_taken _ _ _ _ _ _ _ _ _ slots taken, same]

theorem exec_rspCompAck_link (taken : linkTakes s.dp p j r 0 4 0xA (asSlots (some 1) b)) : exec (.rspCompAck (.link j r) b) s =
    planeTurns (joinAck (linkTile j) r (asSlots (some 1) b) (giveJoin j 4 r.vcb p)) s :=
  (onPlane_run (fromLink j r 0 4 0xA b fun b q => joinAck (linkTile j) r b (giveJoin j 4 r.vcb q)) s run).trans
    (congrArg (planeTurns · s) (fromLink_taken _ _ _ _ _ _ _ _ _ rfl taken))
theorem exec_rspLevel_link (active : (link s.dp j).state = .active) :
    exec (.rspLevel (.link j r) b) s = planeTurns (failLink j s.dp) s :=
  (onPlane_run (fromLink j r 0 4 0x10 b fun _ q => q) s run).trans (congrArg (planeTurns · s) (if_pos active))
end Link
end Rows

/-- An answer of another module counts for the snoop it answers, or reaches its request. -/
theorem joinAnswer_eq (j : Nat) (r : Route) (cls op : Nat) (b : Body) (x : Option Ans) (p : Plane) :
    joinAnswer j r cls op b x p = (x.bind fun y => joinSnoopAnswer r b y (giveJoin j cls r.vcb p)).getD
      (originAnswer (linkTile j) r cls op b (giveJoin j cls r.vcb p)) := by
  unfold joinAnswer
  dsimp only
  cases x.bind fun y => joinSnoopAnswer r b y (giveJoin j cls r.vcb p) <;> rfl

/-! ### RSP.COMP_ACK -/

section Ack
variable {i : Nat} {b : Body} {p : Plane}

theorem portAck_unknown (h : ∀ u, tfind (port p i).tags b.tag.toNat = some u → u.sub ≠ b.sub.toNat) :
    portAck i b p = contain i cUnexpected p := by
  unfold portAck takeAck
  dsimp only
  cases e : tfind (port p i).tags b.tag.toNat with
  | none => rfl
  | some u => simp only [if_pos (h u e)]

variable {u : TagUse} (h : tfind (port p i).tags b.tag.toNat = some u) (hs : u.sub = b.sub.toNat)
include h hs

theorem portAck_stray (early : u.ackDue = false) : portAck i b p = strayAck i b.tag b.sub.toNat p := by
  unfold portAck takeAck
  simp only [h, hs, ne_eq, not_true_eq_false, if_false, early, if_true]
theorem portAck_due (due : u.ackDue = true) :
    let q := setPort p i { port p i with tags := tdel (port p i).tags b.tag.toNat }
    portAck i b p = match u.home with
      | some x => ackOver i b.sub.toNat x.1 x.2 q
      | none => match u.job.bind (job? q) with
        | some k => ackJob k q
        | none => q := by
  unfold portAck takeAck
  simp only [h]
  rw [if_neg (not_not_intro hs), if_neg (by simp [due])]
  generalize setPort p i { port p i with tags := tdel (port p i).tags b.tag.toNat } = q
  cases u.home with
  | some x => rfl
  | none =>
    dsimp only
    cases u.job.bind (job? q) <;> rfl
end Ack

theorem setEngine_mtags (p : Plane) (i : Nat) (n : Nat) (e : Engine) :
    (port (setPort p i (setEngine (port p i) n e)) i).mtags = (port p i).mtags := by rw [port_setPort]; rfl

/-! ### The rows of an agent -/

section Agent
variable {b : Body} {s : State} (run : s.mg.life = .run) {i : Fin 32} {p : Plane}
include run

theorem snoopRow_act {row : From → Body → Instr} {op : BitVec 5} {x : Ans} (h : (row, op, x) ∈ snoopRows)
    (taken : agentTakes s.dp p i 4 op (asSlots (some 1) b)) :
    let m := asSlots (some 1) b
    let d := delayE (engineOf (port p i) 3)
    let ends := fun u => (takeReply i m.tag m.sub.toNat m.info (.snoop x) u).getD (contain i cUnexpected u)
    ((∀ g, tfind (port p i).mtags m.tag.toNat = some g → g.cls ≠ 1) → exec (row (.port i) b) s = planeTurns (ends p) s) ∧
    (∀ g, tfind (port p i).mtags m.tag.toNat = some g → g.cls = 1 →
      (d.1 ≠ 0 → exec (row (.port i) b) s = planeTurns (setPort p i
        (setEngine (port p i) 3 { d.2 with held := d.2.held ++ [(d.1, .msg 4 op m)] })) s) ∧
      (d.1 = 0 → let u := setPort p i (setEngine (port p i) 3 d.2)
        exec (row (.port i) b) s = planeTurns (ends u) s ∧
        (∀ id, g.body.sub = m.sub → g.use = .snoop id →
          let q := freeModTag i m.tag.toNat u
          exec (row (.port i) b) s = planeTurns (answer id q.dw.node (ownAgent q i m.sub.toNat) x q) s))) := by
  intro m d ends
  rw [exec_snoopRow run h taken]
  refine ⟨fun other => ?_, fun g hg hc => ⟨fun late => by rw [stretched_held hg hc late], fun now => ?_⟩⟩
  · rw [stretched_other other, if_neg (by decide), portReply_eq]
  · intro u
    have passed : stretched i 4 op m (.snoop x) p = ends u := by
      rw [stretched_passed hg hc now, if_neg (by decide), portReply_eq]
    refine ⟨by rw [passed], fun id hs use => ?_⟩
    have hg' : tfind (port u i).mtags m.tag.toNat = some g := by rw [setEngine_mtags]; exact hg
    rw [passed]
    dsimp only [ends]
    rw [takeReply_snoop hg' (congrArg BitVec.toNat hs) use (y := x) rfl, Option.getD_some]

theorem dataRow_act {row : From → Body → Instr} {poison : Bool} (h : (row, poison) ∈ dataRows) :
    let op : BitVec 5 := if poison then 1 else 0
    let m := asSlots (some 5) b
    agentTakes s.dp p i 3 op m →
    let d := delayE (engineOf (port p i) 3)
    let ends := fun u => (takeReply i m.tag m.sub.toNat m.info (.data m.data poison) u).getD (contain i cUnexpected u)
    ((∀ g, tfind (port p i).mtags m.tag.toNat = some g → g.cls ≠ 1) →
      exec (row (.port i) b) s = planeTurns (ends (giveCredit i 3 p)) s) ∧
    (∀ g, tfind (port p i).mtags m.tag.toNat = some g → g.cls = 1 →
      (d.1 ≠ 0 → exec (row (.port i) b) s = planeTurns (setPort p i
        (setEngine (port p i) 3 { d.2 with held := d.2.held ++ [(d.1, .msg 3 op m)] })) s) ∧
      (d.1 = 0 → let u := giveCredit i 3 (setPort p i (setEngine (port p i) 3 d.2))
        exec (row (.port i) b) s = planeTurns (ends u) s ∧
        (∀ id, g.body.sub = m.sub → g.use = .snoop id →
          let q := freeModTag i m.tag.toNat u
          exec (row (.port i) b) s = planeTurns (answer id q.dw.node (ownAgent q i m.sub.toNat)
            (if poison then .poison else .data (dirtyBit m.info) (keepS m.info) m.data) q) s))) := by
  intro op m taken d ends
  rw [exec_dataRow run h taken]
  refine ⟨fun other => ?_, fun g hg hc => ⟨fun late => by rw [stretched_held hg hc late], fun now => ?_⟩⟩
  · rw [stretched_other other, if_pos rfl, portReply_eq]
    rfl
  · intro u
    have passed : stretched i 3 op m (.data b.data poison) p = ends u := by
      rw [stretched_passed hg hc now, if_pos rfl, portReply_eq]
      rfl
    refine ⟨congrArg (planeTurns · s) passed, fun id hs use => ?_⟩
    have hg' : tfind (port u i).mtags m.tag.toNat = some g := by rw [giveCredit_mtags, setEngine_mtags]; exact hg
    refine (congrArg (planeTurns · s) passed).trans ?_
    dsimp only [ends]
    rw [takeReply_snoop hg' (congrArg BitVec.toNat hs) use
      (y := if poison then .poison else .data (dirtyBit m.info) (keepS m.info) m.data) rfl, Option.getD_some]

theorem compRow_act {row : From → Body → Instr} {op : BitVec 5} {x : Reply} (h : (row, op, x) ∈ compRows b)
    (taken : agentTakes s.dp p i 4 op (asSlots (some 1) b)) :
    let m := asSlots (some 1) b
    exec (row (.port i) b) s =
      planeTurns ((takeReply i m.tag m.sub.toNat m.info x p).getD (contain i cUnexpected p)) s ∧
    (∀ g n, tfind (port p i).mtags m.tag.toNat = some g → g.body.sub = m.sub → g.use = .io n → (op = 8 → g.op = 0x19) →
      exec (row (.port i) b) s = planeTurns (ioAnswered n
        (if op = 8 then .ok none else .error (infoLow8 b.info)) (freeModTag i m.tag.toNat p)) s) ∧
    (tfind (port p i).mtags m.tag.toNat = none → m.tag.toNat ∉ (port p i).lateTags →
      exec (row (.port i) b) s = planeTurns (contain i cUnexpected p) s) := by
  intro m
  rw [exec_compRow run h taken, portReply_eq]
  refine ⟨rfl, fun g n hg hs use kind => ?_, fun none late => ?_⟩
  · have ans : asIo g.op x = some (if op = 8 then .ok none else .error (infoLow8 b.info)) := by
      simp only [compRows, List.mem_cons, Prod.mk.injEq, List.not_mem_nil, or_false] at h
      rcases h with ⟨-, rfl, rfl⟩ | ⟨-, rfl, rfl⟩
      · exact if_pos (kind rfl)
      · rfl
    rw [takeReply_io hg (congrArg BitVec.toNat hs) use ans, Option.getD_some]
  · rw [takeReply_none none late, Option.getD_none]

theorem rspCompAck_act (taken : agentTakes s.dp p i 4 0xA (asSlots (some 1) b)) :
    let m := asSlots (some 1) b
    (∀ u, tfind (port p i).tags m.tag.toNat = some u → u.sub = m.sub.toNat →
      let q := setPort p i { port p i with tags := tdel (port p i).tags m.tag.toNat }
      (u.ackDue = false → exec (.rspCompAck (.port i) b) s = planeTurns (strayAck i m.tag m.sub.toNat p) s) ∧
      (∀ id k, u.ackDue = true → u.home = none → u.job = some id → job? q id = some k →
        exec (.rspCompAck (.port i) b) s = planeTurns (ackJob k q) s) ∧
      (u.ackDue = true → u.home = none → u.job.bind (job? q) = none → exec (.rspCompAck (.port i) b) s = planeTurns q s) ∧
      (∀ x, u.ackDue = true → u.home = some x →
        exec (.rspCompAck (.port i) b) s = planeTurns (ackOver i m.sub.toNat x.1 x.2 q) s)) ∧
    ((∀ u, tfind (port p i).tags m.tag.toNat = some u → u.sub ≠ m.sub.toNat) →
      exec (.rspCompAck (.port i) b) s = planeTurns (contain i cUnexpected p) s) := by
  intro m
  rw [exec_rspCompAck run taken]
  refine ⟨fun u hu hs => ?_, fun unknown => by rw [portAck_unknown unknown]⟩
  intro q
  have ack (due : u.ackDue = true) : portAck i m p = match u.home with
      | some x => ackOver i m.sub.toNat x.1 x.2 q
      | none => match u.job.bind (job? q) with
        | some k => ackJob k q
        | none => q := portAck_due hu hs due
  refine ⟨fun early => by rw [portAck_stray hu hs early], fun id k due home job there => ?_, fun due home gone => ?_,
    fun x due home => ?_⟩
  · have found : u.job.bind (job? q) = some k := by rw [job]; exact there
    rw [ack due, home]
    simp only [found]
  · rw [ack due, home]
    simp only [gone]
  · rw [ack due, home]
end Agent

/-- Settles O44: the rows of an agent by the tag they name; those of another module by the snoop or request they answer. -/
theorem answersOfAgentsAreTaken : Obligations.AnswersOfAgentsAreTaken := by
  refine ⟨fun i b s run => ⟨fun row op x h => ?_, fun row poison h => ?_, fun row op x h => ?_, ?_⟩, fun j r b s run => ⟨?_, ?_, ?_⟩⟩
  · exact fun p taken => snoopRow_act run h taken
  · exact fun p taken => dataRow_act run h taken
  · exact fun p taken => compRow_act run h taken
  · exact ⟨fun p taken => rspCompAck_act run taken, fun p taken => exec_rspLevel run taken⟩
  · intro row cls op x h m p taken q
    rw [exec_joinRow run h taken, joinAnswer_eq]
  · exact fun p taken => exec_rspCompAck_link run taken
  · exact exec_rspLevel_link run

end Sys2Proof.Machine
end

/-! PROOF. Releases, notices and the Drayway (R161 to R179, R245 to R261, R283, R286): what arrives is told to the entry or the request it
names, here or over a link. -/
section
namespace Sys2Proof.Machine
open Sys2Proof

/-! ### Releases and notices -/

/-- The rows of releases and notices with the kind of the notice. -/
def noticeRows : List ((From → Body → Instr) × Nat) :=
  [(.relRelease, 0), (.acceptanceNotice, 1), (.visibilityNotice, 2), (.rspScFailRpt, 3)]
/-- The notices of another module with what they tell the hopper entry. -/
def joinNoticeRows (b : Body) : List ((From → Body → Instr) × BitVec 5 × (Nat → Nat → Plane → Plane)) :=
  [(.acceptanceNotice, 0x18, noteAccepted), (.visibilityNotice, 0x19, fun i rsn => noteVisible i rsn (infoLow8 b.info) none),
    (.rspScFailRpt, 0x1A, noteFailed)]

section Notices
variable {b : Body} {s : State} (run : s.mg.life = .run)
include run

section Net
variable {i : Fin 32} {rsn : BitVec 16}

theorem exec_relRelease_net : exec (.relRelease (.net i rsn) b) s = planeTurns (ownRelease i rsn.toNat s.dp) s :=
  onPlane_run (ownRelease i rsn.toNat) s run
theorem exec_acceptanceNotice_net : exec (.acceptanceNotice (.net i rsn) b) s = planeTurns (ownNotice 1 i rsn.toNat s.dp) s :=
  onPlane_run (ownNotice 1 i rsn.toNat) s run
theorem exec_visibilityNotice_net : exec (.visibilityNotice (.net i rsn) b) s = planeTurns (ownNotice 2 i rsn.toNat s.dp) s :=
  onPlane_run (ownNotice 2 i rsn.toNat) s run
theorem exec_rspScFailRpt_net : exec (.rspScFailRpt (.net i rsn) b) s = planeTurns (ownNotice 3 i rsn.toNat s.dp) s :=
  onPlane_run (ownNotice 3 i rsn.toNat) s run

/-- A row without a notice on its way changes nothing. -/
theorem exec_noticeRow_none {row : From → Body → Instr} {kind : Nat} (h : (row, kind) ∈ noticeRows)
    (none : takeNotice kind i rsn.toNat s.dp = none) : exec (row (.net i rsn) b) s = planeTurns s.dp s := by
  have quiet (k : Nat) (hk : takeNotice k i rsn.toNat s.dp = .none) : ownNotice k i rsn.toNat s.dp = s.dp := by
    unfold ownNotice
    rw [hk]
  simp only [noticeRows, List.mem_cons, Prod.mk.injEq, List.not_mem_nil, or_false] at h
  rcases h with ⟨rfl, rfl⟩ | ⟨rfl, rfl⟩ | ⟨rfl, rfl⟩ | ⟨rfl, rfl⟩
  · rw [exec_relRelease_net run, ownRelease, none]
  · rw [exec_acceptanceNotice_net run, quiet 1 none]
  · rw [exec_visibilityNotice_net run, quiet 2 none]
  · rw [exec_rspScFailRpt_net run, quiet 3 none]
end Net

section Link
variable {j : Fin 16} {r : Route} {q : Plane}

theorem exec_relRelease_link (taken : linkTakes s.dp q j r 0 5 0 (asSlots (some 1) b)) : exec (.relRelease (.link j r) b) s =
    planeTurns (if relRoom q r (asSlots (some 1) b) then joinRelease j r (asSlots (some 1) b) q
      else setLink q j { link q j with rx := (link q j).rx ++ [.join r 0 5 0 (asSlots (some 1) b)] }) s :=
  (onPlane_run (fromLink j r 0 5 0 b fun b q => if relRoom q r b then joinRelease j r b q
      else setLink q j { link q j with rx := (link q j).rx ++ [.join r 0 5 0 b] }) s run).trans
    (congrArg (planeTurns · s) (fromLink_taken _ _ _ _ _ _ _ _ _ rfl taken))

theorem exec_joinNoticeRow {row : From → Body → Instr} {op : BitVec 5} {f : Nat → Nat → Plane → Plane}
    (h : (row, op, f) ∈ joinNoticeRows b) (taken : linkTakes s.dp q j r 0 4 op (asSlots (some 1) b)) :
    exec (row (.link j r) b) s = planeTurns (joinNotice j r op.toNat (asSlots (some 1) b) f q) s := by
  simp only [joinNoticeRows, List.mem_cons, Prod.mk.injEq, List.not_mem_nil, or_false] at h
  rcases h with ⟨rfl, rfl, rfl⟩ | ⟨rfl, rfl, rfl⟩ | ⟨rfl, rfl, rfl⟩
  · exact (onPlane_run (fromLink j r 0 4 0x18 b fun b => joinNotice j r 0x18 b noteAccepted) s run).trans
      (congrArg (planeTurns · s) (fromLink_taken _ _ _ _ _ _ _ _ _ rfl taken))
  · exact (onPlane_run (fromLink j r 0 4 0x19 b fun b =>
        joinNotice j r 0x19 b fun i rsn => noteVisible i rsn (infoLow8 b.info) none) s run).trans
      (congrArg (planeTurns · s) (fromLink_taken _ _ _ _ _ _ _ _ _ rfl taken))
  · exact (onPlane_run (fromLink j r 0 4 0x1A b fun b => joinNotice j r 0x1A b noteFailed) s run).trans
      (congrArg (planeTurns · s) (fromLink_taken _ _ _ _ _ _ _ _ _ rfl taken))
end Link
end Notices

/-- Settles O45: releases and notices with and without the entry they name, of this module and of another. -/
theorem releasesAndNoticesReachTheirEntry : Obligations.ReleasesAndNoticesReachTheirEntry := by
  refine ⟨fun i rsn b s run => ⟨fun x e hx he => ?_, fun x hx he => ?_, fun x hx => ?_, fun x hx => ?_, fun x hx => ?_,
      fun row kind h => exec_noticeRow_none run h⟩,
    fun j r b s run => ⟨fun q taken => ⟨fun room => ?_, fun full => ?_⟩, fun row op f h p taken => ⟨fun there => ?_, fun gone => ?_⟩⟩⟩
  · rw [exec_relRelease_net run, ownRelease, hx, he]
  · rw [exec_relRelease_net run, ownRelease, hx, he]
  · rw [exec_acceptanceNotice_net run, ownNotice, hx]
    rfl
  · rw [exec_visibilityNotice_net run, ownNotice, hx]
    rfl
  · rw [exec_rspScFailRpt_net run, ownNotice, hx]
    rfl
  · rw [exec_relRelease_link run taken, if_pos room]
    rfl
  · rw [exec_relRelease_link run taken, if_neg (by simp [full])]
  · rw [exec_joinNoticeRow run h taken, joinNotice, if_pos there]
  · rw [exec_joinNoticeRow run h taken, joinNotice, if_neg (by simp [gone])]

/-! ### Failover -/

section Failover
variable {j : Fin 16} {r : Route} {b : Body} {s : State} (run : s.mg.life = .run)
include run

theorem exec_rspLinkFailover {p : Plane} (taken : linkTakes s.dp p j r 0 4 0x1B (asSlots (some 1) b)) :
    exec (.rspLinkFailover j r b) s = planeTurns (joinFailover j r (asSlots (some 1) b) p) s :=
  (onPlane_run (fromLink j r 0 4 0x1B b fun b => joinFailover j r b) s run).trans
    (congrArg (planeTurns · s) (fromLink_taken _ _ _ _ _ _ _ _ _ rfl taken))
theorem exec_failoverNoticeTimeout (pend : (link s.dp j).failPend = true) : exec (.failoverNoticeTimeout j) s =
    planeTurns (raise (tileSrc (linkTile j) (8 + j % 4)) 5 (BitVec.ofNat 32 (link s.dp j).peerNode) 0 s.dp) s :=
  (onPlane_run (failoverLate j) s run).trans (congrArg (planeTurns · s) (if_pos pend))

/-! ### Copies and snoops of another module -/

theorem exec_multicastCopy {g : BitVec 64} {shared : Bool} {p : Plane}
    (taken : linkTakes s.dp p j { r with mcast := true } g 1 (if shared then 0 else 1) (asSlots (some 1) b)) :
    exec (.multicastCopy j r g shared b) s = planeTurns (joinCopy j { r with mcast := true } g shared (asSlots (some 1) b) p) s := by
  have slots : joinSlots 1 (if shared then 0 else 1) = some 1 := by cases shared <;> rfl
  rw [← slots] at taken ⊢
  exact (onPlane_run (fromLink j { r with mcast := true } g 1 (if shared then 0 else 1) b fun b =>
      joinCopy j { r with mcast := true } g shared b) s run).trans
    (congrArg (planeTurns · s) (fromLink_taken _ _ _ _ _ _ _ _ _ (by rw [slots]; rfl) taken))
theorem exec_joinSnoopDelivery {shared : Bool} {p : Plane}
    (taken : linkTakes s.dp p j { r with mcast := false } 0 1 (if shared then 0 else 1) (asSlots (some 1) b)) :
    exec (.joinSnoopDelivery j r shared b) s = planeTurns (joinSnoop j { r with mcast := false } shared (asSlots (some 1) b) p) s := by
  have slots : joinSlots 1 (if shared then 0 else 1) = some 1 := by cases shared <;> rfl
  rw [← slots] at taken ⊢
  exact (onPlane_run (fromLink j { r with mcast := false } 0 1 (if shared then 0 else 1) b fun b =>
      joinSnoop j { r with mcast := false } shared b) s run).trans
    (congrArg (planeTurns · s) (fromLink_taken _ _ _ _ _ _ _ _ _ (by rw [slots]; rfl) taken))

/-! ### Answers at the origin -/

theorem exec_originAnswerDelivery {cls : BitVec 3} {op : BitVec 5} {p : Plane} (hc : cls = 3 ∨ cls = 4)
    (slots : (joinSlots cls op).isSome = true) (taken : linkTakes s.dp p j r 0 cls op (asSlots (joinSlots cls op) b)) :
    exec (.originAnswerDelivery j r cls op b) s = planeTurns (originAnswer (linkTile j) r cls.toNat op.toNat
      (asSlots (joinSlots cls op) b) (giveJoin j cls.toNat r.vcb p)) s := by
  refine (onPlane_run (fun p => if cls = 3 ∨ cls = 4 then
    fromLink j r 0 cls op b (fun b => joinAnswer j r cls.toNat op.toNat b none) p else p) s run).trans ?_
  rw [if_pos hc, fromLink_taken _ _ _ _ _ _ _ _ _ slots taken, joinAnswer_eq]
  rfl
end Failover

section Copy
variable {j : Nat} {r : Route} {g : BitVec 64} {shared : Bool} {b : Body} {p : Plane}

theorem joinCopy_past (h : (g.getLsbD ((copiesOut r g (if shared then 0 else 1) b p).dw.node / 256) &&
      presentIn (copiesOut r g (if shared then 0 else 1) b p) r.epoch.toNat) = false) : joinCopy j r g shared b p =
    { copiesOut r g (if shared then 0 else 1) b p with
      joinHeld := (copiesOut r g (if shared then 0 else 1) b p).joinHeld ++ [(j, 1, r.vcb, [.remote r])] } := by
  unfold joinCopy
  generalize copiesOut r g (if shared then 0 else 1) b p = q at h ⊢
  simp only [h, Bool.false_eq_true, if_false]
theorem joinCopy_here (h : (g.getLsbD ((copiesOut r g (if shared then 0 else 1) b p).dw.node / 256) &&
      presentIn (copiesOut r g (if shared then 0 else 1) b p) r.epoch.toNat) = true) : joinCopy j r g shared b p =
    deliverCoarse none (some r) shared b.addr { copiesOut r g (if shared then 0 else 1) b p with
      joinHeld := (copiesOut r g (if shared then 0 else 1) b p).joinHeld ++
        [(j, 1, r.vcb, [.remote r, .gather (copiesOut r g (if shared then 0 else 1) b p).nextGather])] } := by
  unfold joinCopy
  generalize copiesOut r g (if shared then 0 else 1) b p = q at h ⊢
  simp only [h, if_true]
end Copy

section Origin
variable {t : Nat} {r : Route} {cls op : Nat} {b : Body} {p : Plane} (other : ¬(cls = 4 ∧ op = 0xB))
include other

theorem originAnswer_line {e : Entry} (he : entry? p r.xtag.toNat = some e) (line : isLineReq e.req.op = true)
    (remote : e.remote = true) (waits : e.sent = false) (alive : e.aborted = false) (young : (inst p r.inst.toNat).gen = r.gen) :
    originAnswer t r cls op b p = deliverLine e r.xtag.toNat r cls op b p := by
  have kind : isAtomic e.req.op = false ∧ e.req.op ≠ .ioRd ∧ e.req.op ≠ .ioWr := by
    revert line
    cases e.req.op <;> decide
  obtain ⟨notAtomic, notRd, notWr⟩ := kind
  unfold originAnswer
  simp only [if_neg other, he, notAtomic, young, bne_self_eq_false, remote, waits, alive, line, notRd, notWr, Bool.false_eq_true,
    false_and, or_self, if_false, if_true, Bool.true_eq_false]
theorem originAnswer_old_operand {e : Entry} (he : entry? p r.xtag.toNat = some e) (atomic : isAtomic e.req.op = true)
    (data : cls = 3) (grant : grantIn 3 op b.info = 0) (hp : e.req.port = r.port.toNat) (hr : e.rsn = some r.rsn.toNat) :
    originAnswer t r cls op b p = noteOld e.req.port r.rsn.toNat b.data (op == 1) p := by
  unfold originAnswer
  subst data
  simp only [if_neg other, he]
  exact if_pos ⟨atomic, trivial, grant, hp, hr⟩
theorem originAnswer_none (he : entry? p r.xtag.toNat = none) : originAnswer t r cls op b p =
    if (inst p r.inst.toNat).gen = r.gen then countLateJoin t (lateAgent p r b) cls op p else oldAnswer r cls op b p := by
  unfold originAnswer
  simp only [if_neg other, he, bne_iff_ne, ne_eq, ite_not]
end Origin

/-! ### Sending on -/

section Forward
variable {k : BitVec 16} {s : State} (run : s.mg.life = .run)
include run

theorem exec_messageForward_own {f : Fwd} (hf : s.dp.dw.out[k.toNat]? = some f) {x : Sent}
    (sent : sendOn f { s.dp with dw := { s.dp.dw with out := s.dp.dw.out.eraseIdx k.toNat } } = x) :
    exec (.messageForward none k) s = planeTurns (match x with
      | .yes q => q
      | .unreachable => noteUnreach f.route.dst.toNat s.dp
      | .no => s.dp) s := by
  refine (onPlane_run (forwardOwn k.toNat) s run).trans (congrArg (planeTurns · s) ?_)
  unfold forwardOwn
  simp only [hf, sent]
  cases x <;> rfl
theorem exec_messageForward_link {j : Fin 16} {r : Route} {g : BitVec 64} {cls : BitVec 3} {op : BitVec 5} {b : Body}
    (hf : ((link s.dp j).rx.filter (inTransit s.dp))[k.toNat]? = some (.join r g cls op b)) {q : Plane}
    (sent : sendOn { route := r, groups := g, cls := cls, op := op, body := b }
      (setLink s.dp j { link s.dp j with rx := (link s.dp j).rx.erase (.join r g cls op b) }) = .yes q) :
    exec (.messageForward (some j) k) s = planeTurns (giveJoin j cls.toNat r.vcb q) s := by
  refine (onPlane_run (forwardFrom j k.toNat) s run).trans (congrArg (planeTurns · s) ?_)
  unfold forwardFrom
  simp only [hf, sent]
end Forward

/-- Settles O46: the rows of the Drayway by what they find at this node. -/
theorem draywayRowsAct : Obligations.DraywayRowsAct := by
  refine ⟨fun j r b s run => ⟨?_, fun k seq p => rfl, exec_failoverNoticeTimeout run, fun shared => ⟨?_, ?_⟩, ?_⟩,
    fun k s run => ⟨fun f hf => ?_, fun j r g cls op b hf q sent => exec_messageForward_link run hf sent⟩⟩
  · intro p taken q seq hit
    rw [exec_rspLinkFailover run taken]
    have told : joinFailover j r (asSlots (some 1) b) p = match hit with
        | none => q
        | some x => if x.2.failPend then resendStale x.1 seq q else setLink q x.1 { x.2 with early := some seq } := rfl
    rw [told]
    refine ⟨fun k l found => ⟨fun pend => ?_, fun idle => ?_⟩, fun none => ?_⟩
    · simp only [found, pend, if_true]
    · simp only [found, idle, Bool.false_eq_true, if_false]
    · simp only [none]
  · intro g r' p taken q
    rw [exec_multicastCopy run taken]
    exact ⟨fun past => by rw [joinCopy_past past], fun here => by rw [joinCopy_here here]⟩
  · intro r' p taken
    rw [exec_joinSnoopDelivery run taken, joinSnoop]
    refine ⟨fun up caches => ?_, fun no => ?_⟩
    · exact congrArg (planeTurns · s) (if_pos (by rw [up, caches]; rfl))
    · refine congrArg (planeTurns · s) (if_neg ?_)
      rcases no with no | no
      · rw [no]; exact Bool.false_ne_true
      · rw [no, Bool.and_false]; exact Bool.false_ne_true
  · intro cls op hc slots notAck m p taken q
    have other : ¬(cls.toNat = 4 ∧ op.toNat = 0xB) := fun h =>
      notAck ⟨BitVec.eq_of_toNat_eq h.1, BitVec.eq_of_toNat_eq h.2⟩
    have one : (op == 1) = (op.toNat == 1) := by
      rw [Bool.eq_iff_iff, beq_iff_eq, beq_iff_eq]
      exact ⟨fun h => by rw [h]; rfl, fun h => BitVec.eq_of_toNat_eq h⟩
    rw [exec_originAnswerDelivery run hc slots taken]
    refine ⟨fun e he line remote waits alive young => by rw [originAnswer_line other he line remote waits alive young],
      fun e he atomic data grant hp hr => ?_, fun none young => by rw [originAnswer_none other none, if_pos young],
      fun none old => by rw [originAnswer_none other none, if_neg old]⟩
    rw [originAnswer_old_operand other he atomic (congrArg BitVec.toNat data) grant hp hr, one]
  · exact ⟨fun q => exec_messageForward_own run hf, exec_messageForward_own run hf, exec_messageForward_own run hf⟩

end Sys2Proof.Machine
end

/-! PROOF. The rows of the homes, the hoppers and instance reset (R72, R95, R102, R113, R157 to R180, R276 to R278, R285, R287): each is one
operation of the plane, taken at the branch that its clause names. -/
section
namespace Sys2Proof.Machine
open Sys2Proof

/-- A row of the data plane at a plane on which its operation is known. -/
theorem onPlane_of_eq {f : Plane → Plane} {s : State} {p : Plane} (run : s.mg.life = .run) (h : f s.dp = p) :
    onPlane f s = planeTurns p s := (onPlane_run f s run).trans (congrArg (planeTurns · s) h)

/-! ### Homes -/

section Home
variable {p : Plane}

theorem startHead_of_ready {line : Nat} {j : Job} (head : queueHead p line = some j) (may : canStart j p = true) :
    startHead line p = startJob j p := by
  unfold startHead
  simp only [head, may, if_true]

section Fetch
variable {ch : Nat} {a : Access} {w : List Nat} {rest : List (Access × List Nat)} (back : (chan p ch).ret = (a, w) :: rest)
include back

/-- What the DIU makes of the oldest word that came back, once it is measured. -/
def fetchedPlane (ch : Nat) (a : Access) (rest : List (Access × List Nat)) (p : Plane) : Plane :=
  measure (ch / 16) 0x0005 (p.clock - a.t0) (accOcc p a) (setChan p ch { chan p ch with ret := rest })

theorem dataBack_alone (alone : a.job = none) : dataBack ch p = (diuRead ch a w (fetchedPlane ch a rest p)).1 := by
  unfold dataBack
  simp only [back, alone]
  rfl
theorem dataBack_job {id : Nat} (job : a.job = some id) : dataBack ch p =
    advance id (markJob (diuRead ch a w (fetchedPlane ch a rest p)).1 id fun j =>
      { j with fetched := some (diuRead ch a w (fetchedPlane ch a rest p)).2.1,
               fpoison := (diuRead ch a w (fetchedPlane ch a rest p)).2.2, mem := false,
               found := if a.rmw && !mergeRepairs (fetchedPlane ch a rest p) a then 0 else foundIn w }) := by
  unfold dataBack
  simp only [back, job]
  rfl
end Fetch

theorem gainToken_kept {t : Nat} (none : (htile p t).tokq = []) : gainToken t p = setTile p t { htile p t with
    tokens := min (max (htile p t).tokens (clampF (fld (rg p (aBcast t)) 16 8) 255)) ((htile p t).tokens + 1) } := by
  unfold gainToken
  simp only [none]
theorem gainToken_given {t id : Nat} {rest : List Nat} {j : Job} (first : (htile p t).tokq = id :: rest)
    (job : job? (setTile p t { htile p t with tokq := rest }) id = some j) :
    gainToken t p = advance id (broadcast j (setTile p t { htile p t with tokq := rest })) := by
  unfold gainToken
  simp only [first, job]

section Admit
variable {t : Nat} (quiet : drainOn p = false)
include quiet

theorem admitNext_own {r : Req} {ent party : Option Nat} (next : pickAdmit p t = some (.own r ent party)) :
    admitNext t p = takeIn r ent party p := by
  unfold admitNext
  rw [if_neg (by simp [quiet]), next]
theorem admitNext_join {ent : Nat} (next : pickAdmit p t = some (.join ent)) : admitNext t p = admitJoin t ent p := by
  unfold admitNext
  rw [if_neg (by simp [quiet]), next]
end Admit
end Home

/-- Settles O47: each row at the branch of its operation that its clause names. -/
theorem homeRowsAct : Obligations.HomeRowsAct := by
  refine ⟨fun line s j run head may => onPlane_of_eq run (startHead_of_ready head may),
    fun ch s a w rest run back => ⟨fun alone => onPlane_of_eq run (dataBack_alone back alone),
      fun id job => onPlane_of_eq run (dataBack_job back job)⟩,
    fun t s run => ⟨fun none => onPlane_of_eq run (gainToken_kept none),
      fun id rest j first job => onPlane_of_eq run (gainToken_given first job)⟩,
    fun agent line s run held => onPlane_of_eq run (if_pos held),
    fun t s run quiet => ⟨fun r ent party next => onPlane_of_eq run (admitNext_own quiet next),
      fun ent next => onPlane_of_eq run (admitNext_join quiet next)⟩⟩

/-! ### Hoppers -/

section Hopper
variable {i : Nat} {p : Plane}

/-- The store that a tile admits next for a port, if it admits one. -/
def acceptAt (i : Nat) (p : Plane) (t : Nat) : Option (Req × Option Nat × Option Nat) := match pickAdmit p t with
  | some (.own r ent party) => if r.port = i ∧ hopNeed r.op then some (r, ent, party) else none
  | _ => none
theorem acceptAt_none {t : Nat} (h : ∀ r e q, pickAdmit p t = some (.own r e q) → ¬(r.port = i ∧ hopNeed r.op = true)) :
    acceptAt i p t = none := by
  unfold acceptAt
  split
  next r e q hr => exact if_neg (h r e q hr)
  next => rfl

/-- The first tile that admits a store of the port takes it in. -/
theorem acceptNext_first {t : Nat} {r : Req} {ent party : Option Nat} (ht : t < 4) (next : pickAdmit p t = some (.own r ent party))
    (own : r.port = i) (store : hopNeed r.op = true)
    (before : ∀ t' r' e' q', t' < t → pickAdmit p t' = some (.own r' e' q') → ¬(r'.port = i ∧ hopNeed r'.op = true)) :
    acceptNext i p = takeIn r ent party p := by
  have here : acceptAt i p t = some (r, ent, party) := by
    unfold acceptAt
    rw [next]
    exact if_pos ⟨own, store⟩
  have tiles : ∀ t, t < 4 → List.range 4 = List.range t ++ t :: (List.range 4).drop (t + 1) := by decide
  have found : (List.range 4).findSome? (acceptAt i p) = some (r, ent, party) :=
    List.findSome?_eq_some_iff.2 ⟨_, _, _, tiles t ht, here, fun t' ht' =>
      acceptAt_none fun r' e' q' => before t' r' e' q' (List.mem_range.1 ht')⟩
  have tries : acceptNext i p = match (List.range 4).findSome? (acceptAt i p) with
    | none => p
    | some x => takeIn x.1 x.2.1 x.2.2 p := rfl
  rw [tries, found]

theorem resumeRead_ready {n : Nat} {ws : List Nat} {e : Entry} (ready : (hopOf p i).held.find? (heldReady p i) = some (n, ws))
    (entry : entry? p n = some e) : resumeRead i p =
      readGo n e.req (setHop p i { hopOf p i with held := (hopOf p i).held.filter fun y => !(y.1 == n) }) := by
  have kept : entry? (setHop p i { hopOf p i with held := (hopOf p i).held.filter fun y => !(y.1 == n) }) n = some e := entry
  unfold resumeRead
  simp only [ready, kept]
theorem fenceDone_head {e : HopEntry} {rest : List HopEntry} (head : (hopOf p i).entries = e :: rest) (fence : e.req.op = .fence) :
    fenceDone i p = releaseSweep i (freeHop i e.rsn (ackEntry i e.rsn none false p)) := by
  unfold fenceDone
  simp only [head, fence, if_true]
theorem ioWrGo_ready {e : HopEntry} {n : Nat} (ready : ioReady (hopOf p i).entries = some e) (ent : e.ent = some n) :
    ioWrGo i p = ioSend n e.req e.rsn (onEntry i e.rsn (fun x => { x with ioSent := true }) p) := by
  unfold ioWrGo
  simp only [ready, ent]

section Expire
variable {tag : BitVec 16} {m : ModTag} (h : tfind (port p i).mtags tag.toNat = some m)
include h

theorem ioExpire_unsent (unsent : m.sent = false) : ioExpire i tag p = p := by
  unfold ioExpire
  simp only [h, unsent, if_true]
theorem ioExpire_sent (sent : m.sent = true) : ioExpire i tag p = match m.use with
    | .io ent => ioEnd ent (.error rTimeout) (lateTag i tag.toNat p)
    | .ioRemote r => ioOver r i m.body.sub.toNat m.body.addr (.error rTimeout) (lateTag i tag.toNat p)
    | _ => p := by
  unfold ioExpire
  simp only [h, sent, Bool.true_eq_false, if_false] <;> rfl
end Expire

theorem drainStall_draining {t : Nat} (draining : (((List.range 8).map fun k => 8 * t + k).any fun k => (hopOf p k).draining) = true)
    (left : drained p = false) : drainStall t p = raise (tileSrc t 16) 0
      (BitVec.ofNat 32 (((List.range 8).map fun k => 8 * t + k).map fun k => (hopOf p k).entries.length).sum) 0
      (((List.range 8).map fun k => 8 * t + k).foldl (fun q k => setHop q k { hopOf q k with drainStall := true }) p) := by
  unfold drainStall
  exact if_pos (by rw [draining, left]; rfl)
end Hopper

/-- Settles O48: each row at the branch of its operation that its clause names. -/
theorem hopperRowsAct : Obligations.HopperRowsAct := by
  refine fun i s run => ⟨fun t r ent party ht next own store before => onPlane_of_eq run (acceptNext_first ht next own store before),
    fun n ws e ready entry => onPlane_of_eq run (resumeRead_ready ready entry),
    fun e rest head fence => onPlane_of_eq run (fenceDone_head head fence),
    fun e n ready ent => onPlane_of_eq run (ioWrGo_ready ready ent),
    fun tag m h => ⟨fun unsent => onPlane_of_eq run (ioExpire_unsent h unsent), fun sent ent use => ?_, fun sent r use => ?_⟩,
    fun t draining left => onPlane_of_eq run (drainStall_draining draining left)⟩
  · exact onPlane_of_eq run ((ioExpire_sent h sent).trans (by rw [use]))
  · exact onPlane_of_eq run ((ioExpire_sent h sent).trans (by rw [use]))

/-! ### Instance reset -/

/-- The requests of an old generation that a stalled reset tells of. -/
def oldLeft (p : Plane) (i : Nat) : Nat :=
  (p.entries.filter fun y => !y.2.join && y.2.req.inst == i && y.2.req.gen != (inst p i).gen).length +
    (p.ports.map fun y =>
      (y.2.hop.entries.filter fun e => e.req.inst == i && e.req.gen != (inst p i).gen && e.ent.isNone).length).sum

/-- Without work of an old generation none is left. -/
theorem oldLeft_eq_zero {p : Plane} {i : Nat} (none : oldWork p i = false) : oldLeft p i = 0 := by
  simp only [oldWork, Bool.or_eq_false_iff, List.any_eq_false] at none
  obtain ⟨entries, stores⟩ := none
  have noEntry : (p.entries.filter fun y => !y.2.join && y.2.req.inst == i && y.2.req.gen != (inst p i).gen) = [] :=
    List.filter_eq_nil_iff.2 entries
  have noStore : ∀ y ∈ p.ports, (y.2.hop.entries.filter fun e =>
      e.req.inst == i && e.req.gen != (inst p i).gen && e.ent.isNone) = [] := by
    refine fun y hy => List.filter_eq_nil_iff.2 fun e he old => stores y hy (List.any_eq_true.2 ⟨e, he, ?_⟩)
    obtain ⟨old, -⟩ := Bool.and_eq_true_iff.1 old
    exact old
  unfold oldLeft
  rw [noEntry, List.length_nil, Nat.zero_add, List.sum_eq_zero]
  intro n hn
  obtain ⟨y, hy, rfl⟩ := List.mem_map.1 hn
  rw [noStore y hy, List.length_nil]

/-- What a completed reset makes of an instance. -/
def resetInst (x : Inst) : Inst := match x.state with
  | .destroying => { gen := x.gen }
  | _ => { x with state := .active, squashed := false, proceeded := x.remain }

section Reset
variable {i : Nat} {p : Plane} (squashed : (inst p i).squashed = true)
include squashed

theorem resetStall_squashed : resetStall i p = raise (tileSrc 0 15) 0 (BitVec.ofNat 32 (oldLeft p i)) (payOf 0 0 i) p := by
  unfold resetStall
  exact if_pos squashed
theorem resetDone_squashed (none : oldWork p i = false) {y : Option LongOp} :
    resetOp (setInst p i (resetInst (inst p i))) i = y → resetDone i p = match y with
      | .none => setInst p i (resetInst (inst p i))
      | some o => setOp (setInst p i (resetInst (inst p i)))
        { o with ended := some sOk, a := (inst p i).drained, b := (inst p i).nSquash, c := (inst p i).remain } := by
  rintro rfl
  exact if_neg (by simp [squashed, none])
end Reset

/-- Settles O49: the rows of a squash by what work of the old generation is left. -/
theorem instanceResetRowsAct : Obligations.InstanceResetRowsAct := by
  intro i s run x
  refine ⟨fun op => onPlane_of_eq run (if_pos op), fun squashed => ?_, fun squashed none => ?_⟩
  · exact ⟨onPlane_of_eq run (resetStall_squashed squashed), oldLeft_eq_zero⟩
  · exact ⟨fun noOp => onPlane_of_eq run (resetDone_squashed squashed none noOp),
      fun o op => onPlane_of_eq run (resetDone_squashed squashed none op)⟩

end Sys2Proof.Machine
end

/-! PROOF. The rows of the DRAM channels and their retrains (R189 to R204, R212, R412). -/
section
namespace Sys2Proof.Machine
open Sys2Proof

/-! ### Queues and commands -/

section Dram
variable {ch : Nat} {p : Plane}

/-- A freed place in a queue goes to the first access that waits for it without a party. -/
theorem grantQueue_first {wr : Bool} {a : Access}
    (room : if wr then (chan p ch).wq.length < 128 else (chan p ch).rq.length < 192)
    (first : firstWait (chan p ch) wr none = some a) : grantQueue ch wr p = (setChan p ch (updDrain p ch (intoQueue
      { chan p ch with wait := (chan p ch).wait.filter fun x => !(x.seq == a.seq) } { a with t0 := p.clock })), some a) := by
  have notFull : ¬(if wr = true then 128 ≤ (chan p ch).wq.length else 192 ≤ (chan p ch).rq.length) := by
    cases wr with
    | true => exact Nat.not_le.2 room
    | false => exact Nat.not_le.2 room
  unfold grantQueue
  rw [if_neg notFull]
  simp only [first]

theorem queueGrant_alone {wr : Bool} {a : Access} (grant : (grantQueue ch wr p).2 = some a) (alone : a.wr = false ∨ a.job = none) :
    queueGrant ch wr p = (grantQueue ch wr p).1 := by
  unfold queueGrant
  rcases alone with h | h
  · simp only [grant, h]
  · simp only [grant, h]
    cases a.wr <;> rfl
theorem queueGrant_job {wr : Bool} {a : Access} {id : Nat} {j : Job} (grant : (grantQueue ch wr p).2 = some a) (write : a.wr = true)
    (job : a.job = some id)
    (there : job? (markJob (grantQueue ch wr p).1 id fun j => { j with wpend := j.wpend - 1 }) id = some j) :
    queueGrant ch wr p = if j.done && j.wpend == 0 then
        finish id (markJob (grantQueue ch wr p).1 id fun j => { j with wpend := j.wpend - 1 })
      else markJob (grantQueue ch wr p).1 id fun j => { j with wpend := j.wpend - 1 } := by
  unfold queueGrant
  simp only [grant, write, job, there]

theorem issueCmd_of {x : Cmd} : pickCmd p ch = x → issueCmd ch p = match x with
    | .idle => p
    | .pre _ => issueCmd ch p
    | .act a => setChan p ch (markAct (setBank { chan p ch with pd := false } (rawBank a.raw)
        { tget {} (chan p ch).banks (rawBank a.raw) with
          openRow := some (rawRow a.raw), hits := 0, acts := (tget {} (chan p ch).banks (rawBank a.raw)).acts + 1, idle := false }) a)
    | .col a => issueCol ch a p
    | .refresh b => occur (ch / 16) 0x4007 {} (setChan p ch (setBank { chan p ch with pd := false } b
        { tget {} (chan p ch).banks b with owed := (tget {} (chan p ch).banks b).owed - 1 }))
    | .rfm b => setChan p ch (setBank { chan p ch with pd := false } b { tget {} (chan p ch).banks b with acts := 0 }) := by
  intro h
  cases x with
  | pre b => rfl
  | idle => unfold issueCmd; simp only [h]
  | act a => unfold issueCmd; simp only [h]
  | col a => unfold issueCmd; simp only [h]
  | refresh b => unfold issueCmd; simp only [h]
  | rfm b => unfold issueCmd; simp only [h]

theorem pickCmd_idle (h : (chan p ch).state ≠ .normal ∨ deepDown p ch = true) : pickCmd p ch = .idle := if_pos h

theorem refreshOwed_awake {bank : Nat} (h1 : (chan p ch).state ≠ .selfRefresh) (h2 : (chan p ch).state ≠ .down)
    (h3 : deepDown p ch = false) : refreshOwed ch bank p = setChan p ch (setBank (chan p ch) bank
      { tget {} (chan p ch).banks bank with owed := (tget {} (chan p ch).banks bank).owed + 1 }) :=
  if_neg (by simp [h1, h2, h3])
theorem pageIdle_idle {bank r : Nat} (row : (tget {} (chan p ch).banks bank).openRow = some r)
    (timer : fld (rg p (aChCfg ch)) 0 10 ≠ 0)
    (unused : ((chan p ch).rq ++ (chan p ch).wq).any (fun a => rawBank a.raw == bank && rawRow a.raw == r) = false) :
    pageIdle ch bank p = setChan p ch (setBank (chan p ch) bank
      { tget {} (chan p ch).banks bank with openRow := none, hits := 0, idle := true }) := by
  unfold pageIdle
  simp only [row]
  exact if_neg (by simp only [timer, unused, Bool.false_eq_true, or_self, not_false_eq_true])
theorem powerDownChan_idle (timer : fld (rg p (aChCfg ch)) 16 10 ≠ 0) (reads : (chan p ch).rq = []) (writes : (chan p ch).wq = [])
    (normal : (chan p ch).state = .normal) : powerDownChan ch p = setChan p ch { chan p ch with pd := true } :=
  if_neg (by simp [timer, reads, writes, normal])
theorem starveAcc_found {k : Nat} {a : Access} (h : ((chan p ch).rq ++ (chan p ch).wq)[k]? = some a) :
    starveAcc ch k p = setChan p ch { chan p ch with
      rq := (chan p ch).rq.map fun x => if x.seq == a.seq then { x with starved := true } else x
      wq := (chan p ch).wq.map fun x => if x.seq == a.seq then { x with starved := true } else x } := by
  unfold starveAcc
  simp only [h]
end Dram

/-- Settles O50: each row at the branch of its operation that its clause names. -/
theorem dramRowsAct : Obligations.DramRowsAct := by
  intro ch s run p c
  refine ⟨fun wr a room first alone => ?_, ?_, fun a cmd => ?_, fun a cmd => ?_, fun b cmd => ?_,
    fun b cmd => ?_, fun cmd => ?_, pickCmd_idle, ?_,
    fun timer reads writes normal => ?_, fun k a h => ?_⟩
  · have grant := grantQueue_first room first
    have own : a.wr = wr := by
      have h := List.find?_some first
      simp only [Bool.and_eq_true, beq_iff_eq] at h
      exact h.1
    refine onPlane_of_eq run ((queueGrant_alone (congrArg Prod.snd grant) ?_).trans (congrArg Prod.fst grant))
    rw [own]
    exact alone
  · intro wr a id j grant write job q there
    exact onPlane_of_eq run (queueGrant_job grant write job there)
  · exact onPlane_of_eq run (issueCmd_of cmd)
  · exact onPlane_of_eq run (issueCmd_of cmd)
  · exact onPlane_of_eq run (issueCmd_of cmd)
  · exact onPlane_of_eq run (issueCmd_of cmd)
  · exact onPlane_of_eq run (issueCmd_of cmd)
  · intro bank b
    exact ⟨fun h1 h2 h3 => onPlane_of_eq run (refreshOwed_awake h1 h2 h3),
      fun r row timer unused => onPlane_of_eq run (pageIdle_idle row timer unused)⟩
  · exact onPlane_of_eq run (powerDownChan_idle timer reads writes normal)
  · exact onPlane_of_eq run (starveAcc_found h)

/-! ### Retrains -/

section Retrain
variable {ch : Nat} {p : Plane}

theorem retrainDue_first (h : (chan p ch).sc1Due = false) : retrainDue ch p = becomeDue ch p := if_neg (by simp [h])
theorem retrainDue_second (normal : (chan p ch).state = .normal) (awake : deepDown p ch = false) (due : (chan p ch).sc1Due = true)
    (free : pausing p (ch / 16) = false) :
    retrainDue ch p = startPause ch true (setChan p ch { chan p ch with sc1Due := false }) :=
  (if_pos ⟨normal, awake, due⟩).trans (if_neg (by simp [free]))
theorem becomeDue_of_wants (normal : (chan p ch).state = .normal) (awake : deepDown p ch = false) (wants : wantsRetrain p ch = true) :
    becomeDue ch p = if hostMode p fmDram then raise (tileSrc (ch / 16) (18 + ch % 16)) 2 0 0 p
      else startRetrains (ch / 16) (setChan p ch { chan p ch with due := true }) := if_neg (by simp [normal, awake, wants])
theorem becomeDue_of_not_wants (no : wantsRetrain p ch = false) : becomeDue ch p = p := if_pos (by simp [no])
/-- A channel wants a retrain 2 °C from its last training, or 10 s after it (R200). -/
theorem wantsRetrain_of (h : (chan p ch).temp.toInt - (chan p ch).lastTemp.toInt ≤ -2 ∨
    2 ≤ (chan p ch).temp.toInt - (chan p ch).lastTemp.toInt ∨ (chan p ch).tTrain + 20000000000 ≤ p.clock) :
    wantsRetrain p ch = true := by
  unfold wantsRetrain
  rw [Bool.or_eq_true, decide_eq_true_iff, decide_eq_true_iff]
  rcases h with h | h | h
  · exact .inl (.inl h)
  · exact .inl (.inr h)
  · exact .inr (by omega)
theorem retrainForce_deferred (deferred : (chan p ch).deferred = true) (due : (chan p ch).due = true)
    (normal : (chan p ch).state = .normal) (free : pausing p (ch / 16) = false) :
    retrainForce ch p = startPause ch false p := by
  unfold retrainForce
  simp [deferred, due, normal, free]

variable {failed : Bool}
/-- After the first pause the second is due. -/
theorem pauseEnd_pause0 (h : (chan p ch).state = .pause0) : pauseEnd ch failed p =
    startRetrains (ch / 16) (setChan p ch { chan p ch with state := .normal, sc1Due := true }) := by
  unfold pauseEnd
  simp only [h]
/-- After the second the retrain is done and counted. -/
theorem pauseEnd_pause1 (h : (chan p ch).state = .pause1) : pauseEnd ch failed p =
    startRetrains (ch / 16) (trainDone ch false (setChan p ch { chan p ch with
      state := .normal, retrains := ((chan p ch).retrains + 1) % 65536, due := false, deferred := false, sc1Due := false,
      forced := false, lastTemp := (chan p ch).temp, tTrain := p.clock })) := by
  unfold pauseEnd
  simp only [h]
theorem pauseEnd_failed (h : (chan p ch).state = .training) : pauseEnd ch true p = dramPassEnd (ch / 16)
    (raise (tileSrc (ch / 16) (18 + ch % 16)) 1 0 0 (trainDone ch true (setChan p ch { chan p ch with state := .down }))) := by
  unfold pauseEnd
  simp only [h, if_true]
theorem pauseEnd_trained (h : (chan p ch).state = .training) : pauseEnd ch false p =
    trainDone ch false (setChan p ch { chan p ch with state := .normal, lastTemp := (chan p ch).temp, tTrain := p.clock }) := by
  unfold pauseEnd
  simp only [h, Bool.false_eq_true, if_false]
end Retrain

section PauseEnd
variable {ch : Fin 64} {s : State} (run : s.mg.life = .run)
include run

/-- The end of a pause, or of a training that failed, saves no settings. -/
theorem exec_retrainPauseEnd_unsaved {failed : Bool} (h : (chan s.dp ch).state ≠ .training ∨ failed = true) :
    exec (.retrainPauseEnd ch failed) s = planeTurns (pauseEnd ch failed s.dp) s := by
  have same : savedSettings ch failed s = s.mg := by
    refine if_neg ?_
    rcases h with h | h <;> simp [h]
  rw [exec_retrainPauseEnd, same]
  exact onPlane_run _ _ run
theorem exec_retrainPauseEnd_saved (h : (chan s.dp ch).state = .training) : exec (.retrainPauseEnd ch false) s =
    planeTurns (pauseEnd ch false s.dp) { s with mg := { s.mg with settings := tput 0 s.mg.settings ch (s.mg.rateCur + 1) } } := by
  have saved : savedSettings ch false s = { s.mg with settings := tput 0 s.mg.settings ch (s.mg.rateCur + 1) } :=
    if_pos ⟨by rw [h]; rfl, run⟩
  rw [exec_retrainPauseEnd, saved]
  exact onPlane_run _ _ run
end PauseEnd

/-- Settles O51: the rows by the state of the channel. -/
theorem retrainRowsAct : Obligations.RetrainRowsAct := by
  intro ch s run p c
  refine ⟨fun normal awake => ⟨fun first wants => ⟨fun hw => ?_, fun host => ?_⟩, fun first no => ?_, fun due free => ?_⟩,
    wantsRetrain_of, fun deferred due normal free => onPlane_of_eq run (retrainForce_deferred deferred due normal free),
    fun failed h => ?_, fun failed h => ?_, fun h => ⟨?_, ?_⟩⟩
  · refine onPlane_of_eq run ((retrainDue_first first).trans ((becomeDue_of_wants normal awake wants).trans (if_neg ?_)))
    simp [hw]
  · exact onPlane_of_eq run ((retrainDue_first first).trans ((becomeDue_of_wants normal awake wants).trans (if_pos host)))
  · exact onPlane_of_eq run ((retrainDue_first first).trans (becomeDue_of_not_wants no))
  · exact onPlane_of_eq run (retrainDue_second normal awake due free)
  · exact (exec_retrainPauseEnd_unsaved run (.inl fun h' => nomatch h'.symm.trans h)).trans
      (congrArg (planeTurns · s) (pauseEnd_pause0 h))
  · exact (exec_retrainPauseEnd_unsaved run (.inl fun h' => nomatch h'.symm.trans h)).trans
      (congrArg (planeTurns · s) (pauseEnd_pause1 h))
  · exact (exec_retrainPauseEnd_unsaved run (.inr rfl)).trans (congrArg (planeTurns · s) (pauseEnd_failed h))
  · exact (exec_retrainPauseEnd_saved run h).trans (congrArg (planeTurns · _) (pauseEnd_trained h))

end Sys2Proof.Machine
end

/-! PROOF. The walks that take one line each (R131, R137, R206 to R211, R229 to R235), and how their line operation reaches its line
(R91, R93). -/
section
namespace Sys2Proof.Machine
open Sys2Proof

/-! ### Reaching a line -/

theorem mem_insertAhead_self {ahead : Job → Bool} {j : Job} (l : List Job) : j ∈ insertAhead ahead j l := by
  induction l with
  | nil => exact List.mem_singleton_self j
  | cons x l ih =>
    unfold insertAhead
    split
    · exact List.mem_cons_self
    · exact List.mem_cons_of_mem x ih

/-- An operation without a source of requests joins a conflict queue and changes nothing else. -/
theorem enqueueJob_intern {j : Job} {w : Intern} {p : Plane} (hk : j.kind = .intern w) :
    ∃ ahead, enqueueJob j p = { p with jobs := insertAhead ahead { j with phase := .queued } p.jobs } := by
  unfold enqueueJob
  simp only [hk]
  exact ⟨_, rfl⟩

/-- Writing an operation under a number that was new replaces the one appended with it. -/
theorem setJob_append_new {j k : Job} {p : Plane} (new : job? p j.id = none) (hk : k.id = j.id) :
    setJob { p with jobs := p.jobs ++ [k] } j = { p with jobs := p.jobs ++ [j] } := by
  have old : ∀ x ∈ p.jobs, (x.id == j.id) = false := fun x hx => by simpa using List.find?_eq_none.1 new x hx
  have kept : (p.jobs.map fun x => if x.id == j.id then j else x) = p.jobs := by
    rw [List.map_congr_left (g := id) fun x hx => by simp [old x hx], List.map_id]
  simp only [setJob, List.map_append, kept, List.map_cons, hk, beq_self_eq_true, if_true, List.map_nil]

/-- The operation that takes the next number and reaches a line. -/
def internJob (w : Intern) (line i : Nat) (p : Plane) : Job :=
  { id := p.nextJob, kind := .intern w, line := line, who := { inst := i }, t0 := p.clock }
theorem reachIntern_internJob (w : Intern) (line i : Nat) (p : Plane) :
    reachIntern w line i p = reachLine (internJob w line i p) (numbered p) := rfl

theorem reachIntern_free {w : Intern} {line i : Nat} {p : Plane} (free : ∀ x ∈ p.jobs, x.line ≠ line)
    (new : job? p p.nextJob = none) : reachIntern w line i p =
      let j : Job := { internJob w line i p with phase := .running }
      let r := internAct j w { p with jobs := p.jobs ++ [j], nextJob := p.nextJob + 1 }
      if r.2 then finish j.id r.1 else r.1 := by
  rw [reachIntern_internJob, reachLine_of_free (j := internJob w line i p) (p := numbered p) rfl free]
  have placed := setJob_append_new (j := { internJob w line i p with phase := .running })
    (k := { internJob w line i p with phase := .queued }) (p := numbered p) new rfl
  exact congrArg (fun q => let r := internAct { internJob w line i p with phase := .running } w q
    if r.2 then finish p.nextJob r.1 else r.1) placed

theorem reachIntern_busy {w : Intern} {line i : Nat} {p : Plane} (hb : busy p line = true) :
    { reachIntern w line i p with jobs := p.jobs, nextJob := p.nextJob } = p ∧
      { internJob w line i p with phase := .queued } ∈ (reachIntern w line i p).jobs := by
  rw [reachIntern_internJob, reachLine_of_busy (j := internJob w line i p) (p := numbered p) rfl hb]
  obtain ⟨ahead, queued⟩ := enqueueJob_intern (j := internJob w line i p) (p := numbered p) rfl
  rw [queued]
  exact ⟨rfl, mem_insertAhead_self _⟩

/-! ### Evacuation -/

section Channel
variable {ch : Nat} {p : Plane}

theorem evacOne_next (state : (evacOf p (ch / 16)).state = 1) (here : (evacOf p (ch / 16)).chan = ch % 16)
    (free : internRuns p (.evac ch) = false) : evacOne ch p =
      reachIntern (.evac ch) (lineAt (ch / 16) (evacOf p (ch / 16)).chan (evacOf p (ch / 16)).cursor) 0 p := by
  rw [here]
  exact if_neg (by simp [state, here, free])
theorem internData_evac {j : Job} (here : evacHere p ch j = true) :
    let d := place (setEvac p (ch / 16) { evacOf p (ch / 16) with cursor := (evacOf p (ch / 16)).cursor + 1 }) j.line
    internData j (.evac ch) p = offerFor (some j.id) d.1
      { wr := true, line := j.line, raw := d.2, data := j.fetched.getD 0, poison := j.fpoison } p := if_pos here
theorem internEnd_evac {j : Job} (here : evacHere p ch j = true) (read : j.fetched.isSome = true)
    (more : (evacOf p (ch / 16)).cursor + 1 < liveLines) : internEnd j (.evac ch) p =
      setEvac p (ch / 16) { evacOf p (ch / 16) with cursor := (evacOf p (ch / 16)).cursor + 1 } := by
  have next : internEnd j (.evac ch) p = evacNext ch p := if_pos (by rw [read, here]; rfl)
  exact next.trans (if_neg (Nat.ne_of_lt more))

/-! ### The glaze pass, row retirement and row copies -/

theorem glazeOne_next (hw : hostMode p fmScrub = false) (reads : noGlaze p ch = false) (more : (chan p ch).glaze < 2 ^ 27)
    (free : internRuns p (.glaze ch) = false) : glazeOne ch p = reachIntern (.glaze ch) (behind p ch (chan p ch).glaze) 0
      (setChan p ch { chan p ch with glaze := (chan p ch).glaze + 1 }) :=
  if_neg (by simp only [hw, reads, free, Nat.not_le.2 more, Bool.false_eq_true, or_self, not_false_eq_true])
theorem retireRow_pending {bank row : Nat} (hw : hostMode p fmPage = false) (good : (chan p ch).pinFault = false)
    (up : (chan p ch).state ≠ .down) (stays : evacuating p ch = false)
    (pending : ((chan p ch).tracker.any fun x => x.bank == bank && x.row == row && x.pending) = true) (spares : row < 131072) :
    retireRow ch bank row p = startRowCopy ch bank row (setChan p ch
      { chan p ch with tracker := (chan p ch).tracker.filter fun x => !(x.bank == bank && x.row == row) }) := by
  have tracked : ∀ q, trackedRow q ch bank row = some row := fun q => if_pos spares
  unfold retireRow
  simp only [hw, good, up, stays, Bool.false_eq_true, or_self, if_false]
  rw [if_pos pending]
  simp only [tracked]

section Row
variable {x : RowCopy} (first : (p.rowCopies.find? fun x => x.ch == ch) = some x)
include first
theorem rowHere_first : rowHere p ch = some (x, clAt x.bank x.row x.cursor) := congrArg (Option.map _) first
theorem rowCopyOne_next (free : internRuns p (.rowCopy ch) = false) :
    rowCopyOne ch p = reachIntern (.rowCopy ch) (behind p ch (clAt x.bank x.row x.cursor)) 0 p := by
  unfold rowCopyOne
  simp only [rowHere_first first, free, Bool.false_eq_true, if_false]
theorem internData_rowCopy (j : Job) : internData j (.rowCopy ch) p = offerFor (some j.id) ch
    { wr := true, line := j.line, raw := spareRaw x.bank x.spare x.cursor, data := j.fetched.getD 0, poison := j.fpoison } p := by
  unfold internData
  simp only [rowHere_first first]
theorem internEnd_rowCopy {j : Job} (read : j.fetched.isSome = true) : internEnd j (.rowCopy ch) p = rowNext ch x p := by
  obtain ⟨data, fetched⟩ := Option.isSome_iff_exists.1 read
  unfold internEnd
  simp only [rowHere_first first, fetched]
end Row

theorem raise_remaps (src : Nat) (code : BitVec 16) (data : BitVec 32) (pay : BitVec 128) (p : Plane) :
    (raise src code data pay p).remaps = p.remaps := by
  simp [raise, offerHeld, offerEv, apply_ite Plane.remaps]
/-- The copy of the last line remaps the row to its spare (R234). -/
theorem rowNext_last {x : RowCopy} (last : x.cursor = 63) :
    tget 0 (rowNext ch x p).remaps (remapKey ch x.bank x.row) = x.spare + 1 := by
  unfold rowNext
  rw [if_neg (by rw [last]; decide)]
  exact (congrArg (fun t => tget 0 t (remapKey ch x.bank x.row)) (raise_remaps _ _ _ _ _)).trans
    (tget_tput_same 0 p.remaps _ (x.spare + 1))
end Channel

/-! ### The SRAM pass, the replay prefetch, range scrubs and maintenance walks -/

theorem sramOne_way {a : Nat} {p : Plane} (ways : a < 64) (more : tget 0 p.sramPos a < 98304) :
    let k := tget 0 p.sramPos a
    sramOne a p = sramPassEnd (a / 16) (readData a (k / 24) (k % 24) (readTag a (k / 24) (k % 24)
      { p with sramPos := tput 0 p.sramPos a (k + 1) })) := by
  have size : sramSize a = 98304 := if_pos ways
  unfold sramOne
  rw [if_neg (by rw [size]; exact Nat.not_le.2 more), if_pos ways]

theorem prefetchOne_next {n : Nat} {p : Plane} {x : Desc} (found : tfind p.descs n = some x) (runs : replayRuns p = true)
    (valid : x.d.valid = true) (more : x.next < x.stop) : prefetchOne n p = reachIntern (.prefetch n) (prefetchLine x) x.d.inst.toNat
      { p with descs := tset p.descs n { x with next := x.next + 1 } } := by
  unfold prefetchOne
  simp only [found]
  exact if_neg (by simp [runs, valid, more])

section Walk
variable {n : Nat} {p : Plane} {o : LongOp} (found : op? p n = some o) (runs : o.ended = none)
include found runs

theorem rangeOne_next {base lines : Nat} (work : o.work = .range base lines) (more : o.cursor < lines)
    (room : rangeReads p n (place p (base + o.cursor)).1 < 16) : rangeOne n p =
      reachIntern (.range n) (base + o.cursor) 0 (setOp p { o with cursor := o.cursor + 1, inHand := o.inHand + 1 }) := by
  unfold rangeOne
  simp only [found, work]
  exact if_neg (by simp only [runs, Nat.not_le.2 more, Nat.not_le.2 room, Option.isSome_none, Bool.false_eq_true, or_self,
    not_false_eq_true])

theorem walkOne_pin {i : Nat} {base lines : Nat} {unpin : Bool} (work : o.work = .pin i base lines unpin) (more : o.cursor < lines)
    (free : o.inHand = 0) : walkOne n p =
      reachIntern (.walk n) (base + o.cursor) 0 (setOp p { o with cursor := o.cursor + 1, inHand := 1 }) := by
  unfold walkOne
  simp only [found, work, runs, Option.isSome_none, Bool.false_eq_true, if_false]
  exact if_neg (by simp [free, more])

/-- A walk of ways takes its next way in hand, and its cursor moves past it. -/
theorem walkOne_way {x : Nat × WayLine} (work : o.work = .cleanAll ∨ o.work = .disable ∨ ∃ i f, o.work = .wayLock i f)
    (free : o.inHand = 0) (next : nextWayFor p o = some x) : walkOne n p =
      reachIntern (.walk n) (keyLine x.1 x.2) 0 (setOp p { o with
        cursor := max o.cursor (x.1 + 1), inHand := 1, extra := o.extra.filter fun y => y != (x.1, keyLine x.1 x.2) }) := by
  have past : pastWay o x = { o with
      cursor := max o.cursor (x.1 + 1), inHand := 1, extra := o.extra.filter fun y => y != (x.1, keyLine x.1 x.2) } := by
    unfold pastWay
    rcases work with h | h | ⟨i, f, h⟩ <;> simp [h, walksWays, free]
  unfold walkOne
  rw [← past]
  rcases work with h | h | ⟨i, f, h⟩ <;> simp [found, h, runs, free, next]
end Walk

/-- Settles O52: each row at the next line of its walk, and the line operation by whether its line is busy. -/
theorem walkRowsAct : Obligations.WalkRowsAct := by
  refine ⟨fun ch s run => ?_, fun a s run ways more => onPlane_of_eq run (sramOne_way ways more), ?_, fun n s o run found runs =>
    ⟨fun base lines work more room => onPlane_of_eq run (rangeOne_next found runs work more room),
     fun x work free next => onPlane_of_eq run (walkOne_way found runs work free next),
     fun i base lines unpin work more free => onPlane_of_eq run (walkOne_pin found runs work more free)⟩,
    fun w line i p => ⟨fun free new => ?_, fun hb => ?_⟩⟩
  · refine ⟨fun state here free => onPlane_of_eq run (evacOne_next state here free),
      fun j here => ⟨internData_evac here, internEnd_evac here⟩,
      fun hw reads more free => onPlane_of_eq run (glazeOne_next hw reads more free),
      fun bank row hw good up stays pending spares => onPlane_of_eq run (retireRow_pending hw good up stays pending spares),
      fun x first => ⟨fun free => onPlane_of_eq run (rowCopyOne_next first free),
        fun j => ⟨internData_rowCopy first j, fun read last => ?_⟩⟩,
      fun bank row => onPlane_of_eq run rfl⟩
    rw [internEnd_rowCopy first read]
    exact rowNext_last last
  · intro desc s x run found runs valid more q
    exact onPlane_of_eq run (prefetchOne_next found runs valid more)
  · exact ⟨fun ends => (reachIntern_free free new).trans (if_pos ends),
      fun stays => (reachIntern_free free new).trans (if_neg (Bool.eq_false_iff.1 stays))⟩
  · obtain ⟨kept, queued⟩ := reachIntern_busy (w := w) (i := i) hb
    exact ⟨kept, _, queued, rfl⟩

end Sys2Proof.Machine
end

/-! PROOF. Flits, retry requests and the parameters of a port or join link (R49 to R54, R64, R250). -/
section
namespace Sys2Proof.Machine
open Sys2Proof

/-! ### A flit -/

/-- The plane once the codewords of a flit are counted. -/
def codewordsCounted (e : LinkEnd) (cw : BitVec 4) (p : Plane) : Plane :=
  let x := flitCodewords (retryOf p e) cw
  let c := setRetry p e { retryOf p e with cwBad := x.2.2 }
  if x.1 = 0 then c else badCodewords e x.1 c
/-- What a flit without an error does, by its FTYPE. -/
def goodFlit (e : LinkEnd) (f : Flit) (p : Plane) : Plane :=
  match (flitType f).toNat with
  | 1 => flitReturns e f p
  | 2 => recvRetryReq e (flitSeq f) (flitReturns e f p)
  | 0 | 3 =>
    if flitSeq f = (retryOf p e).rxSeq then
      flitContent e f (setRetry (flitReturns e f p) e (acceptSeq (retryOf (flitReturns e f p) e)))
    else if isDuplicate (flitSeq f) (retryOf p e).rxSeq then p
    else rejectFlit e p
  | _ => match e with
    | .port i => contain i cBadMessage p
    | .join j => failLink j p

section Flit
variable {e : LinkEnd} {f : Flit} {cw : BitVec 4} {p : Plane}

section Taken
variable (taken : takesFlits p e = true)
include taken
theorem recvFlit_counted : recvFlit e f cw p =
    if takesFlits (codewordsCounted e cw p) e = false then codewordsCounted e cw p
    else if (flitCodewords (retryOf p e) cw).2.1 = true ∨ flitCrc f ≠ crcOf f then rejectFlit e (codewordsCounted e cw p)
    else goodFlit e f (codewordsCounted e cw p) := if_neg (by simp [taken])
theorem recvFlit_stopped (stopped : takesFlits (codewordsCounted e cw p) e = false) : recvFlit e f cw p = codewordsCounted e cw p :=
  (recvFlit_counted taken).trans (if_pos stopped)
theorem recvFlit_bad (goes : takesFlits (codewordsCounted e cw p) e = true)
    (bad : (flitCodewords (retryOf p e) cw).2.1 = true ∨ flitCrc f ≠ crcOf f) :
    recvFlit e f cw p = rejectFlit e (codewordsCounted e cw p) :=
  (recvFlit_counted taken).trans ((if_neg (by simp [goes])).trans (if_pos bad))
theorem recvFlit_good (goes : takesFlits (codewordsCounted e cw p) e = true)
    (good : (flitCodewords (retryOf p e) cw).2.1 = false) (crc : flitCrc f = crcOf f) :
    recvFlit e f cw p = goodFlit e f (codewordsCounted e cw p) :=
  (recvFlit_counted taken).trans ((if_neg (by simp [goes])).trans
    (if_neg (by simp only [good, crc, Bool.false_eq_true, ne_eq, not_true_eq_false, or_self, not_false_eq_true])))
end Taken

theorem goodFlit_idle (h : flitType f = 1) : goodFlit e f p = flitReturns e f p := by
  unfold goodFlit
  rw [h]
  rfl
theorem goodFlit_retryReq (h : flitType f = 2) : goodFlit e f p = recvRetryReq e (flitSeq f) (flitReturns e f p) := by
  unfold goodFlit
  rw [h]
  rfl
/-- A MSG or CTRL flit is taken on, known already, or out of order (R50). -/
theorem goodFlit_numbered (h : flitType f = 0 ∨ flitType f = 3) : goodFlit e f p =
    if flitSeq f = (retryOf p e).rxSeq then
      flitContent e f (setRetry (flitReturns e f p) e (acceptSeq (retryOf (flitReturns e f p) e)))
    else if isDuplicate (flitSeq f) (retryOf p e).rxSeq then p
    else rejectFlit e p := by
  unfold goodFlit
  rcases h with h | h
  · rw [h]
    rfl
  · rw [h]
    rfl
theorem goodFlit_reserved (h : 4 ≤ (flitType f).toNat) :
    (∀ i, e = .port i → goodFlit e f p = contain i cBadMessage p) ∧ (∀ j, e = .join j → goodFlit e f p = failLink j p) := by
  obtain ⟨n, hn⟩ := Nat.exists_eq_add_of_le' h
  unfold goodFlit
  rw [hn]
  exact ⟨fun i own => by simp only [own], fun j own => by simp only [own]⟩

/-! ### Retry requests -/

variable {seq : Nat}

theorem retryCount_one : retryCount e 1 p = p :=
  (if_neg (by decide)).trans (if_neg (by simp))
theorem recvRetryReq_unknown (h : ((retryOf p e).replay.any fun x => x.1 == seq) = false) : recvRetryReq e seq p = linkFault e p :=
  if_neg (by simp only [h, Bool.false_eq_true, not_false_eq_true])
theorem recvRetryReq_first (h : ((retryOf p e).replay.any fun x => x.1 == seq) = true)
    (first : (retryOf p e).txReqs = 0 ∨ (retryOf p e).txReqSeq ≠ seq) : recvRetryReq e seq p = setRetry p e
      { resendAll ((retryOf p e).replay.dropWhile fun x => x.1 != seq) (retryOf p e) with txReqSeq := seq, txReqs := 1 } := by
  have one : (if (retryOf p e).txReqs ≠ 0 ∧ (retryOf p e).txReqSeq = seq then (retryOf p e).txReqs + 1 else 1) = 1 :=
    if_neg (not_and_or.2 (first.imp not_not_intro id))
  unfold recvRetryReq
  rw [if_pos h]
  simp only [one]
  exact retryCount_one
theorem recvRetryReq_repeated (h : ((retryOf p e).replay.any fun x => x.1 == seq) = true)
    (same : (retryOf p e).txReqSeq = seq) (again : (retryOf p e).txReqs ≠ 0) : recvRetryReq e seq p =
      retryCount e ((retryOf p e).txReqs + 1) (setRetry p e
        { resendAll ((retryOf p e).replay.dropWhile fun x => x.1 != seq) (retryOf p e) with
          txReqSeq := seq, txReqs := (retryOf p e).txReqs + 1 }) := by
  have count : (if (retryOf p e).txReqs ≠ 0 ∧ (retryOf p e).txReqSeq = seq then (retryOf p e).txReqs + 1 else 1) =
      (retryOf p e).txReqs + 1 := if_pos ⟨again, same⟩
  unfold recvRetryReq
  rw [if_pos h]
  simp only [count]
  rfl
end Flit

theorem flitCodewords_none (r : Retry) : flitCodewords r 0 = (0, false, false) := by simp [flitCodewords]
theorem flitCodewords_own (r : Retry) : flitCodewords r 2 = (1, true, true) := by simp [flitCodewords]
/-- A flit whose first codeword is shared with the one before takes that one's verdict. -/
theorem flitCodewords_shared (r : Retry) : flitCodewords r 1 = (0, r.cwBad, r.cwBad) := by simp [flitCodewords]

/-! ### Parameters -/

/-- The credits that a peer's PARAM grants. -/
def paramCredits (w : Slot) : Credits :=
  { req := (w.extractLsb' 48 16).toNat, snp := (w.extractLsb' 32 16).toNat,
    evn := (w.extractLsb' 16 16).toNat, dat := (w.extractLsb' 0 16).toNat }
theorem takeParam_taken {i : Nat} {w : Slot} {p : Plane} (step : (port p i).step = 2) (version : w.extractLsb' 112 8 = (1 : BitVec 8))
    (snp : 8 * countBits (w.extractLsb' 96 8 : BitVec 8) 8 ≤ (paramCredits w).snp) (dat : 16 ≤ (paramCredits w).dat)
    (req : 4 ≤ (paramCredits w).req) : takeParam i w p =
      let pres : BitVec 8 := w.extractLsb' 104 8
      setPort p i { port p i with
        step := 7, present := pres, caching := w.extractLsb' 96 8, levels := [], have_ := paramCredits w, owed := {},
        given := { req := 192, evn := 8 * countBits pres 8, dat := 64 },
        retry := sendFlit (port p i).retry (.ctrl (moduleParam pres)) } := by
  unfold takeParam
  rw [if_neg (by simp [step]), if_neg (not_not_intro version), if_neg, if_pos step]
  · rfl
  · exact fun h => h.elim (Nat.not_lt.2 snp) fun h => h.elim (Nat.not_lt.2 dat) (Nat.not_lt.2 req)

section Jparam
variable {j : Nat} {w : Slot} {p : Plane} (training : (link p j).state = .training) (step : (link p j).step = 2)
include training step

theorem takeJparam_ownNode (own : (w.extractLsb' 98 14).toNat = p.dw.node) : takeJparam j w p =
    raise (tileSrc (linkTile j) (8 + j % 4)) 1 (BitVec.ofNat 32 (w.extractLsb' 98 14).toNat) 0 p :=
  (if_neg (by simp [training, step])).trans (if_pos own)

variable (other : (w.extractLsb' 98 14).toNat ≠ p.dw.node)
include other

theorem takeJparam_unexpected {x : Nat} (expect : (link p j).expect = some x) (ne : x ≠ (w.extractLsb' 98 14).toNat) :
    takeJparam j w p = raise (tileSrc (linkTile j) (8 + j % 4)) 2 (BitVec.ofNat 32 (w.extractLsb' 98 14).toNat) 0 p :=
  (if_neg (by simp [training, step])).trans ((if_neg other).trans
    (if_pos (by rw [expect]; exact ⟨rfl, fun h => ne (Option.some.inj h)⟩)))
theorem takeJparam_taken (expect : (link p j).expect = none) (version : w.extractLsb' 112 8 = (1 : BitVec 8))
    (credits : ∀ k, k < 6 → 16 ≤ (w.extractLsb' (12 * k) 12).toNat) :
    let c : Credits := { req := (w.extractLsb' 60 12).toNat, snp := (w.extractLsb' 48 12).toNat,
                         evn := (w.extractLsb' 36 12).toNat, dat := (w.extractLsb' 24 12).toNat,
                         rsp := (w.extractLsb' 12 12).toNat, rel := (w.extractLsb' 0 12).toNat }
    let g : Credits := { req := 64, snp := 64, evn := 64, dat := 64, rsp := 128, rel := 128 }
    takeJparam j w p = setLink p j { link p j with
      step := 7, peerNode := (w.extractLsb' 98 14).toNat, peerLink := (w.extractLsb' 94 4).toNat, haveA := c, haveB := c,
      givenA := g, givenB := g, owedA := {}, owedB := {} } := by
  have few (k : Nat) (hk : k < 6) : ¬(w.extractLsb' (12 * k) 12).toNat < 16 := Nat.not_lt.2 (credits k hk)
  unfold takeJparam
  rw [if_neg (by simp [training, step]), if_neg other, if_neg (by simp [expect]), if_neg]
  rw [version]
  simp only [ne_eq, not_true_eq_false, false_or, not_or]
  exact ⟨few 5 (by decide), few 4 (by decide), few 3 (by decide), few 2 (by decide), few 1 (by decide), few 0 (by decide)⟩
end Jparam

/-! ### The rows -/

theorem exec_retryReq {e : LinkEnd} {seq : BitVec 10} {s : State} {p : Plane} (run : s.mg.life = .run) (active : endActive s.dp e = true)
    (h : recvRetryReq e seq.toNat s.dp = p) : exec (.retryReq e seq) s = planeTurns p s :=
  onPlane_of_eq run ((if_pos active).trans h)

/-- Settles O53: a flit by its codewords, its CRC and its FTYPE; the requests and parameters by what they find. -/
theorem linkRowsAct : Obligations.LinkRowsAct := by
  refine ⟨fun e f cw s run taken => ?_, fun r => ⟨flitCodewords_none r, flitCodewords_own r, flitCodewords_shared r⟩,
    fun e seq s run active => ⟨fun unknown => exec_retryReq run active (recvRetryReq_unknown unknown),
      fun known => ⟨fun first => exec_retryReq run active (recvRetryReq_first known first),
        fun same again => exec_retryReq run active (recvRetryReq_repeated known same again)⟩,
      fun waits => onPlane_of_eq run (if_pos (by rw [active, waits]; rfl))⟩, ?_, ?_⟩
  · refine ⟨fun stopped => onPlane_of_eq run (recvFlit_stopped taken stopped), fun goes =>
      ⟨fun bad => onPlane_of_eq run (recvFlit_bad taken goes bad), fun good crc => ?_⟩⟩
    have row {q : Plane} (h : goodFlit e f (codewordsCounted e cw s.dp) = q) : exec (.flitReceive e f cw) s = planeTurns q s :=
      onPlane_of_eq run ((recvFlit_good taken goes good crc).trans h)
    refine ⟨fun h => row (goodFlit_idle h), fun h => row (goodFlit_retryReq h),
      fun h => ⟨fun next => ?_, fun ne dup => ?_, fun ne far => ?_⟩,
      fun h => ⟨fun i own => row ((goodFlit_reserved h).1 i own), fun j own => row ((goodFlit_reserved h).2 j own)⟩⟩
    · exact row ((goodFlit_numbered h).trans (if_pos next))
    · exact row ((goodFlit_numbered h).trans ((if_neg ne).trans (if_pos dup)))
    · exact row ((goodFlit_numbered h).trans ((if_neg ne).trans (if_neg (Bool.eq_false_iff.1 far))))
  · intro i w s run step version h pres cach snp dat req
    exact onPlane_of_eq run (takeParam_taken step version snp dat req)
  · intro j w s run training step node src
    refine ⟨fun own => onPlane_of_eq run (takeJparam_ownNode training step own),
      fun other x expect ne => onPlane_of_eq run (takeJparam_unexpected training step other expect ne),
      fun other expect version credits => ⟨_, onPlane_of_eq run (takeJparam_taken training step other expect version credits), ?_⟩⟩
    simp only [link_setLink]
    exact ⟨trivial, trivial, rfl, trivial, trivial, trivial⟩

end Sys2Proof.Machine
end

/-! PROOF. The training of ports and join links (R47, R48, R55, R76, R77, R241, R445). -/
section
namespace Sys2Proof.Machine
open Sys2Proof

/-! ### The width of a training -/

/-- A width lies within the maximum of the peer, and its lanes passed. -/
def fitsWidth (lanes : BitVec 8) (peerMax w : Nat) : Bool :=
  decide (w ≤ peerMax) && (List.range w).all fun k => lanes.getLsbD k

section Width
variable {lanes : BitVec 8} {peerMax w : Nat}

theorem fitsWidth_iff : fitsWidth lanes peerMax w = true ↔ w ≤ peerMax ∧ ∀ k, k < w → lanes.getLsbD k = true := by
  simp only [fitsWidth, Bool.and_eq_true, decide_eq_true_iff, List.all_eq_true, List.mem_range]
theorem chosenWidth_eq (lanes : BitVec 8) (peerMax : Nat) : chosenWidth lanes peerMax =
    if fitsWidth lanes peerMax 8 then 8 else if fitsWidth lanes peerMax 4 then 4
    else if fitsWidth lanes peerMax 2 then 2 else if fitsWidth lanes peerMax 1 then 1 else 0 := by
  have first : chosenWidth lanes peerMax = ([8, 4, 2, 1].find? (fitsWidth lanes peerMax)).getD 0 :=
    congrArg (·.getD 0) (List.head?_filter ..)
  rw [first]
  simp only [List.find?_cons, List.find?_nil]
  cases fitsWidth lanes peerMax 8 with
  | true => rfl
  | false => cases fitsWidth lanes peerMax 4 with
    | true => rfl
    | false => cases fitsWidth lanes peerMax 2 with
      | true => rfl
      | false => cases fitsWidth lanes peerMax 1 <;> rfl

/-- The chosen width is one of four that fits, or none fits and it is 0. -/
theorem chosenWidth_cases (lanes : BitVec 8) (peerMax : Nat) :
    (chosenWidth lanes peerMax = 0 ∧ fitsWidth lanes peerMax 1 = false) ∨
    ((chosenWidth lanes peerMax = 1 ∨ chosenWidth lanes peerMax = 2 ∨ chosenWidth lanes peerMax = 4 ∨
      chosenWidth lanes peerMax = 8) ∧
      fitsWidth lanes peerMax (chosenWidth lanes peerMax) = true) := by
  rw [chosenWidth_eq]
  split
  next h => exact .inr ⟨by decide, h⟩
  next => split
          next h => exact .inr ⟨by decide, h⟩
          next => split
                  next h => exact .inr ⟨by decide, h⟩
                  next => split
                          next h => exact .inr ⟨by decide, h⟩
                          next h => exact .inl ⟨rfl, Bool.eq_false_iff.2 h⟩
/-- No wider width fits. -/
theorem not_fitsWidth_of_lt (h : w = 2 ∨ w = 4 ∨ w = 8) (lt : chosenWidth lanes peerMax < w) : fitsWidth lanes peerMax w = false := by
  rw [chosenWidth_eq] at lt
  refine Bool.eq_false_iff.2 fun fits => ?_
  rcases h with rfl | rfl | rfl <;> rw [fits] at lt <;> grind
theorem chosenWidth_eq_zero_iff : chosenWidth lanes peerMax = 0 ↔ lanes.getLsbD 0 = false ∨ peerMax = 0 := by
  rcases chosenWidth_cases lanes peerMax with ⟨zero, none⟩ | ⟨four, fits⟩
  · have : ¬(1 ≤ peerMax ∧ ∀ k, k < 1 → lanes.getLsbD k = true) := fun h => nomatch none.symm.trans (fitsWidth_iff.2 h)
    refine ⟨fun _ => ?_, fun _ => zero⟩
    by_contra h
    obtain ⟨lane, max⟩ := not_or.1 h
    exact this ⟨Nat.pos_of_ne_zero max, fun k hk => by rw [Nat.lt_one_iff.1 hk]; exact Bool.eq_true_of_not_eq_false lane⟩
  · obtain ⟨le, passed⟩ := fitsWidth_iff.1 fits
    have pos : 0 < chosenWidth lanes peerMax := by omega
    refine ⟨fun h => absurd h (Nat.ne_of_gt pos), fun h => h.elim (fun lane => ?_) fun max => ?_⟩
    · exact nomatch lane.symm.trans (passed 0 pos)
    · omega
theorem chosenWidth_widest (h : chosenWidth lanes peerMax = w) (lanesUp : w ≠ 0) :
    (w = 1 ∨ w = 2 ∨ w = 4 ∨ w = 8) ∧ w ≤ peerMax ∧ (∀ k, k < w → lanes.getLsbD k = true) ∧
    ∀ v, (v = 2 ∨ v = 4 ∨ v = 8) → w < v → v ≤ peerMax → ∃ k, k < v ∧ lanes.getLsbD k = false := by
  rcases chosenWidth_cases lanes peerMax with ⟨zero, -⟩ | ⟨four, fits⟩
  · exact absurd (h.symm.trans zero) lanesUp
  · rw [h] at four fits
    obtain ⟨le, passed⟩ := fitsWidth_iff.1 fits
    refine ⟨four, le, passed, fun v wide lt max => ?_⟩
    by_contra all
    have fitsV : fitsWidth lanes peerMax v = true :=
      fitsWidth_iff.2 ⟨max, fun k hk => Bool.eq_true_of_not_eq_false fun no => all ⟨k, hk, no⟩⟩
    exact nomatch fitsV.symm.trans (not_fitsWidth_of_lt wide (h ▸ lt))
end Width

/-! ### Ports -/

section Port
variable {i : Nat} {p : Plane}

theorem detectPort_first (step : (port p i).step = 1) : detectPort i p = setPort p i { port p i with
    step := 2, state := if (port p i).state = .down then .training else (port p i).state,
    retry := sendSyncs { sentReqs := (port p i).retry.sentReqs, cwTotal := (port p i).retry.cwTotal } } :=
  if_neg (not_not_intro step)
theorem stepFailPort_training (training : (port p i).state = .training) (step : (port p i).step = 2 ∨ (port p i).step = 7) :
    stepFailPort i p = setPort p i { port p i with step := 1, state := .down } := by
  unfold stepFailPort
  simp only [training, if_true]
  exact if_pos (step.imp_right .inr)

variable {w : Nat}
theorem endTrainPort_retrained (retraining : (port p i).state = .retraining) (h : w ≠ 0) : endTrainPort i w p =
    pump i (setPort p i (returnCredits { port p i with
      state := .active, width := w, retrains := (port p i).retrains + 1, retry := afterRetrain (port p i).retry } {})) := by
  unfold endTrainPort
  simp only [retraining]
  exact if_neg h
theorem endTrainPort_retrain_failed (retraining : (port p i).state = .retraining) (h : w = 0) : endTrainPort i w p = stepFailPort i p := by
  unfold endTrainPort
  simp only [retraining]
  exact if_pos h
theorem endTrainPort_trained (not_retraining : (port p i).state ≠ .retraining) (not_active : (port p i).state ≠ .active)
    (step : (port p i).step = 7) (h : w ≠ 0) : endTrainPort i w p = startPort i w p := by
  unfold endTrainPort
  dsimp only
  split
  · contradiction
  · contradiction
  · rw [if_neg h, if_pos step]
theorem endTrainPort_no_lane (training : (port p i).state = .training) (step : (port p i).step = 2) (h : w = 0) :
    endTrainPort i w p = setPort p i { port p i with step := 8, state := .down } := by
  unfold endTrainPort
  simp only [training, h, step, if_true]
end Port

/-! ### Join links -/

section Link
variable {j : Nat} {p : Plane}

theorem detectLink_first (training : (link p j).state = .training) (step : (link p j).step = 1) : detectLink j p =
    setLink p j { link p j with step := 2, retry := sendFlit (sendSyncs
      { sentReqs := (link p j).retry.sentReqs, cwTotal := (link p j).retry.cwTotal }) (.ctrl (moduleJparam p.dw.node j)) } :=
  if_pos ⟨training, step⟩

variable (training : (link p j).state = .training) {w : Nat}
theorem endTrainLink_retrained (retraining : (link p j).state = .retraining) (h : w ≠ 0) : endTrainLink j w p =
    setLink p j (returnJoin true {} (returnJoin false {} { link p j with
      state := .active, width := w, retrains := (link p j).retrains + 1, retry := afterRetrain (link p j).retry })) := by
  unfold endTrainLink
  simp only [retraining]
  exact if_neg h
include training
theorem stepFailLink_training (step : (link p j).step = 2 ∨ (link p j).step = 7) :
    stepFailLink j p = setLink p j { link p j with step := 1 } := by
  unfold stepFailLink
  simp only [training]
  exact if_pos step
theorem endTrainLink_trained (step : (link p j).step = 7) (h : w ≠ 0) :
    endTrainLink j w p = setLink p j { link p j with state := .active, step := 0, width := w } := by
  unfold endTrainLink
  simp only [training]
  exact (if_neg h).trans (if_pos step)
theorem endTrainLink_no_lane (step : (link p j).step = 2) (h : w = 0) :
    endTrainLink j w p = setLink p j { link p j with step := 8 } := by
  unfold endTrainLink
  simp only [training]
  exact (if_pos h).trans (if_pos step)
end Link

/-- Settles O54: the rows by the state and the step of their port or link, and the width by what fits. -/
theorem trainingRowsAct : Obligations.TrainingRowsAct := by
  refine ⟨fun i s run => ?_, fun lanes peerMax w h => ⟨?_, chosenWidth_widest h⟩, fun j s run => ?_⟩
  · refine ⟨fun up => onPlane_of_eq run (if_pos up), fun contained => onPlane_of_eq run (if_pos contained),
      fun step => onPlane_of_eq run (detectPort_first step),
      fun training step => onPlane_of_eq run (stepFailPort_training training step),
      fun step => onPlane_of_eq run (if_pos step), fun lanes peerMax => ⟨fun wide => ⟨fun retraining => ?_, fun step nr na => ?_⟩,
        fun none => ⟨fun training step => ?_, fun retraining => ?_⟩⟩⟩
    · exact onPlane_of_eq run (endTrainPort_retrained retraining wide)
    · exact onPlane_of_eq run (endTrainPort_trained nr na step wide)
    · exact onPlane_of_eq run (endTrainPort_no_lane training step none)
    · exact onPlane_of_eq run (endTrainPort_retrain_failed retraining none)
  · rw [← h]
    exact chosenWidth_eq_zero_iff
  · refine ⟨fun up => onPlane_of_eq run (if_pos up),
      fun training => ⟨fun step => onPlane_of_eq run (detectLink_first training step),
        fun step => onPlane_of_eq run (stepFailLink_training training step)⟩,
      fun step => onPlane_of_eq run (if_pos step), fun lanes peerMax => ⟨fun wide => ⟨fun retraining => ?_, fun training step => ?_⟩,
        fun none training step => ?_⟩⟩
    · exact onPlane_of_eq run (endTrainLink_retrained retraining wide)
    · exact onPlane_of_eq run (endTrainLink_trained training step wide)
    · exact onPlane_of_eq run (endTrainLink_no_lane training step none)

end Sys2Proof.Machine
end

/-! PROOF. Held messages, pattern periods, tap buckets, orphan frames and time links (R351, R365, R367, R369). -/
section
namespace Sys2Proof.Machine
open Sys2Proof

/-! ### Held messages -/

section Release
variable {i k d : Nat} {o : Out} {p : Plane}

/-- A message that engine 0 holds goes on in its order. -/
theorem releasePort_reorder (held : (engineOf (port p i) 0).held[k]? = some (d, o)) : releasePort i 0 k p =
    let e := engineOf (port p i) 0
    pump i (setPort p i (reorder (setEngine (port p i) 0 { e with held := e.held.eraseIdx k }) o)) := by
  unfold releasePort
  simp only [held, if_true]
/-- A message that another engine of a port holds joins those to be sent. -/
theorem releasePort_append {n : Nat} (other : n ≠ 0) (held : (engineOf (port p i) n).held[k]? = some (d, o)) : releasePort i n k p =
    let e := engineOf (port p i) n
    let pt := setEngine (port p i) n { e with held := e.held.eraseIdx k }
    pump i (setPort p i { pt with txq := pt.txq ++ [o] }) := by
  unfold releasePort
  simp only [held, other, if_false]
theorem releaseAnswer_held (held : (engineOf (port p i) 3).held[k]? = some (d, o)) : releaseAnswer i k p =
    let e := engineOf (port p i) 3
    deliverAnswer i o (setPort p i (setEngine (port p i) 3 { e with held := e.held.eraseIdx k })) := by
  unfold releaseAnswer
  simp only [held]
theorem releaseRead_held {y} (held : (chan p i).heldRet[k]? = some (d, y)) : releaseRead i k p =
    setChan p i { chan p i with heldRet := (chan p i).heldRet.eraseIdx k, ret := (chan p i).ret ++ [y] } := by
  unfold releaseRead
  simp only [held]
theorem releaseJoin_held (held : (link p i).engine.held[k]? = some (d, o)) : releaseJoin i k p =
    let l := link p i
    setLink p i { l with
      engine := { l.engine with held := l.engine.held.eraseIdx k }, retry := sendFlit l.retry o } := by
  unfold releaseJoin
  simp only [held]
end Release

/-! ### Pattern periods -/

/-- Engine 1 at its next period, of its fixed length. -/
def nextPatternBit (e : Engine) : Engine := { e with bit := (e.bit + 1) % 64, period := max 1 e.value }

section Period
variable {i : Nat} {p : Plane} (fixed : (engineOf (port p i) 1).mode = 1)
include fixed

theorem periodOf_fixed : periodOf { engineOf (port p i) 1 with bit := ((engineOf (port p i) 1).bit + 1) % 64 } =
    (max 1 (engineOf (port p i) 1).value, { engineOf (port p i) 1 with bit := ((engineOf (port p i) 1).bit + 1) % 64 }) := by
  unfold periodOf delayE
  simp [fixed]
theorem nextPeriod_fixed : nextPeriod i p =
    let e := engineOf (port p i) 1
    if e.pattern.getLsbD ((e.bit + 1) % 64) then setPort p i (setEngine (port p i) 1 (nextPatternBit e))
    else setPort p i (returnCredits (setEngine (port p i) 1 { nextPatternBit e with keptReq := 0, keptDat := 0 })
      { req := e.keptReq, dat := e.keptDat }) := by
  unfold nextPeriod
  rw [if_neg (by rw [fixed]; decide)]
  simp only [periodOf_fixed fixed]
  rfl
end Period

/-! ### Taps -/

section Tap
variable {t : Nat} {p : Plane}

theorem tap_setTap (p : Plane) (t : Nat) (x : Tap) : tap (setTap p t x) t = x := tget_tput_same ..
/-- What a tap has gathered and not yet recorded: its buckets and its unmet count. -/
def tapGathered (t : Nat) (p : Plane) : List Bucket × Nat := ((tap p t).buckets, (tap p t).unmet)
theorem tapGathered_queueRec (t : Nat) (r : TapRec) (p : Plane) : tapGathered t (queueRec t r p) = tapGathered t p := by
  unfold queueRec tapGathered
  rw [tap_setTap]
/-- A bucket's end leaves nothing gathered (R365). -/
theorem tapGathered_endBucket (ms : p.variant = .ms) (up : (tap p t).down = false) : tapGathered t (endBucket t p) = ([], 0) := by
  unfold endBucket
  rw [if_neg (by simp [ms, up])]
  refine (foldl_view (tapGathered t) (fun q b => tapGathered_queueRec t _ q) _ _).trans ?_
  have emptied : tapGathered t (setTap p t { tap p t with buckets := [], unmet := 0 }) = ([], 0) := by
    unfold tapGathered
    rw [tap_setTap]
  split
  · exact emptied
  · exact (tapGathered_queueRec t _ _).trans emptied
theorem endBucket_cleared (ms : p.variant = .ms) (up : (tap p t).down = false) :
    (tap (endBucket t p) t).buckets = [] ∧ (tap (endBucket t p) t).unmet = 0 := Prod.mk.inj (tapGathered_endBucket ms up)
theorem timeDown_up (ms : p.variant = .ms) (up : (tap p t).down = false) : timeDown t p =
    let q := orphanAll (fun pos _ => pos / 64 == t) p
    raise 42 3 (BitVec.ofNat 32 t) (BitVec.ofNat 128 (t * 2 ^ 64)) (setTap q t { tap q t with down := true }) :=
  if_neg (by simp [ms, up])
theorem timeBack_down (ms : p.variant = .ms) (down : (tap p t).down = true) : timeBack t p =
    raise 42 4 (BitVec.ofNat 32 t) (BitVec.ofNat 128 (t * 2 ^ 64)) (setTap p t { tap p t with down := false }) :=
  if_neg (by simp [ms, down])
theorem orphanFrame_open {pos : Nat} {f : Frame} (h : tfind p.frames pos = some f) :
    orphanFrame pos p = closeFrame (pos / 64) f.inst f.bytes f.last true { p with frames := tdel p.frames pos } := by
  unfold orphanFrame
  simp only [h]
end Tap

/-- Settles O55: a release by its engine, a pattern period by its bit, and the tap rows by whether the time link is down. -/
theorem perturbAndTapRowsAct : Obligations.PerturbAndTapRowsAct := by
  refine ⟨fun k s d o run => ⟨fun t ht => ⟨fun held => ?_, ?_, fun held => ?_⟩, fun t y held => ?_, fun t ht => ?_⟩, ?_,
    fun t s run ms => ⟨fun up => ⟨onPlane_of_eq run rfl,
      (endBucket_cleared ms up).1, (endBucket_cleared ms up).2, ?_⟩, fun down powered => ?_⟩,
    fun i sub s f run h => onPlane_of_eq run (orphanFrame_open h)⟩
  · exact onPlane_of_eq run ((if_pos ht).trans (releasePort_reorder held))
  · intro e pt held
    exact onPlane_of_eq run ((if_pos ht).trans (releasePort_append (by decide) held))
  · exact onPlane_of_eq run ((if_pos ht).trans (releaseAnswer_held held))
  · exact onPlane_of_eq run (releaseRead_held held)
  · exact fun held => onPlane_of_eq run ((if_pos ht).trans (releaseJoin_held held))
  · intro i s run e fixed f
    refine ⟨fun one => onPlane_of_eq run ((nextPeriod_fixed fixed).trans (if_pos one)), ?_⟩
    intro zero pt
    exact onPlane_of_eq run ((nextPeriod_fixed fixed).trans (if_neg (Bool.eq_false_iff.1 zero)))
  · exact onPlane_of_eq run (timeDown_up ms up)
  · exact onPlane_of_eq run ((if_pos powered).trans (timeBack_down ms down))

end Sys2Proof.Machine
end
